-- ==== Sys2Proof/Word.lean ====
section
/-! DEFINITION. The numbers the manual names by their width (00_scope.md, "Identifiers"), and the plainest
arithmetic on them.  A level of the floor line is a `Bool`: `true` is recessive (a one), `false` is dominant
(a zero), so that the lower-valued frame wins the line. -/

namespace Sys2Proof

abbrev Byte := BitVec 8
/-- A station number, 1 to 63; 0 is invalid. -/
abbrev Station := BitVec 6
/-- An order number: the desk's station number in the 6 high bits, the desk's sequence below. -/
abbrev OrderNo := BitVec 24
/-- A loan number: the issuing station in the 6 high bits, a sequence of 18 bits below. -/
abbrev LoanNo := BitVec 24
abbrev LoanSeq := BitVec 18
abbrev Patron := BitVec 24
abbrev Title := BitVec 20
abbrev Edition := BitVec 4
abbrev Serial := BitVec 32
/-- A day number: 0 means that no date is known yet. -/
abbrev Day := BitVec 16
abbrev Zone := BitVec 6
/-- A millisecond count of the timebase, which wraps (R174). -/
abbrev Millis := BitVec 32
abbrev Seconds := BitVec 32
abbrev Container := BitVec 16
abbrev Shelf := BitVec 16
abbrev TrayNo := BitVec 16
/-- One of the eight sockets, filters or tray groups. -/
abbrev Idx8 := Fin 8

/-- A title together with its edition: the key of the title directory and of the braille set table. -/
structure Work where
  title   : Title
  edition : Edition
  deriving DecidableEq, Repr

/-- The smallest integer not less than `a / b` (00_scope.md, "Numbers and ranges"). -/
def ceilDiv (a b : Nat) : Nat := (a + b - 1) / b

/-- `x` replaced by the nearest end of `lo` to `hi` when it lies outside (R176). -/
def clamp (lo hi x : Nat) : Nat := max lo (min hi x)

end Sys2Proof
end

