-- ==== Sys2Proof/Syntax.lean ====
section
/-! DEFINITION. The commands: one constructor for each row of spec/opcode_table.json, in the table's order.
A frame event carries no fields: it acts on the head of the receive queue (R13) or on the entry in
transmission (R14), which State holds.  A `RecordWrite` says whether the store port completes the record
memory write that ends the event (R72, R165, R178). -/

namespace Sys2Proof

/-- Whether the store port completes the event's record memory write (R178). -/
inductive RecordWrite where
  | completed | failed
  deriving DecidableEq, Repr

/-- A receiver's error (R5, R6, R9); `lateForm` is a form error that falls after the acknowledge slot (R10). -/
inductive RxError where
  | stuff | check | form | lateForm
  deriving DecidableEq, Repr

/-- What the ports give at the end of a transmission: the level of the line in each quantum from the lead of the start bit
on, which the sender samples and compares with the bits it sends (R2, R9, R10), and the event's record memory write. -/
structure SendEnd where
  wave  : List Bool
  write : RecordWrite
  deriving DecidableEq, Repr

/-- The transfer that a hold pauses: the UNLOCK of a guarded operation, its own command, a LOCK, or another, which is a
STATE or a READ (R81, R82, R87). -/
inductive HeldTransfer where
  | unlock | command | lock | other
  deriving DecidableEq, Repr

/-- What the ports give at a command in which a LOCK is sent, or goes on at the end of a hold: whether a hold falls in the
rest of the LOCK's transfer (R81, R82, R87), and the event's record memory write. -/
structure OpEnd where
  lockHeld : Bool
  write    : RecordWrite
  deriving DecidableEq, Repr

/-- The ready line of a socket goes low in a transfer, or is released (R81).  `e` bears on the release of a held LOCK
alone. -/
inductive ReadyLine where
  | low (transfer : HeldTransfer)
  | released (e : OpEnd)
  deriving DecidableEq, Repr

/-- A cartridge's answer to STATE (R75, R80). -/
structure StateAnswer where
  busy  : Bool
  latch : Bool
  fault : Bool
  deriving DecidableEq, Repr

/-- A loan field of a bench line: the two groups of digits around the full stop, as written (R169). -/
structure BenchLoan where
  station  : Nat
  sequence : Nat
  deriving DecidableEq, Repr

/-- The commands of the part.  `n` is a socket number; `w` the outcome of the event's record memory write. -/
inductive Instr where
  | powerOnReset
  | reset
  /-- The bytes the configuration port returned (R175). -/
  | configRead (bytes : List Byte)
  /-- The store port's answer: the master store's size in blocks, or none if it fails to answer (R178). -/
  | recordMemoryOpen (storeSize : Option Nat)
  | recovery
  /-- The level of the line in each quantum from the hard-aligning edge to the eighth end bit (R1 to R10). -/
  | frameReceived (wave : List Bool)
  | receiveError (e : RxError)
  | order
  | bidHeard (w : RecordWrite)
  | heldHeard (w : RecordWrite)
  | shippedHeard (w : RecordWrite)
  | releaseHeard (w : RecordWrite)
  | cancel (w : RecordWrite)
  | date (w : RecordWrite)
  | returnedHeard (w : RecordWrite)
  | transmitStart
  | lostArbitration (e : SendEnd)
  /-- `wave` as in `SendEnd`. -/
  | transmitFailure (wave : List Bool) (w : RecordWrite)
  | transmitSuccess (e : SendEnd)
  | joiningIdle
  /-- `underWay`: a frame's reception is under way at the expiry (R12). -/
  | muteExpiry (underWay : Bool)
  | windowExpiry (order : OrderNo) (w : RecordWrite)
  | dayScanVisit (w : RecordWrite)
  | cartridgeInsertion (n : Idx8)
  | identifyLimitExpiry (n : Idx8)
  | cartridgeRemoval (n : Idx8) (w : RecordWrite)
  /-- A READ ends with its bytes (R80). -/
  | readCompletion (n : Idx8) (bytes : List Byte) (w : RecordWrite)
  /-- The cartridge answers a STATE (R82, R87). -/
  | stateCompletion (n : Idx8) (answer : StateAnswer) (e : OpEnd)
  | pollLimitExpiry (n : Idx8) (e : OpEnd)
  | holdTimeout (n : Idx8) (e : OpEnd)
  /-- The block and the result of the store's own check, `good` or not (R100). -/
  | storeBlockReadEnd (block : List Byte) (good : Bool) (w : RecordWrite)
  | storeBlockWriteEnd (written : Bool) (w : RecordWrite)
  /-- `r` is the tray record's number. -/
  | trayAgeExpiry (r : Fin 16) (w : RecordWrite)
  | noticeSend
  | benchLineRefused
  | pack (loan : BenchLoan) (container : Nat) (w : RecordWrite)
  | pick (loan : BenchLoan) (w : RecordWrite)
  | back (loan : BenchLoan) (w : RecordWrite)
  | shelve (serial shelf : Nat) (w : RecordWrite)
  | nocart (loan : BenchLoan) (w : RecordWrite)
  | noset (loan : BenchLoan) (w : RecordWrite)
  | dispatch (w : RecordWrite)
  | drop (title edition : Nat) (w : RecordWrite)
  | set (title edition volumes copies : Nat) (w : RecordWrite)
  | showSockets
  | showTrays
  | showLoan (loan : BenchLoan)
  | lineIdle
  /-- A character of 8 bits; `framing` marks a stop bit that was dominant-low (R167). -/
  | benchCharacterReceived (code : Byte) (framing : Bool) (w : RecordWrite)
  | readyLineHold (n : Idx8) (line : ReadyLine)
  deriving DecidableEq, Repr

end Sys2Proof
end

