-- ==== Sys2Proof/Config.lean ====
section
/-! DEFINITION. The configuration values a station runs under, as the blocks hold them after clamping (R176).
They are loaded once in each start and stay fixed until the next reset. -/

namespace Sys2Proof

/-- A socket's role (R85). -/
inductive Role where
  | off | copy | intake
  deriving DecidableEq, Repr

/-- The four bit timing values of R1, in quanta but for the prescaler, which is in 50 ns periods. -/
structure BitTiming where
  prescaler : Nat
  settle    : Nat
  tail      : Nat
  jump      : Nat
  deriving DecidableEq, Repr

/-- One interest filter (R18).  The format set is held as one flag for each format. -/
structure Filter where
  enabled   : Bool
  value     : Title
  mask      : Title
  cartridge : Bool
  braille   : Bool
  both      : Bool
  penalty   : Nat
  deriving DecidableEq, Repr

/-- The parameters of one tray group (R153). -/
structure GroupParams where
  capacity  : Nat
  threshold : Nat
  maxAge    : Nat
  deriving DecidableEq, Repr

/-- The configuration values in use (R186), clamped. -/
structure Cfg where
  timing       : BitTiming
  /-- The bid window in units of 10 ms (R21). -/
  bidWindow    : Nat
  roles        : Vector Role 8
  /-- `p`: program-and-verify time per block, ms (R43). -/
  program      : Nat
  /-- `e`: erase time per block, ms (R43). -/
  erase        : Nat
  /-- `r`: reissue time, s (R43). -/
  reissue      : Nat
  /-- `k`: braille pick time, s (R43). -/
  pick         : Nat
  /-- `w_b`: blank wait, s (R43). -/
  blankWait    : Nat
  loanPeriod   : Nat
  lostInterval : Nat
  /-- `K`: the keep limit (R135). -/
  keepLimit    : Nat
  filters      : Vector Filter 8
  zoneMap      : Vector Idx8 64
  groups       : Vector GroupParams 8
  benchRate    : Nat
  deriving DecidableEq, Repr

/-- The filter the Order Book holds when no image was read (R18). -/
def Filter.disabled : Filter := ⟨false, 0, 0, false, false, false, 0⟩

/-- The values in force when the configuration port returned no image at all (R1, R18, R72, R153, R176). -/
def Cfg.noImage : Cfg where
  timing       := ⟨8, 11, 4, 1⟩
  bidWindow    := 1
  roles        := Vector.replicate 8 .off
  program      := 10
  erase        := 10
  reissue      := 1
  pick         := 1
  blankWait    := 0
  loanPeriod   := 28
  lostInterval := 60
  keepLimit    := 0
  filters      := Vector.replicate 8 Filter.disabled
  zoneMap      := Vector.replicate 64 0
  groups       := Vector.replicate 8 ⟨60, 40, 24⟩
  benchRate    := 9600

end Sys2Proof
end

