-- ==== Sys2Proof/Machine/State.lean ====
section
/-! DEFINITION. The state of one LS-8: the blocks of 00_scope.md, each with the state its chapter gives it, the
contents of record memory, the presence and ready lines of the sockets, and the queue of waiting commands.
Counts that the manual defines as a number of records (users, pending copy count, N_open, free entries) are
functions of this state (Machine/Flags.lean), so that each has one home. -/

namespace Sys2Proof.Machine

/-! ### Codes -/

/-- A format code (R181). -/
inductive Format where
  | cartridge | braille | both
  deriving DecidableEq, Repr

/-- The path a BID serves (R7, R42). -/
inductive Path where
  | reissue | copy | brailleOnly
  deriving DecidableEq, Repr

/-- A release reason (R7). -/
inductive Reason where
  | copyFailed | titleVoid | stockMissing
  deriving DecidableEq, Repr

/-- The condition a RETURNED carries (R7, R146). -/
inductive Condition where
  | kept | erased | retired | quarantined | unchecked
  deriving DecidableEq, Repr

/-- The status a LOANSTATE carries (R7). -/
inductive LoanStatus where
  | overdue | lost | recovered
  deriving DecidableEq, Repr

/-! ### Frames (R3, R7, R181) -/

/-- The payload fields of a frame, one constructor for each kind, in kind order 0 to 8. -/
inductive Payload where
  | held (order : OrderNo)
  | bid (order : OrderNo) (path : Path)
  | release (order : OrderNo) (count : BitVec 2) (reason : Reason)
  | cancel (order : OrderNo)
  | order (order : OrderNo) (patron : Patron) (work : Work) (format : Format) (zone : Zone)
  | shipped (order : OrderNo) (loan : LoanNo) (serial : Serial) (dispatch due : Day)
  | returned (loan : LoanNo) (serial : Serial) (day : Day) (condition : Condition)
  | loanState (loan : LoanNo) (patron : Patron) (status : LoanStatus) (due : Day)
  | date (day : Day)
  deriving DecidableEq, Repr

/-- A frame by its named fields. -/
structure Frame where
  rank    : BitVec 14
  sender  : Station
  payload : Payload
  deriving DecidableEq, Repr

/-- A frame as the line carries it: the arbitration field's parts and the payload bytes (R3). -/
structure RawFrame where
  kind    : BitVec 4
  rank    : BitVec 14
  sender  : Station
  payload : List Byte
  deriving DecidableEq, Repr

/-! ### Line Interface (chapter 1) -/

/-- The line state (R12). -/
inductive LineState where
  | off | joining | running | muted | listen
  deriving DecidableEq, Repr

/-- The four paced owners (R15). -/
inductive PacedOwner where
  | book | returns | tray | register
  deriving DecidableEq, Repr

/-- An entry of the receive queue: the frame and its reception time (R13). -/
structure RxEntry where
  frame : Frame
  time  : Millis
  deriving DecidableEq, Repr

/-- An entry of the transmit queue (R14) with its in-transmission mark (R9) and withdrawal-pending mark (R16). -/
structure TxEntry where
  frame           : Frame
  inTransmission  : Bool
  withdrawPending : Bool
  deriving DecidableEq, Repr

/-- The Line Interface. -/
structure Line where
  state        : LineState
  /-- The bit timing in force, none after a reset until the image is delivered (R17). -/
  timing       : Option BitTiming
  /-- Whether the station follows the line; one that does not waits for 12 recessive bits (R4). -/
  following    : Bool
  /-- A reception under way at a mute expiry goes on to its end (R12). -/
  finishing    : Bool
  failCount    : Nat
  muteDeadline : Option Millis
  /-- The receive queue, head first, at most 16 (R13). -/
  rx           : List RxEntry
  overrun      : Bool
  /-- The transmit queue in the order accepted, at most 16 (R14). -/
  tx           : List TxEntry
  /-- The pacing list, first owner first (R15). -/
  pacing       : List PacedOwner
  /-- The stuffed bits of the frame being sent on LTX, empty while the output rests recessive. -/
  driving      : List Bool
  /-- The bits of the frame under way that the station sent before it lost arbitration, 0 when it sent none (R2, R9).
  While it is not 0 the winner's frame is being decoded, and the line is not idle. -/
  sentBits     : Nat
  /-- Whether LTX was driven dominant in the acknowledge slot of the last frame received (R10). -/
  ackDriven    : Bool
  deriving DecidableEq, Repr

/-! ### Order Book (chapter 2) -/

/-- The cause of a withdrawal of a queued BID (R25). -/
inductive Cause where
  | heard (s : Station) | remove | void
  deriving DecidableEq, Repr

/-- Whether a withdrawal answer is awaited, and with which cause; a RELEASE may clear the cause (R31). -/
inductive PendingWithdrawal where
  | none
  | awaited (cause : Option Cause)
  deriving DecidableEq, Repr

/-- A pledge summary (R19, R42, R50). -/
structure Pledge where
  serial   : Option Serial
  set      : Bool
  copySlot : Bool
  path     : Path
  cost     : Nat
  blockMs  : Nat
  baseTime : Nat
  deriving DecidableEq, Repr

/-- The state of an order entry with the fields present in it (R19). -/
inductive EntryState where
  | window (deadline : Millis)
  | queued (pledge : Pledge) (pending : PendingWithdrawal)
  | takenSelf (loan : LoanNo)
  | takenOther (holder : Station)
  | unbid
  deriving DecidableEq, Repr

/-- An order entry (R19).  `owed` is the owed RELEASE flag with its reason. -/
structure Entry where
  order        : OrderNo
  patron       : Patron
  work         : Work
  format       : Format
  zone         : Zone
  urgent       : Bool
  desk         : Station
  hit          : Option Idx8
  bookedDay    : Day
  state        : EntryState
  releaseCount : BitVec 2
  excluded     : Bool
  owed         : Option Reason
  heldQueued   : Bool
  deriving DecidableEq, Repr

/-- The Order Book: its entries in booking order and its owed list (R19, R34). -/
structure Book where
  entries : List Entry
  owed    : List OrderNo
  deriving DecidableEq, Repr

/-! ### Loan Register (chapter 4) -/

inductive LoanState where
  | claimed | ready | packed | shipped | overdue | lost
  deriving DecidableEq, Repr

/-- The path of a cartridge part (R52). -/
inductive CartPath where
  | copy | reissue
  deriving DecidableEq, Repr

/-- The status of a cartridge part; the serial is present exactly in READY (R52). -/
inductive CartStatus where
  | queued | copying | ready (serial : Serial) | back
  deriving DecidableEq, Repr

structure CartPart where
  path     : CartPath
  status   : CartStatus
  attempts : Nat
  deriving DecidableEq, Repr

inductive BrailleStatus where
  | pledged | picked | back
  deriving DecidableEq, Repr

structure BraillePart where
  set    : Work
  status : BrailleStatus
  deriving DecidableEq, Repr

inductive RecoveryNotice where
  | none | owed | done
  deriving DecidableEq, Repr

/-- A loan record (R52). -/
structure Loan where
  number      : LoanNo
  order       : OrderNo
  patron      : Patron
  work        : Work
  format      : Format
  zone        : Zone
  urgent      : Bool
  claimDay    : Day
  state       : LoanState
  cart        : Option CartPart
  braille     : Option BraillePart
  mailUnits   : Nat
  container   : Option Container
  tray        : Option TrayNo
  dispatchDay : Option Day
  dueDay      : Option Day
  overdueSent : Bool
  lostSent    : Bool
  recovery    : RecoveryNotice
  deriving DecidableEq, Repr

/-- The day scan's volatile state (R62); `last` is none before the first visit of a pass. -/
structure DayScan where
  running : Bool
  last    : Option LoanNo
  rescan  : Bool
  owed    : Option (LoanNo × LoanStatus)
  deriving DecidableEq, Repr

/-! ### Stock Directory (chapter 7) -/

inductive DirState where
  | loading | valid | void
  deriving DecidableEq, Repr

/-- A title directory entry (R119), less its users count, which is the number of the Copy Engine's jobs. -/
structure DirEntry where
  work  : Work
  start : Nat
  len   : Nat
  check : BitVec 32
  state : DirState
  deriving DecidableEq, Repr

inductive StockState where
  | free
  | pledged (order : OrderNo)
  | issuing (loan : LoanNo)
  deriving DecidableEq, Repr

/-- A ready-stock record (R127). -/
structure StockRec where
  serial : Serial
  work   : Work
  used   : Nat
  state  : StockState
  shelf  : Option Shelf
  deriving DecidableEq, Repr

/-- A braille set record (R130). -/
structure SetRec where
  work    : Work
  volumes : Nat
  held    : Nat
  onShelf : Nat
  pledged : Nat
  deriving DecidableEq, Repr

/-! ### Tray Unit (chapter 9) -/

/-- The state of a tray record that is not FREE (R154). -/
inductive TrayState where
  | filling | closed | dispatching
  deriving DecidableEq, Repr

/-- A tray record that is not FREE (R154). -/
structure Tray where
  number    : TrayNo
  group     : Idx8
  capacity  : Nat
  threshold : Nat
  maxAge    : Nat
  load      : Nat
  loans     : List LoanNo
  opened    : Seconds
  urgent    : Bool
  state     : TrayState
  deriving DecidableEq, Repr

/-! ### Record memory (R52, R53, R61, R72, R119, R127, R130, R154, R155, R161, R187) -/

/-- The tables that record memory holds.  A FREE tray record is none. -/
structure Records where
  /-- Ascending by loan number. -/
  loans        : List Loan
  loanSeq      : LoanSeq
  day          : Day
  directory    : List DirEntry
  stock        : List StockRec
  sets         : List SetRec
  trays        : Vector (Option Tray) 16
  nextTray     : TrayNo
  dispatchLine : List (Fin 16)
  deriving DecidableEq, Repr

/-- The contents of record memory: the seven header bytes (R187) and the tables. -/
structure RecordMemory where
  header : List Byte
  tables : Records
  deriving DecidableEq, Repr

/-! ### Socket Sequencers (chapter 5) -/

/-- The capacity classes (R74, R182). -/
inductive Capacity where
  | small | medium | large
  deriving DecidableEq, Repr

inductive CartKind where
  | stock | master
  deriving DecidableEq, Repr

/-- The cartridge view (R86): the identity fields, the 16 bytes of each tag slot and the 15 bytes of the
content record as they read; the classes of R77 and the tests of R79 are computed from these bytes. -/
structure View where
  serial   : Serial
  capacity : Capacity
  kind     : CartKind
  slots    : List (List Byte)
  content  : List Byte
  deriving DecidableEq, Repr

/-- What a PAGE WRITE into sector 0 is: a tag write, a slot close, or neither (R83). -/
inductive WriteUse where
  | tag (slot : Nat) | close (slot : Nat) | other
  deriving DecidableEq, Repr

/-- The commands made as guarded operations (R80, R82). -/
inductive Guarded where
  | page (address : Nat) (data : List Byte) (purpose : WriteUse)
  | sectorClear (sector : Nat)
  | blockClear (block : Nat)
  deriving DecidableEq, Repr

/-- What a cartridge reports to STATE (R75), as the commands that have reached it leave it. -/
structure CartLink where
  busy  : Bool
  latch : Bool
  fault : Bool
  deriving DecidableEq, Repr

/-- The step of R82 a guarded operation has reached.  `prior` is what the cartridge reported before the UNLOCK or the command
reached it, which it still reports while a hold pauses that transfer (R75, R81). -/
inductive GuardStage where
  /-- UNLOCK is sent and the STATE of step 2 is not answered; `prior` is none once a hold has shown that STATE under way. -/
  | beforeCommand (prior : Option CartLink)
  /-- A hold pauses the UNLOCK. -/
  | unlocking
  /-- The command is sent and the STATE of step 4 not yet known to be under way; `limit` is the poll limit. -/
  | command (limit : Millis) (prior : CartLink)
  /-- A hold pauses the command; the poll limit starts at the end of its transfer. -/
  | commanding
  /-- The polls of step 4. -/
  | polling (limit : Millis)
  deriving DecidableEq, Repr

/-- The operation in progress at a socket (R86).  `refused` is a request that failed the tests of R78, R80 or
R83: nothing was sent, and its owner takes the failure in the same event.  `locking` is a LOCK in whose transfer a hold
falls: the one after a guarded operation that has `failed`, whose failure is reported once the LOCK has ended or is abandoned
(R82), or the second step of an identification (R87). -/
inductive Op where
  | awaitReady (limit : Millis)
  | read (address count : Nat)
  | guarded (g : Guarded) (stage : GuardStage)
  | locking (failed : Bool)
  | refused
  deriving DecidableEq, Repr

/-- A copy job (R95). -/
structure Job where
  loan        : LoanNo
  work        : Work
  start       : Nat
  len         : Nat
  blockMs     : Nat
  estimate    : Nat
  cleanNeeded : Bool
  deriving DecidableEq, Repr

/-- The step of R104 in progress on the current block. -/
inductive WorkStep where
  | clearing
  | page (k : Nat)
  | reading
  deriving DecidableEq, Repr

/-- A gang member's progress (R98); `again` marks the repeat of R104, `tag` the second write of R108. -/
inductive Progress where
  | preparing
  | waiting
  | working (step : WorkStep) (again : Bool)
  | finished
  | finishing (tag : Bool)
  deriving DecidableEq, Repr

/-- A gang member (R98): its gang, its job and its progress, held by its socket. -/
structure Member where
  gang     : Nat
  job      : Job
  progress : Progress
  deriving DecidableEq, Repr

/-- The mode of a check record (R135): a return, with its own or another station's loan, or no-loan mode. -/
inductive CheckMode where
  | ownReturn | foreignReturn | noLoan
  deriving DecidableEq, Repr

/-- How far a check has come (R135 to R141): waiting for outbox room, closing the slot, or reading back. -/
inductive CheckPhase where
  | waitRoom
  | closing
  | verify (index : Nat) (acc : BitVec 32)
  deriving DecidableEq, Repr

/-- A check record (R135); `loan` is the loan the slot names, none when no slot is closed. -/
structure Check where
  mode  : CheckMode
  slot  : Option Nat
  loan  : Option LoanNo
  phase : CheckPhase
  deriving DecidableEq, Repr

/-- The step of an erase (R111, R144): the block named is the one being cleared. -/
inductive EraseStep where
  | sector
  | block (b : Nat)
  | marker
  deriving DecidableEq, Repr

/-- A socket's ingest record (R121). -/
structure Ingest where
  work   : Work
  buffer : Option (Fin 4)
  index  : Nat
  acc    : BitVec 32
  deriving DecidableEq, Repr

/-- The reasons of REJECTED (R90, R120). -/
inductive RejectReason where
  | foreign | quarantined | worn | badMaster | masterNotNeeded | titleInUse | directoryFull | storeFull
  deriving DecidableEq, Repr

/-- The state of a socket (R86), with the owner's reference for the work in hand. -/
inductive SockState where
  | empty
  /-- The bytes of sector 0 once they are read. -/
  | identifying (sector0 : Option (List Byte))
  | rejected (why : RejectReason)
  | fault
  | blank (clean : Bool)
  | cleaning (step : EraseStep)
  | copying (m : Member)
  | finishing (m : Member)
  | aborting
  /-- The loan the cartridge was finished for.  No rule of the spec says when a DONE socket loses its loan reference, for
  which R170 shows 0; the model keeps it until the socket leaves DONE, even where the loan has shipped or closed, so that 0 is
  never shown (DESIGN CHOICE, log entry 31). -/
  | done (loan : LoanNo)
  /-- `withdrawn`: a withdrawal of the loan has reached the socket (R115). -/
  | tagging (loan : LoanNo) (withdrawn : Bool)
  | ingesting (i : Ingest)
  | checking (c : Check)
  /-- `last` is the last block of the erase range (R144). -/
  | erasing (c : Check) (last : Nat) (step : EraseStep)
  | kept (c : Check)
  deriving DecidableEq, Repr

/-- A socket record (R86) with the socket's presence line, the hold timer of R81 and the cartridge's latch. -/
structure Socket where
  present : Bool
  state   : SockState
  view    : Option View
  op      : Option Op
  hold    : Option Millis
  link    : CartLink
  deriving DecidableEq, Repr

/-! ### Copy Engine (chapter 6) -/

/-- A gang (R98); its members are held by their sockets.  `id` is the model's own name for it. -/
structure Gang where
  id     : Nat
  work   : Work
  start  : Nat
  len    : Nat
  buffer : Option (Fin 4)
  index  : Nat
  /-- The buffer holds block `index` (R102, step 2). -/
  loaded : Bool
  done   : Nat
  deriving DecidableEq, Repr

/-- The owner of a gang buffer (R99); `draining` is a buffer whose owner has gone while its store operation
is still in progress (R101). -/
inductive BufOwner where
  | free
  | gang (id : Nat)
  | ingest (n : Idx8)
  | draining
  deriving DecidableEq, Repr

/-- A block request (R100): a gang's read, with the image it belongs to (R125), or an ingest's write. -/
inductive StoreReq where
  | read (work : Work) (start block : Nat)
  | write (block : Nat)
  deriving DecidableEq, Repr

structure Buffer where
  owner   : BufOwner
  data    : List Byte
  request : Option StoreReq
  deriving DecidableEq, Repr

/-- The Copy Engine with the Store Arbiter (R95 to R101). -/
structure CopyEngine where
  queue      : List Job
  gangs      : List Gang
  nextGang   : Nat
  buffers    : Vector Buffer 4
  ingestWait : List Idx8
  current    : Option (Fin 4 × StoreReq)
  pointer    : Fin 4
  deriving DecidableEq, Repr

/-! ### Returns Unit (chapter 8) -/

/-- A returns outbox entry (R135); `condition` is none while pending, `socket` present while it is pending or held. -/
structure OutEntry where
  loan      : LoanNo
  serial    : Serial
  day       : Day
  condition : Option Condition
  held      : Bool
  socket    : Option Idx8
  deriving DecidableEq, Repr

structure Returns where
  outbox : List OutEntry
  wait   : List Idx8
  deriving DecidableEq, Repr

/-! ### Bench Port, Start Unit and timebase (chapter 10) -/

/-- The cause of an invalid configuration (R175, R178). -/
inductive ConfigCause where
  | noImage | signature | check | station | stationMismatch | records
  deriving DecidableEq, Repr

/-- The reasons of REFUSED (R173). -/
inductive RefuseReason where
  | long | form | unknown | listen | starting
  | noLoan | state | range | traysFull | notOwn | inUse | noTitle | noStock | mismatch | tableFull
  deriving DecidableEq, Repr

/-- A field of a SHOW line: a number, a loan number, a word, or the hyphen of a field that is lacking (R172). -/
inductive Field where
  | num (n : Nat)
  | loan (l : LoanNo)
  | word (t : String)
  | hyphen
  deriving DecidableEq, Repr

/-- A notice line (R173).  `line` is a SHOW line: its first word and its fields. -/
inductive Notice where
  | copyReady (n : Idx8) (loan : LoanNo) (serial : Serial)
  | fetch (loan : LoanNo) (serial : Serial) (shelf : Option Shelf)
  | pickSet (loan : LoanNo) (work : Work) (volumes : Nat)
  | reshelve (work : Work)
  | reinsert (serial : Serial) (loan : LoanNo)
  | pull (container : Container) (tray : TrayNo)
  | trayClosed (tray : TrayNo) (group : Idx8) (load loans : Nat)
  | dispatched (tray : Option TrayNo) (group loans : Nat)
  | socketFault (n : Idx8) (serial : Serial)
  | rejected (n : Idx8) (serial : Serial) (why : RejectReason)
  | kept (n : Idx8) (serial : Serial) (work : Work) (used : Nat)
  | erased (n : Idx8) (serial : Serial)
  | ingested (work : Work) (len : Nat)
  | titleVoid (work : Work)
  | lineMuted
  | rxOverrun
  | configInvalid (cause : ConfigCause)
  | noDate
  | refused (why : RefuseReason) (command : String)
  | line (kind : String) (fields : List Field)
  deriving DecidableEq, Repr

/-- The Bench Port (R167, R168, R173). -/
structure Bench where
  /-- The input line buffer, at most 40 characters. -/
  buffer  : List Byte
  /-- The printable characters of the line beyond the 40th, counted and not kept. -/
  extra   : Nat
  bad     : Bool
  notices : List Notice
  lost    : Bool
  /-- The characters of the notice line last started on BTX, with its carriage return. -/
  sent    : List Byte
  rate    : Nat
  deriving DecidableEq, Repr

/-- The start phase (R177). -/
inductive Phase where
  | config | records | recovery | running
  deriving DecidableEq, Repr

/-- The Start Unit. -/
structure StartUnit where
  phase      : Phase
  /-- The cause of an invalid configuration, none while it is valid (R175). -/
  invalid    : Option ConfigCause
  /-- The station number in the image, when the image is valid (R175). -/
  configured : Option Station
  /-- "This station's number" for every test of ownership (R178). -/
  own        : Option Station
  /-- Whether record memory may be written (R178). -/
  writable   : Bool
  /-- The master store's size in blocks, at most 65,536 (R118). -/
  storeSize  : Nat
  deriving DecidableEq, Repr

/-- The timebase (R174); `sub` counts the millisecond events of the current second, 0 to 999. -/
structure Timebase where
  ms  : Millis
  sec : Seconds
  sub : Nat
  deriving DecidableEq, Repr

/-! ### The machine -/

/-- The state of the part. -/
structure State where
  pending    : List Instr
  time       : Timebase
  start      : StartUnit
  cfg        : Cfg
  line       : Line
  book       : Book
  tables     : Records
  scan       : DayScan
  sockets    : Vector Socket 8
  quarantine : List Serial
  copy       : CopyEngine
  returns    : Returns
  bench      : Bench
  nv         : RecordMemory
  deriving DecidableEq, Repr

/-- The faults that stop the part: none.  Every command of the table has an effect by the manual's rules, and a
failed operation of a socket, the line or a port is an effect on State, so no meaning raises a fault (safe). -/
inductive Fault where
  deriving DecidableEq, Repr

/-- The refusals. -/
inductive Refusal where
  /-- Raised by an arm of `exec` whose command has no meaning yet; no arm raises it now (safe). -/
  | notModelled (mnemonic : String)
  deriving DecidableEq, Repr

/-! ### After reset -/

/-- The tables of a first start (R73, R134, R165). -/
def Records.firstStart : Records where
  loans        := []
  loanSeq      := 1
  day          := 0
  directory    := []
  stock        := []
  sets         := []
  trays        := Vector.replicate 16 none
  nextTray     := 1
  dispatchLine := []

/-- Record memory on which no header was ever written: seven unprogrammed bytes (DESIGN CHOICE, log entry 3). -/
def RecordMemory.virgin : RecordMemory := ⟨List.replicate 7 255, Records.firstStart⟩

/-- The Line Interface after either reset (R17). -/
def Line.reset : Line := ⟨.off, none, false, false, 0, none, [], false, [], [], [], 0, false⟩

/-- A socket record after either reset (R86); its presence line reads no cartridge (DESIGN CHOICE, log entry 3). -/
def Socket.reset : Socket := ⟨false, .empty, none, none, none, ⟨false, false, false⟩⟩

/-- The Copy Engine after either reset (R116). -/
def CopyEngine.reset : CopyEngine := ⟨[], [], 0, Vector.replicate 4 ⟨.free, [], none⟩, [], none, 3⟩

/-- The Bench Port after either reset (R167, R168, R173). -/
def Bench.reset : Bench := ⟨[], 0, false, [], false, [], 9600⟩

/-- The day scan after either reset (R73). -/
def DayScan.reset : DayScan := ⟨false, none, false, none⟩

/-- The Start Unit after either reset (R177). -/
def StartUnit.reset : StartUnit := ⟨.config, none, none, none, false, 0⟩

/-- The machine right after power-on reset, with no cartridge seated and record memory never written. -/
def State.reset : State where
  pending    := []
  time       := ⟨0, 0, 0⟩
  start      := StartUnit.reset
  cfg        := Cfg.noImage
  line       := Line.reset
  book       := ⟨[], []⟩
  tables     := Records.firstStart
  scan       := DayScan.reset
  sockets    := Vector.replicate 8 Socket.reset
  quarantine := []
  copy       := CopyEngine.reset
  returns    := ⟨[], []⟩
  bench      := Bench.reset
  nv         := RecordMemory.virgin

end Sys2Proof.Machine
end

