-- ==== Sys2Proof/Machine/Operands.lean ====
section
/-! DEFINITION. The formats of chapter 11 and the bits of the floor line: numbers as bits and bytes, the checks of
R6, R184 and R185, frames and their payloads (R3, R181), stuffing (R5), the sender's comparison
(R9), bit timing and sampling (R1, R2), the cartridge's identity record, tag slots and content record (R182, R183), the
configuration image (R186), the record memory header (R187) and loan numbers. -/

namespace Sys2Proof.Machine

/-! ### Numbers as bits and bytes -/

/-- The bits of a field, most significant first (R3). -/
def bitsOf {w : Nat} (x : BitVec w) : List Bool := (List.range w).map x.getMsbD

/-- The number whose bits, most significant first, are given. -/
def numOfBits (bs : List Bool) : Nat := bs.foldl (fun a b => 2 * a + b.toNat) 0

/-- The number whose bytes, most significant first, are given (11, opening). -/
def numOfBytes (bs : List Byte) : Nat := bs.foldl (fun a b => 256 * a + b.toNat) 0

/-- The `n` low bytes of a number, most significant first. -/
def bytesOf (n x : Nat) : List Byte :=
  (List.range n).map fun i => BitVec.ofNat 8 (x / 256 ^ (n - 1 - i))

/-- The bytes of a record from byte `a`, `n` of them. -/
def slice (bs : List Byte) (a n : Nat) : List Byte := (bs.drop a).take n

/-- The number in `n` bytes of a record from byte `a`. -/
def numAt (bs : List Byte) (a n : Nat) : Nat := numOfBytes (slice bs a n)

/-- The codes of a text. -/
def ascii (t : String) : List Byte := t.toList.map fun c => BitVec.ofNat 8 c.toNat

/-! ### Checks (R6, R184, R185) -/

/-- One bit of the 16-bit cyclic check: shift toward the most significant end; if the bit shifted out differs from
the data bit, combine with ones at positions 12, 5 and 0 (R6). -/
def crc16Bit (r : BitVec 16) (b : Bool) : BitVec 16 :=
  if r.msb = b then r <<< 1 else (r <<< 1) ^^^ 4129

/-- The 16-bit cyclic check of a run of bits, preset to all ones (R6). -/
def crc16 (bs : List Bool) : BitVec 16 := bs.foldl crc16Bit (BitVec.allOnes 16)

/-- The 16-bit cyclic check of bytes in address order, each most significant bit first (R184). -/
def crc16Bytes (bs : List Byte) : BitVec 16 := crc16 (bs.flatMap bitsOf)

/-- One bit of the image check (R184). -/
def crc32Bit (r : BitVec 32) (b : Bool) : BitVec 32 :=
  if r.getLsbD 0 = b then r >>> 1 else (r >>> 1) ^^^ 3988292384

/-- The preset accumulator of the image check. -/
def imagePreset : BitVec 32 := BitVec.allOnes 32

/-- The accumulator after bytes are added in address order, their bits least significant first (R184). -/
def imageAdd (acc : BitVec 32) (bs : List Byte) : BitVec 32 :=
  bs.foldl (fun a b => (bitsOf b).reverse.foldl crc32Bit a) acc

/-- The finished image check (R184). -/
def imageFinish (acc : BitVec 32) : BitVec 32 := ~~~acc

/-- The number of zero bits in the bytes. -/
def zeroBits (bs : List Byte) : Nat := (bs.flatMap bitsOf).count false

/-- The two bytes of a marked check over the bytes: the zero bits, and the low byte of the cyclic check (R185). -/
def markedCheck (bs : List Byte) : List Byte :=
  [BitVec.ofNat 8 (zeroBits bs), (crc16Bytes bs).setWidth 8]

/-! ### Loan numbers (00_scope.md, R52, R169) -/

/-- The station field of an order or loan number: its 6 high bits. -/
def stationField (n : BitVec 24) : Station := n.extractLsb' 18 6

/-- The sequence of an order or loan number: its 18 low bits. -/
def sequenceField (n : BitVec 24) : LoanSeq := n.extractLsb' 0 18

/-- The number with the station field and sequence given. -/
def makeNumber (s : Station) (q : LoanSeq) : BitVec 24 := s.setWidth 24 <<< 18 ||| q.setWidth 24

/-- The loan number a bench line names, none where it names no loan the register can hold (R169). -/
def benchLoanNumber (l : BenchLoan) : Option LoanNo :=
  if 1 ≤ l.station ∧ l.station ≤ 63 ∧ 1 ≤ l.sequence ∧ l.sequence ≤ 262143 then
    some (makeNumber (BitVec.ofNat 6 l.station) (BitVec.ofNat 18 l.sequence))
  else none

/-! ### Codes (R181) -/

def Format.code : Format → Nat
  | .cartridge => 1
  | .braille => 2
  | .both => 3

def Path.code : Path → Nat
  | .reissue => 1
  | .copy => 2
  | .brailleOnly => 3

def Reason.code : Reason → Nat
  | .copyFailed => 1
  | .titleVoid => 2
  | .stockMissing => 3

def Condition.code : Condition → Nat
  | .kept => 1
  | .erased => 2
  | .retired => 3
  | .quarantined => 4
  | .unchecked => 5

def LoanStatus.code : LoanStatus → Nat
  | .overdue => 1
  | .lost => 2
  | .recovered => 3

def formatOf (c : Nat) : Option Format :=
  if c = 1 then some .cartridge else if c = 2 then some .braille else if c = 3 then some .both else none

def pathOf (c : Nat) : Option Path :=
  if c = 1 then some .reissue else if c = 2 then some .copy else if c = 3 then some .brailleOnly else none

def reasonOf (c : Nat) : Option Reason :=
  if c = 1 then some .copyFailed else if c = 2 then some .titleVoid else if c = 3 then some .stockMissing else none

def conditionOf (c : Nat) : Option Condition :=
  if c = 1 then some .kept else if c = 2 then some .erased else if c = 3 then some .retired
  else if c = 4 then some .quarantined else if c = 5 then some .unchecked else none

def statusOf (c : Nat) : Option LoanStatus :=
  if c = 1 then some .overdue else if c = 2 then some .lost else if c = 3 then some .recovered else none

/-! ### Frames (R3, R7, R8, R181) -/

/-- The kind number (R7). -/
def Payload.kind : Payload → Nat
  | .held _ => 0
  | .bid _ _ => 1
  | .release _ _ _ => 2
  | .cancel _ => 3
  | .order _ _ _ _ _ => 4
  | .shipped _ _ _ _ _ => 5
  | .returned _ _ _ _ => 6
  | .loanState _ _ _ _ => 7
  | .date _ => 8

/-- The arbitration field read as a number: kind × 1,048,576 + rank × 64 + sender (R3). -/
def Frame.field (f : Frame) : Nat := f.payload.kind * 1048576 + f.rank.toNat * 64 + f.sender.toNat

/-- A title and edition in three bytes, the title in the top 20 bits (R181). -/
def workBytes (w : Work) : List Byte := bytesOf 3 (w.title.toNat * 16 + w.edition.toNat)

/-- The title and edition in a 24-bit number. -/
def workOf (n : Nat) : Work := ⟨BitVec.ofNat 20 (n / 16), BitVec.ofNat 4 n⟩

/-- The payload bytes of each kind (R181). -/
def Payload.bytes : Payload → List Byte
  | .held o => bytesOf 3 o.toNat
  | .bid o p => bytesOf 3 o.toNat ++ bytesOf 1 p.code
  | .release o c r => bytesOf 3 o.toNat ++ bytesOf 1 c.toNat ++ bytesOf 1 r.code
  | .cancel o => bytesOf 3 o.toNat
  | .order o p w f z =>
    bytesOf 3 o.toNat ++ bytesOf 3 p.toNat ++ workBytes w ++ bytesOf 1 f.code ++ bytesOf 1 z.toNat
  | .shipped o l s d u =>
    bytesOf 3 o.toNat ++ bytesOf 3 l.toNat ++ bytesOf 4 s.toNat ++ bytesOf 2 d.toNat ++ bytesOf 2 u.toNat
  | .returned l s d c => bytesOf 3 l.toNat ++ bytesOf 4 s.toNat ++ bytesOf 2 d.toNat ++ bytesOf 1 c.code
  | .loanState l p t u => bytesOf 3 l.toNat ++ bytesOf 3 p.toNat ++ bytesOf 1 t.code ++ bytesOf 2 u.toNat
  | .date d => bytesOf 2 d.toNat

/-- The payload length each kind has in the table of R7. -/
def kindLength (kind : Nat) : Option Nat := [3, 4, 5, 3, 11, 14, 10, 9, 2][kind]?

/-- The frame as the line carries it. -/
def Frame.raw (f : Frame) : RawFrame := ⟨BitVec.ofNat 4 f.payload.kind, f.rank, f.sender, f.payload.bytes⟩

/-- A loan number a frame may carry: neither its station field nor its sequence is 0 (R181). -/
def loanNumberOk (l : LoanNo) : Bool := stationField l != 0 && sequenceField l != 0

/-- The rank a kind allows (R7). -/
def rankOk (kind rank : Nat) : Bool :=
  if kind = 1 then 1 ≤ rank && rank ≤ 16382 else if kind = 4 then rank ≤ 1 else rank == 0

/-- The payload fields of a kind's bytes, none where one holds a value outside its range or code set (R8, R181). -/
def parsePayload (kind : Nat) (b : List Byte) : Option Payload :=
  let order : OrderNo := BitVec.ofNat 24 (numAt b 0 3)
  match kind with
  | 0 => some (.held order)
  | 1 => (pathOf (numAt b 3 1)).map (.bid order ·)
  | 2 =>
    if 1 ≤ numAt b 3 1 ∧ numAt b 3 1 ≤ 3 then
      (reasonOf (numAt b 4 1)).map (.release order (BitVec.ofNat 2 (numAt b 3 1)) ·)
    else none
  | 3 => some (.cancel order)
  | 4 =>
    if (workOf (numAt b 6 3)).title ≠ 0 ∧ numAt b 10 1 ≤ 63 then
      (formatOf (numAt b 9 1)).map
        (.order order (BitVec.ofNat 24 (numAt b 3 3)) (workOf (numAt b 6 3)) · (BitVec.ofNat 6 (numAt b 10 1)))
    else none
  | 5 =>
    let loan : LoanNo := BitVec.ofNat 24 (numAt b 3 3)
    if loanNumberOk loan ∧ numAt b 10 2 ≠ 0 ∧ numAt b 12 2 ≠ 0 then
      some (.shipped order loan (BitVec.ofNat 32 (numAt b 6 4)) (BitVec.ofNat 16 (numAt b 10 2))
        (BitVec.ofNat 16 (numAt b 12 2)))
    else none
  | 6 =>
    let loan : LoanNo := BitVec.ofNat 24 (numAt b 0 3)
    if loanNumberOk loan then
      (conditionOf (numAt b 9 1)).map
        (.returned loan (BitVec.ofNat 32 (numAt b 3 4)) (BitVec.ofNat 16 (numAt b 7 2)) ·)
    else none
  | 7 =>
    let loan : LoanNo := BitVec.ofNat 24 (numAt b 0 3)
    if loanNumberOk loan then
      (statusOf (numAt b 6 1)).map
        (.loanState loan (BitVec.ofNat 24 (numAt b 3 3)) · (BitVec.ofNat 16 (numAt b 7 2)))
    else none
  | 8 => if numAt b 0 2 ≠ 0 then some (.date (BitVec.ofNat 16 (numAt b 0 2))) else none
  | _ => none

/-- The frame a raw frame holds, none where its kind, length, rank, sender 0 or a payload field breaks R8. -/
def RawFrame.parse (r : RawFrame) : Option Frame :=
  if kindLength r.kind.toNat = some r.payload.length ∧ rankOk r.kind.toNat r.rank.toNat = true ∧ r.sender ≠ 0 then
    (parsePayload r.kind.toNat r.payload).map (Frame.mk r.rank r.sender ·)
  else none

/-! ### The frame on the line (R3, R5, R6, R9) -/

/-- The bits from the start bit through the length (R3). -/
def RawFrame.headBits (r : RawFrame) : List Bool :=
  false :: (bitsOf r.kind ++ bitsOf r.rank ++ bitsOf r.sender ++ bitsOf (BitVec.ofNat 5 r.payload.length))

/-- The bits the check covers: the start bit through the last payload bit (R6). -/
def RawFrame.coveredBits (r : RawFrame) : List Bool := r.headBits ++ r.payload.flatMap bitsOf

/-- The start bit through the last check bit, without stuffing (R6). -/
def RawFrame.span (r : RawFrame) : List Bool := r.coveredBits ++ bitsOf (crc16 r.coveredBits)

/-- Stuffing (R5): after six equal bits sent, a bit of the opposite level, the first of a new run.  `run` bits equal
to `last` have just been sent. -/
def stuff (run : Nat) (last : Bool) : List Bool → List Bool
  | [] => if run = 6 then [!last] else []
  | b :: bs =>
    if run = 6 then (!last) :: b :: stuff (if b = !last then 2 else 1) b bs
    else b :: stuff (if b = last then run + 1 else 1) b bs

/-- The bits a sender puts on the line: the stuffed span, the acknowledge slot, the acknowledge delimiter and the end
field, which it sends recessive (R3). -/
def RawFrame.lineBits (r : RawFrame) : List Bool := stuff 0 true r.span ++ List.replicate 10 true

/-- The receiver's count of R5 after some bits: the length and level of the run just sampled. -/
structure Run where
  count : Nat
  level : Bool
  deriving DecidableEq, Repr

/-- `want` unstuffed bits from the sampled bits, with the run and the bits that are left; a stuff error is a seventh
equal bit, and bits that end too soon are a form error. -/
def unstuff (r : Run) (want : Nat) : List Bool → Except RxError (List Bool × Run × List Bool)
  | [] => if want = 0 then .ok ([], r, []) else .error .form
  | b :: bs =>
    if want = 0 then .ok ([], r, b :: bs)
    else if r.count = 6 then
      if b = r.level then .error .stuff else unstuff ⟨1, b⟩ want bs
    else
      match unstuff ⟨if b = r.level then r.count + 1 else 1, b⟩ (want - 1) bs with
      | .ok (out, rest) => .ok (b :: out, rest)
      | .error e => .error e

/-- The stuff bit that follows the last check bit when that bit completes a run of six (R5). -/
def lastStuffBit (r : Run) (bs : List Bool) : Except RxError (List Bool) :=
  if r.count = 6 then
    match bs with
    | [] => .error .form
    | b :: rest => if b = r.level then .error .stuff else .ok rest
  else .ok bs

/-- The acknowledge delimiter and the end field must be recessive; an error there falls after the slot (R9, R10). -/
def tailOk (bs : List Bool) : Bool := (bs.drop 1).take 9 == List.replicate 9 true

/-- `n` bits from bit `a`. -/
def sliceBits (bs : List Bool) (a n : Nat) : List Bool := (bs.drop a).take n

/-- The tests that fall before the acknowledge slot, over the bits sampled from a start bit on: stuffing, the length and
the check (R5, R6, R9, R10).  The frame, and the bits from the acknowledge slot on. -/
def receiveSpan (bs : List Bool) : Except RxError (RawFrame × List Bool) :=
  match unstuff ⟨0, true⟩ 30 bs with
  | .error e => .error e
  | .ok (head, run, rest) =>
    let len := numOfBits (head.drop 25)
    if 16 < len then .error .form
    else
      match unstuff run (8 * len + 16) rest with
      | .error e => .error e
      | .ok (body, run', rest') =>
        match lastStuffBit run' rest' with
        | .error e => .error e
        | .ok tail =>
          let payloadBits := body.take (8 * len)
          if body.drop (8 * len) ≠ bitsOf (crc16 (head ++ payloadBits)) then .error .check
          else
            .ok (⟨BitVec.ofNat 4 (numOfBits (sliceBits head 1 4)), BitVec.ofNat 14 (numOfBits (sliceBits head 5 14)),
              BitVec.ofNat 6 (numOfBits (sliceBits head 19 6)),
              (List.range len).map fun i => BitVec.ofNat 8 (numOfBits (sliceBits payloadBits (8 * i) 8))⟩, tail)

/-- What a receiver makes of the sampled bits from a start bit on (R3, R5, R6, R9). -/
def receiveBits (bs : List Bool) : Except RxError RawFrame :=
  match receiveSpan bs with
  | .error e => .error e
  | .ok (r, tail) => if tailOk tail then .ok r else .error .lateForm

/-- The number of the acknowledge slot among the sampled bits, the start bit being 0, where the frame has passed every
test before it (R10). -/
def ackSlot (bs : List Bool) : Option Nat :=
  match receiveSpan bs with
  | .ok (_, tail) => some (bs.length - tail.length)
  | .error _ => none

/-! ### The sender's comparison (R9, R10, R11) -/

/-- How a transmission ends (R11); `sent` counts the bits sent, the one that lost arbitration among them. -/
inductive TxOutcome where
  | lostArbitration (sent : Nat) | bitError | noAck | success
  deriving DecidableEq, Repr

/-- The number of bits sent from the start bit through the last bit of the arbitration field, a stuff bit after it left
out (R3, R5). -/
def arbitrationEnd (sent : List Bool) : Nat :=
  match unstuff ⟨0, true⟩ 25 sent with
  | .ok (_, _, rest) => sent.length - rest.length
  | .error _ => 0

/-- The number of the acknowledge slot among the bits sent: delimiter and end field follow it (R3). -/
def sentSlot (sent : List Bool) : Nat := sent.length - 10

/-- The comparison of each bit sent with the level sampled, from bit `i` on (R9): recessive sent and dominant sampled
before bit `arb` loses arbitration, any other difference but in the acknowledge slot is a bit error, and the slot sampled
dominant is the acknowledgement (R10); none while the levels sampled end before the frame. -/
def compareSent (arb slot : Nat) (acked : Bool) (i : Nat) : List Bool → List Bool → Option TxOutcome
  | [], _ => some (if acked then .success else .noAck)
  | _ :: _, [] => none
  | b :: sent, c :: heard =>
    if i = slot then compareSent arb slot (!c) (i + 1) sent heard
    else if b = c then compareSent arb slot acked (i + 1) sent heard
    else if b && decide (i < arb) then some (.lostArbitration (i + 1))
    else some .bitError

/-- The outcome of a transmission from the bits sent and the levels sampled, the start bit first (R9 to R11). -/
def txOutcome (sent heard : List Bool) : Option TxOutcome :=
  compareSent (arbitrationEnd sent) (sentSlot sent) false 0 sent heard

/-! ### Bit timing and sampling (R1, R2) -/

/-- Where a station stands: the number of the current bit, the start bit being 0, the quantum within it, the lengths of
settle and tail in this bit, whether it has been adjusted, and the level of the quantum before. -/
structure Sampler where
  bit      : Nat
  pos      : Nat
  settle   : Nat
  tail     : Nat
  adjusted : Bool
  level    : Bool
  deriving DecidableEq, Repr

/-- The start of a bit of nominal length. -/
def Sampler.fresh (t : BitTiming) (bit : Nat) (level : Bool) : Sampler := ⟨bit, 0, t.settle, t.tail, false, level⟩

/-- The adjustment of R2 for a recessive-to-dominant edge at the start of the current quantum; a station that sends the
current bit disregards an edge in settle. -/
def Sampler.adjust (t : BitTiming) (sending : Bool) (c : Sampler) : Sampler :=
  if c.adjusted || c.pos == 0 then c
  else if c.pos ≤ c.settle then
    if sending then c
    else { c with settle := c.settle + min (c.pos - 1) t.jump, adjusted := true }
  else { c with tail := c.tail - min (1 + c.settle + c.tail - c.pos) t.jump, adjusted := true }

/-- The levels sampled, one a bit, from the level of the line in each quantum; the sample is taken at the end of
settle (R1).  `sends` says of each bit, by its number, whether the station itself sends it (R2). -/
def sampleWave (t : BitTiming) (sends : Nat → Bool) (c : Sampler) : List Bool → List Bool
  | [] => []
  | lv :: rest =>
    let c1 := if c.level && !lv then c.adjust t (sends c.bit) else c
    let c2 := if 1 + c1.settle + c1.tail ≤ c1.pos then Sampler.fresh t (c1.bit + 1) lv else c1
    let next : Sampler :=
      if 1 + c2.settle + c2.tail ≤ c2.pos + 1 then Sampler.fresh t (c2.bit + 1) lv
      else { c2 with pos := c2.pos + 1, level := lv }
    if c2.pos = c2.settle then lv :: sampleWave t sends next rest else sampleWave t sends next rest

/-- The levels sampled from the start bit on, of a wave that begins at its hard-aligning edge (R2). -/
def sampledBits (t : BitTiming) (sends : Nat → Bool) (wave : List Bool) : List Bool :=
  sampleWave t sends (Sampler.fresh t 0 false) wave

/-- The levels of a run of bits, each held for a nominal bit (R1). -/
def waveOf (t : BitTiming) (bs : List Bool) : List Bool :=
  bs.flatMap fun b => List.replicate (1 + t.settle + t.tail) b

/-- The bits a receiver sends itself: the first `sent`, before it lost arbitration, and the acknowledge slot where it
acknowledges (R2, R9, R10).  The slot's number depends only on the bits before it. -/
def receiverSends (t : BitTiming) (sent : Nat) (acks : Bool) (wave : List Bool) (i : Nat) : Bool :=
  decide (i < sent) || (acks && ackSlot (sampledBits t (fun j => decide (j < sent)) wave) == some i)

/-- What a receiver makes of a wave that begins at its hard-aligning edge: none where the first bit sampled is
recessive and so is no start bit (R4). -/
def receiveWave (t : BitTiming) (sent : Nat) (acks : Bool) (wave : List Bool) : Option (Except RxError RawFrame) :=
  match sampledBits t (receiverSends t sent acks wave) wave with
  | [] => none
  | true :: _ => none
  | false :: bs => some (receiveBits (false :: bs))

/-- The outcome of a transmission from the bits sent and the wave of the line from its start bit on (R2, R9 to R11). -/
def waveOutcome (t : BitTiming) (sent wave : List Bool) : Option TxOutcome :=
  txOutcome sent (sampledBits t (fun _ => true) wave)

/-! ### Cartridge records (R74, R76, R77, R79, R182, R183) -/

def Capacity.blocks : Capacity → Nat
  | .small => 8192
  | .medium => 16384
  | .large => 32768

def capacityOf (c : Nat) : Option Capacity :=
  if c = 1 then some .small else if c = 2 then some .medium else if c = 3 then some .large else none

def cartKindOf (c : Nat) : Option CartKind := if c = 1 then some .stock else if c = 2 then some .master else none

/-- The valid identity record in sector 0: its serial, capacity class and kind (R76, R182). -/
def parseIdentity (sector0 : List Byte) : Option (Serial × Capacity × CartKind) :=
  if slice sector0 0 4 = ascii "TBKC" ∧ numAt sector0 4 4 ≠ 0 ∧
      slice sector0 12 2 = bytesOf 2 (crc16Bytes (slice sector0 0 12)).toNat then
    match capacityOf (numAt sector0 8 1), cartKindOf (numAt sector0 9 1) with
    | some c, some k => some (BitVec.ofNat 32 (numAt sector0 4 4), c, k)
    | _, _ => none
  else none

/-- The cartridge view built from the two sectors read (R86, R182, R183). -/
def View.build (id : Serial × Capacity × CartKind) (sector0 sector1 : List Byte) : View where
  serial   := id.1
  capacity := id.2.1
  kind     := id.2.2
  slots    := (List.range 64).map fun i => slice sector0 (256 + 16 * i) 16
  content  := slice sector1 0 15

/-- The class of a tag slot (R77). -/
inductive SlotClass where
  | free | spoiled | open | closed
  deriving DecidableEq, Repr

/-- Every byte reads as all ones. -/
def unprogrammed (bs : List Byte) : Bool := bs.all (· == 255)

/-- The class of a slot's 16 bytes (R77, R182). -/
def slotClass (b : List Byte) : SlotClass :=
  if unprogrammed (slice b 0 9) then .free
  else if slice b 7 2 ≠ markedCheck (slice b 0 7) then .spoiled
  else if unprogrammed (slice b 9 4) then .open
  else .closed

/-- The loan number a slot names. -/
def slotLoan (b : List Byte) : LoanNo := BitVec.ofNat 24 (numAt b 1 3)

/-- The issuing station a slot names, a whole byte. -/
def slotIssuer (b : List Byte) : Nat := numAt b 4 1

/-- Slot `k`, 1 to 64. -/
def View.slot (v : View) (k : Nat) : List Byte := v.slots.getD (k - 1) []

/-- The slot numbers that satisfy a test, lowest first. -/
def View.slotsWhere (v : View) (p : List Byte → Bool) : List Nat :=
  ((List.range v.slots.length).map (· + 1)).filter fun k => p (v.slot k)

/-- The used count of a cartridge (R77). -/
def View.used (v : View) : Nat := (v.slotsWhere fun b => slotClass b != .free).length

/-- A cartridge is worn when all 64 slots are used (R77). -/
def View.worn (v : View) : Bool := v.used == 64

/-- The next free slot: the lowest-numbered free slot (R78). -/
def View.nextFree (v : View) : Option Nat := (v.slotsWhere fun b => slotClass b == .free).head?

/-- The latest used slot: the highest-numbered used slot (R77). -/
def View.latestUsed (v : View) : Option Nat := (v.slotsWhere fun b => slotClass b != .free).getLast?

/-- The open slot for identification and return: the highest-numbered open slot (R77). -/
def View.openSlot (v : View) : Option Nat := (v.slotsWhere fun b => slotClass b == .open).getLast?

/-- The blank marker's three conditions (R79, R183). -/
inductive Marker where
  | unprogrammed | set | spent
  deriving DecidableEq, Repr

def View.marker (v : View) : Marker :=
  if v.content.getD 0 255 = 255 then .unprogrammed else if v.content.getD 0 255 = 165 then .set else .spent

/-- The title and edition in the content record. -/
def View.work (v : View) : Work := workOf (numAt v.content 1 3)

/-- The image length in the content record. -/
def View.len (v : View) : Nat := numAt v.content 4 2

/-- The image check in the content record. -/
def View.check (v : View) : BitVec 32 := BitVec.ofNat 32 (numAt v.content 6 4)

/-- Content present: the title field programmed, the content check matching, and L from 1 to capacity − 1 (R79). -/
def View.contentPresent (v : View) : Bool :=
  !unprogrammed (slice v.content 1 3) && slice v.content 13 2 == markedCheck (slice v.content 1 12) &&
    decide (1 ≤ v.len) && decide (v.len ≤ v.capacity.blocks - 1)

/-- Clean: content not present, and the blank marker set (R79). -/
def View.clean (v : View) : Bool := !v.contentPresent && v.marker == .set

/-- The bytes of a page with the given bytes from offset `a` and all ones elsewhere (R78). -/
def pageWith (a : Nat) (bs : List Byte) : List Byte :=
  List.replicate a 255 ++ bs ++ List.replicate (256 - a - bs.length) 255

/-- The tag fields of a slot: use mark OUT, loan number, issuing station, issue day, slot check (R78, R182). -/
def tagBytes (loan : LoanNo) (issuer : Station) (day : Day) : List Byte :=
  let covered := bytesOf 1 0 ++ bytesOf 3 loan.toNat ++ bytesOf 1 issuer.toNat ++ bytesOf 2 day.toNat
  covered ++ markedCheck covered

/-- The back fields of a slot: back mark BACK, return day, returning station (R78, R182). -/
def backBytes (day : Day) (station : Station) : List Byte :=
  bytesOf 1 0 ++ bytesOf 2 day.toNat ++ bytesOf 1 station.toNat

/-- Bytes 1 to 14 of a content record (R108, R183). -/
def contentBytes (w : Work) (len : Nat) (check : BitVec 32) (station : Station) (day : Day) : List Byte :=
  let covered := workBytes w ++ bytesOf 2 len ++ bytesOf 4 check.toNat ++ bytesOf 1 station.toNat ++ bytesOf 2 day.toNat
  covered ++ markedCheck covered

/-- The address of the page of slot `k` (R182). -/
def slotPage (k : Nat) : Nat := 256 * (1 + (k - 1) / 16)

/-- The offset of slot `k` in its page. -/
def slotOffset (k : Nat) : Nat := 16 * ((k - 1) % 16)

/-- The tag write of slot `k` (R78). -/
def tagWrite (k : Nat) (loan : LoanNo) (issuer : Station) (day : Day) : Guarded :=
  .page (slotPage k) (pageWith (slotOffset k) (tagBytes loan issuer day)) (.tag k)

/-- The close of slot `k` (R78). -/
def closeWrite (k : Nat) (day : Day) (station : Station) : Guarded :=
  .page (slotPage k) (pageWith (slotOffset k + 9) (backBytes day station)) (.close k)

/-- The write of the blank marker: 165 sets it, 0 spends it (R183). -/
def markerWrite (value : Byte) : Guarded := .page 4096 (pageWith 0 [value]) .other

/-- The write of the content record, all ones in the marker field (R108). -/
def contentWrite (w : Work) (len : Nat) (check : BitVec 32) (station : Station) (day : Day) : Guarded :=
  .page 4096 (pageWith 1 (contentBytes w len check station day)) .other

/-- Programming can only turn ones into zeros (R74). -/
def program (old new : List Byte) : List Byte := List.zipWith (· &&& ·) old new

/-- The view after a completed write or clear (R74, R86). -/
def View.apply (v : View) : Guarded → View
  | .page a data _ =>
    if a = 4096 then { v with content := program v.content (slice data 0 15) }
    else
      { v with
        slots := v.slots.mapIdx fun i b =>
          if slotPage (i + 1) = a then program b (slice data (slotOffset (i + 1)) 16) else b }
  | .sectorClear sector => if sector = 1 then { v with content := List.replicate 15 255 } else v
  | .blockClear _ => v

/-! ### The configuration image (R175, R176, R186) -/

def roleOf (c : Nat) : Role := if c = 1 then .copy else if c = 2 then .intake else .off

/-- Filter `f` of the image, its penalty clamped (R18, R186). -/
def imageFilter (b : List Byte) (f : Nat) : Filter where
  enabled   := numAt b (33 + 10 * f) 1 != 0
  value     := BitVec.ofNat 20 (numAt b (34 + 10 * f) 3)
  mask      := BitVec.ofNat 20 (numAt b (37 + 10 * f) 3)
  cartridge := (b.getD (40 + 10 * f) 0).getLsbD 0
  braille   := (b.getD (40 + 10 * f) 0).getLsbD 1
  both      := (b.getD (40 + 10 * f) 0).getLsbD 2
  penalty   := clamp 0 1023 (numAt b (41 + 10 * f) 2)

/-- The parameters of group `g` of the image, clamped, the threshold then lowered to the capacity (R153). -/
def imageGroup (b : List Byte) (g : Nat) : GroupParams where
  capacity  := clamp 1 255 (numAt b (177 + 3 * g) 1)
  threshold := min (clamp 0 255 (numAt b (178 + 3 * g) 1)) (clamp 1 255 (numAt b (177 + 3 * g) 1))
  maxAge    := clamp 1 72 (numAt b (179 + 3 * g) 1)

/-- The bit timing of the image, clamped, the jump then lowered to the tail (R1). -/
def imageTiming (b : List Byte) : BitTiming where
  prescaler := clamp 1 64 (numAt b 5 1)
  settle    := clamp 1 16 (numAt b 6 1)
  tail      := clamp 2 8 (numAt b 7 1)
  jump      := min (clamp 1 4 (numAt b 8 1)) (clamp 2 8 (numAt b 7 1))

/-- The clamped values of an image of 256 bytes (R176, R186). -/
def imageCfg (b : List Byte) : Cfg where
  timing       := imageTiming b
  bidWindow    := clamp 1 255 (numAt b 9 1)
  roles        := Vector.ofFn fun n => roleOf (numAt b (10 + n.val) 1)
  program      := clamp 10 2000 (numAt b 18 2)
  erase        := clamp 10 2000 (numAt b 20 2)
  reissue      := clamp 1 1023 (numAt b 22 2)
  pick         := clamp 1 1023 (numAt b 24 2)
  blankWait    := clamp 0 1023 (numAt b 26 2)
  loanPeriod   := clamp 7 180 (numAt b 28 2)
  lostInterval := clamp 14 365 (numAt b 30 2)
  keepLimit    := clamp 0 15 (numAt b 32 1)
  filters      := Vector.ofFn fun f => imageFilter b f.val
  zoneMap      := Vector.ofFn fun z => Fin.ofNat 8 (min 7 (numAt b (113 + z.val) 1))
  groups       := Vector.ofFn fun g => imageGroup b g.val
  benchRate    := clamp 9600 115200 (numAt b 201 4)

/-- The configuration check: the sum of bytes 0 to 253 modulo 65,536 (R184). -/
def imageSum (b : List Byte) : Nat := ((b.take 254).map BitVec.toNat).sum % 65536

/-- The cause of an invalid configuration: the first failing test of R175, none where all four pass. -/
def imageCause (b : List Byte) : Option ConfigCause :=
  if b.length ≠ 256 then some .noImage
  else if slice b 0 4 ≠ ascii "LSCF" then some .signature
  else if numAt b 254 2 ≠ imageSum b then some .check
  else if numAt b 4 1 = 0 ∨ 63 < numAt b 4 1 then some .station
  else none

/-! ### The record memory header (R187) -/

/-- The header written by a first start. -/
def headerBytes (s : Station) : List Byte :=
  let covered := ascii "LSRM" ++ bytesOf 1 s.toNat
  covered ++ bytesOf 2 (crc16Bytes covered).toNat

/-- The station number of a header that is neither missing nor bad (R187). -/
def headerStation (h : List Byte) : Option Station :=
  if slice h 0 4 = ascii "LSRM" ∧ numAt h 5 2 = (crc16Bytes (slice h 0 5)).toNat ∧
      1 ≤ numAt h 4 1 ∧ numAt h 4 1 ≤ 63 then
    some (BitVec.ofNat 6 (numAt h 4 1))
  else none

end Sys2Proof.Machine
end

