-- ==== Sys2Proof/Machine/Ops.lean ====
section
/-! DEFINITION. The named operations over the part's tables, queues and registers that the blocks share: finding,
changing and removing a record, a socket record's changes, raising a notice (R173), the millisecond timers (R174),
and the record memory write that ends an event (R72, R165, R178). -/

namespace Sys2Proof.Machine

/-! ### Sockets and buffers by number -/

/-- The sockets in number order. -/
def allSockets : List Idx8 := List.finRange 8

/-- The gang buffers in number order. -/
def allBuffers : List (Fin 4) := List.finRange 4

/-- The tray records in number order. -/
def allTrays : List (Fin 16) := List.finRange 16

def State.socket (s : State) (n : Idx8) : Socket := s.sockets[n]

def State.setSocket (s : State) (n : Idx8) (k : Socket) : State :=
  { s with sockets := s.sockets.set n.val k n.isLt }

def State.modSocket (s : State) (n : Idx8) (f : Socket → Socket) : State := s.setSocket n (f (s.socket n))

/-- The socket's state changes; its cartridge view and operation stand. -/
def State.putSock (s : State) (n : Idx8) (st : SockState) : State := s.modSocket n fun k => { k with state := st }

def State.buffer (s : State) (b : Fin 4) : Buffer := s.copy.buffers[b]

def State.setBuffer (s : State) (b : Fin 4) (x : Buffer) : State :=
  { s with copy := { s.copy with buffers := s.copy.buffers.set b.val x b.isLt } }

/-- The serial of the cartridge held, 0 when none is held or its identity is not valid (R90, R170). -/
def State.serialAt (s : State) (n : Idx8) : Serial :=
  match (s.socket n).view with
  | some v => v.serial
  | none => 0

/-- The role of a socket: in LISTEN every socket is treated as OFF (R85). -/
def State.role (s : State) (n : Idx8) : Role := if s.line.state = .listen then .off else s.cfg.roles[n]

/-! ### Ownership (R178) -/

/-- This station's number as it stands in the frames and records the station makes. -/
def State.station (s : State) : Station := s.start.own.getD 0

/-- Whether a station number is this station's. -/
def State.isOwn (s : State) (x : Station) : Bool := s.start.own == some x

/-- Whether the issuing station byte of a tag slot is this station's number. -/
def State.isOwnByte (s : State) (x : Nat) : Bool :=
  match s.start.own with
  | some o => o.toNat == x
  | none => false

/-! ### Loan records -/

def State.loan? (s : State) (n : LoanNo) : Option Loan := s.tables.loans.find? fun l => l.number == n

def State.modLoan (s : State) (n : LoanNo) (f : Loan → Loan) : State :=
  { s with tables := { s.tables with loans := s.tables.loans.map fun l => if l.number = n then f l else l } }

def State.dropLoan (s : State) (n : LoanNo) : State :=
  { s with tables := { s.tables with loans := s.tables.loans.filter fun l => l.number != n } }

/-- A record joins the records in ascending loan number. -/
def insertLoan (l : Loan) : List Loan → List Loan
  | [] => [l]
  | x :: xs => if l.number < x.number then l :: x :: xs else x :: insertLoan l xs

def State.addLoan (s : State) (l : Loan) : State :=
  { s with tables := { s.tables with loans := insertLoan l s.tables.loans } }

/-! ### Order entries -/

def State.entry? (s : State) (o : OrderNo) : Option Entry := s.book.entries.find? fun e => e.order == o

def State.modEntry (s : State) (o : OrderNo) (f : Entry → Entry) : State :=
  { s with book := { s.book with entries := s.book.entries.map fun e => if e.order = o then f e else e } }

def State.setEntryState (s : State) (o : OrderNo) (st : EntryState) : State :=
  s.modEntry o fun e => { e with state := st }

/-- An entry is removed; an owed RELEASE is dropped with it (R35). -/
def State.dropEntry (s : State) (o : OrderNo) : State :=
  { s with
    book :=
      { entries := s.book.entries.filter fun e => e.order != o
        owed := s.book.owed.filter fun x => x != o } }

/-- The entry TAKEN(self) that names a loan (R19). -/
def State.entryOfLoan? (s : State) (n : LoanNo) : Option Entry :=
  s.book.entries.find? fun e => e.state == .takenSelf n

/-! ### Stock tables -/

def State.dir? (s : State) (w : Work) : Option DirEntry := s.tables.directory.find? fun d => d.work == w

def State.modDir (s : State) (w : Work) (f : DirEntry → DirEntry) : State :=
  { s with tables := { s.tables with directory := s.tables.directory.map fun d => if d.work = w then f d else d } }

def State.dropDir (s : State) (w : Work) : State :=
  { s with tables := { s.tables with directory := s.tables.directory.filter fun d => d.work != w } }

def State.stock? (s : State) (x : Serial) : Option StockRec := s.tables.stock.find? fun r => r.serial == x

/-- The ready-stock record in ISSUING for a loan. -/
def State.issuing? (s : State) (n : LoanNo) : Option StockRec := s.tables.stock.find? fun r => r.state == .issuing n

def State.modStock (s : State) (x : Serial) (f : StockRec → StockRec) : State :=
  { s with tables := { s.tables with stock := s.tables.stock.map fun r => if r.serial = x then f r else r } }

def State.dropStock (s : State) (x : Serial) : State :=
  { s with tables := { s.tables with stock := s.tables.stock.filter fun r => r.serial != x } }

def State.set? (s : State) (w : Work) : Option SetRec := s.tables.sets.find? fun r => r.work == w

def State.modSet (s : State) (w : Work) (f : SetRec → SetRec) : State :=
  { s with tables := { s.tables with sets := s.tables.sets.map fun r => if r.work = w then f r else r } }

/-! ### Trays -/

def State.tray (s : State) (r : Fin 16) : Option Tray := s.tables.trays[r]

def State.setTray (s : State) (r : Fin 16) (t : Option Tray) : State :=
  { s with tables := { s.tables with trays := s.tables.trays.set r.val t r.isLt } }

/-- The record that holds a tray number (R154). -/
def State.trayOf? (s : State) (t : TrayNo) : Option (Fin 16 × Tray) :=
  allTrays.findSome? fun r =>
    match s.tray r with
    | some x => if x.number = t then some (r, x) else none
    | none => none

/-! ### Notices (R173) -/

/-- A notice joins the tail of the notice queue, or is dropped and the lost-notices mark is set (R173). -/
def State.raise (s : State) (x : Notice) : State :=
  if s.bench.notices.length < 64 then
    { s with bench := { s.bench with notices := s.bench.notices ++ [x] } }
  else { s with bench := { s.bench with lost := true } }

/-! ### Timers (R22, R174) -/

/-- The millisecond count has reached a deadline; counts wrap, and no interval comes near half of the range (R174). -/
def State.reached (s : State) (deadline : Millis) : Bool := (s.time.ms - deadline).toNat < 2147483648

/-- A millisecond event: the millisecond count rises by 1, and once start has ended the second count rises at every
1,000th (R174). -/
def State.tick (s : State) : State :=
  if s.start.phase = .running then
    if s.time.sub + 1 < 1000 then { s with time := ⟨s.time.ms + 1, s.time.sec, s.time.sub + 1⟩ }
    else { s with time := ⟨s.time.ms + 1, s.time.sec + 1, 0⟩ }
  else { s with time := { s.time with ms := s.time.ms + 1 } }

/-- The count at which a timer of `n` ms started now expires (R174). -/
def State.after (s : State) (n : Nat) : Millis := s.time.ms + BitVec.ofNat 32 n

/-- The bid window in ms (R21). -/
def State.windowMs (s : State) : BitVec 32 := BitVec.ofNat 32 (s.cfg.bidWindow * 10)

/-! ### The record memory write that ends an event (R72, R165, R178) -/

/-- Record memory takes the event's changes, where it may be written; a write that fails after start leaves record
memory as it stood, raises CONFIG-INVALID with cause RECORDS, and record memory is written no more (R178).  DESIGN CHOICE:
that notice joins behind all the event's other notices, and so is the one dropped where they fill the queue; R173 and R178
give it no place among them (log entry 37). -/
def commit (w : RecordWrite) (s : State) : State :=
  if s.start.writable = false then s
  else
    match w with
    | .completed => { s with nv := { s.nv with tables := s.tables } }
    | .failed =>
      if s.nv.tables = s.tables then s
      else ({ s with start := { s.start with writable := false } }).raise (.configInvalid .records)

end Sys2Proof.Machine
end

