-- ==== Sys2Proof/Machine/Flags.lean ====
section
/-! DEFINITION. The counts and tests the blocks read from one another: the counts the manual defines as a number of
records (R15, R24, R42, R52, R96, R119), the fitting blanks (R97), the readiness, close and notice tests of the
Loan Register (R58, R63, R67), a filter's match (R18), a master store block's freedom (R118) and the Bid Unit's
computation (chapter 3), which keeps no state. -/

namespace Sys2Proof.Machine

/-! ### Counts -/

/-- The free entries of the transmit queue (R14). -/
def State.freeTx (s : State) : Nat := 16 - s.line.tx.length

/-- The member a socket holds in COPYING or FINISHING (R98). -/
def SockState.member : SockState → Option Member
  | .copying m => some m
  | .finishing m => some m
  | _ => none

/-- The members of all gangs, in socket-number order. -/
def State.members (s : State) : List (Idx8 × Member) :=
  allSockets.filterMap fun n => (s.socket n).state.member.map (n, ·)

/-- The members of one gang, in socket-number order (R98). -/
def State.membersOf (s : State) (g : Nat) : List (Idx8 × Member) := s.members.filter fun p => p.2.gang == g

/-- A directory entry's users count: the jobs for the title and edition, waiting or running (R96, R119). -/
def State.users (s : State) (w : Work) : Nat :=
  (s.copy.queue.filter fun j => j.work == w).length + (s.members.filter fun p => p.2.job.work == w).length

/-- N_open: the loans in CLAIMED or READY (R52). -/
def State.nOpen (s : State) : Nat :=
  (s.tables.loans.filter fun l => l.state == .claimed || l.state == .ready).length

/-- The free loan records (R52). -/
def State.freeLoans (s : State) : Nat := 32768 - s.tables.loans.length

/-- The pledge summary of an entry in QUEUED. -/
def EntryState.pledge? : EntryState → Option Pledge
  | .queued p _ => some p
  | _ => none

/-- The entries in QUEUED, on any path (R42). -/
def State.queuedBids (s : State) : Nat := (s.book.entries.filter fun e => e.state.pledge?.isSome).length

/-- The pending copy count: the entries in QUEUED whose pledge summary counts a copy slot (R24). -/
def State.pendingCopy (s : State) : Nat :=
  (s.book.entries.filter fun e => (e.state.pledge?.map (·.copySlot)).getD false).length

/-- S: the sockets whose configured role is COPY (R43). -/
def State.copySockets (s : State) : Nat := (allSockets.filter fun n => s.cfg.roles[n] == .copy).length

/-! ### Blanks (R97) -/

/-- Whether a socket is of role COPY and in BLANK with a capacity of at least `len + 1` blocks, and then whether it is
clean (R46, R97). -/
def State.fittingBlank (s : State) (len : Nat) (n : Idx8) : Option Bool :=
  match s.role n, (s.socket n).state, (s.socket n).view with
  | .copy, .blank c, some v => if len + 1 ≤ v.capacity.blocks then some c else none
  | _, _, _ => none

/-- The socket given to a job: the lowest-numbered fitting blank that is clean, else the lowest that is dirty, among
the sockets named (R97, R98). -/
def State.chooseBlank (s : State) (len : Nat) (among : List Idx8) : Option Idx8 :=
  (among.find? fun n => s.fittingBlank len n == some true).or
    (among.find? fun n => s.fittingBlank len n == some false)

/-- The lowest-numbered free buffer (R97). -/
def State.freeBuffer? (s : State) : Option (Fin 4) := allBuffers.find? fun b => (s.buffer b).owner == .free

/-! ### Formats -/

def Format.hasCartridge : Format → Bool
  | .braille => false
  | _ => true

def Format.hasBraille : Format → Bool
  | .cartridge => false
  | _ => true

/-! ### Interest filters (R18) -/

/-- Whether a filter matches an order's title and format. -/
def filterMatches (f : Filter) (t : Title) (fmt : Format) : Bool :=
  (t &&& f.mask == f.value &&& f.mask) &&
    match fmt with
    | .cartridge => f.cartridge
    | .braille => f.braille
    | .both => f.both

/-- The filter hit: the lowest-numbered filter that is enabled and matches (R18). -/
def State.filterHit (s : State) (t : Title) (fmt : Format) : Option Idx8 :=
  allSockets.find? fun i => s.cfg.filters[i].enabled && filterMatches s.cfg.filters[i] t fmt

/-! ### Loan tests -/

def CartPart.isReady (c : CartPart) : Bool :=
  match c.status with
  | .ready _ => true
  | _ => false

/-- Every part the loan has is ready (R58). -/
def Loan.allReady (l : Loan) : Bool :=
  (l.cart.map (·.isReady)).getD true && (l.braille.map (·.status == .picked)).getD true

/-- Every part the loan has is BACK and no RECOVERED is owed (R67). -/
def Loan.closes (l : Loan) : Bool :=
  (l.cart.map (·.status == .back)).getD true && (l.braille.map (·.status == .back)).getD true &&
    l.recovery != .owed

/-- The loan is out in the post: SHIPPED, OVERDUE or LOST. -/
def Loan.out (l : Loan) : Bool := l.state == .shipped || l.state == .overdue || l.state == .lost

/-- The register holds a loan in SHIPPED, OVERDUE or LOST. -/
def State.loanOut (s : State) (n : LoanNo) : Bool := ((s.loan? n).map (·.out)).getD false

/-- Whether a record owes a notice (R63). -/
def Loan.owes (l : Loan) : LoanStatus → Bool
  | .overdue => (l.state == .overdue || l.state == .lost) && !l.overdueSent
  | .lost => l.state == .lost && !l.lostSent && l.recovery == .none
  | .recovered => l.recovery == .owed

/-- The first notice a record owes (R63). -/
def Loan.firstOwed (l : Loan) : Option LoanStatus := [LoanStatus.overdue, .lost, .recovered].find? l.owes

/-! ### The master store (R118) -/

/-- A block is free when no entry holds it. -/
def blockFree (dir : List DirEntry) (b : Nat) : Bool := dir.all fun d => b < d.start || d.start + d.len ≤ b

/-- Blocks `b` to `b + n − 1` are all free and below the store size: no entry's extent meets them. -/
def extentFree (dir : List DirEntry) (size n b : Nat) : Bool :=
  b + n ≤ size && dir.all fun d => b + n ≤ d.start || d.start + d.len ≤ b

/-- The lowest block from `b` on, looking at `fuel` blocks, at which an extent of `n` blocks is free. -/
def firstFitFrom (dir : List DirEntry) (size n : Nat) : Nat → Nat → Option Nat
  | 0, _ => none
  | fuel + 1, b => if extentFree dir size n b then some b else firstFitFrom dir size n fuel (b + 1)

/-- First-fit allocation (R118). -/
def firstFit (dir : List DirEntry) (size n : Nat) : Option Nat := firstFitFrom dir size n size 0

/-! ### The Bid Unit (R42 to R51) -/

/-- The Bid Unit's answer, when it is not "no bid" (R42). -/
structure BidAnswer where
  path     : Path
  serial   : Option Serial
  set      : Bool
  copySlot : Bool
  cost     : Nat
  blockMs  : Nat
  baseTime : Nat
  deriving DecidableEq, Repr

/-- The better of two FREE records: fewest used slots, then lowest serial (R45). -/
def betterRecord (a b : StockRec) : StockRec :=
  if b.used < a.used ∨ (b.used = a.used ∧ b.serial < a.serial) then b else a

/-- The FREE ready-stock record the REISSUE path takes (R45). -/
def State.chosenStock (s : State) (w : Work) : Option StockRec :=
  match s.tables.stock.filter fun r => r.work == w && r.state == .free with
  | [] => none
  | r :: rs => some (rs.foldl betterRecord r)

/-- The image length of a VALID directory entry. -/
def State.validLen (s : State) (w : Work) : Option Nat :=
  match s.dir? w with
  | some d => if d.state = .valid then some d.len else none
  | none => none

/-- The sum that R44 and R69 bound: waiting jobs plus pending copy bids. -/
def State.copyLoad (s : State) : Nat := s.copy.queue.length + s.pendingCopy

/-- Stage 1: whether the order may be bid for (R44). -/
def State.eligible (s : State) (w : Work) (fmt : Format) (hit : Option Idx8) : Bool :=
  hit.isSome && decide (s.queuedBids < s.freeLoans) &&
    (!fmt.hasCartridge || (s.chosenStock w).isSome ||
      ((s.validLen w).isSome && s.copySockets != 0 && decide (s.copyLoad < 24))) &&
    (!fmt.hasBraille || ((s.set? w).map fun r => decide (r.pledged < r.onShelf)).getD false)

/-- A: the fitting blank sockets; C: those that are clean (R46). -/
def State.blanks (s : State) (len : Nat) : Nat := (allSockets.filter fun n => (s.fittingBlank len n).isSome).length

def State.cleanBlanks (s : State) (len : Nat) : Nat :=
  (allSockets.filter fun n => s.fittingBlank len n == some true).length

/-- The block time m of stage 2 (R46). -/
def State.bidBlockMs (s : State) (len : Nat) : Nat :=
  if s.copy.queue.length < s.blanks len ∧ s.copy.queue.length < s.cleanBlanks len then s.cfg.program
  else s.cfg.program + s.cfg.erase

/-- T0 of L blocks at m ms each (R46). -/
def baseTimeOf (len blockMs : Nat) : Nat := ceilDiv (len * blockMs) 1000

/-- The blocks done of a running job: its gang's, or all of L in FINISHING (R42). -/
def State.blocksDone (s : State) (m : Member) : Nat :=
  match m.progress with
  | .finishing _ => m.job.len
  | _ => ((s.copy.gangs.find? fun g => g.id == m.gang).map (·.done)).getD 0

/-- The backlog B of stage 3 (R47). -/
def State.backlog (s : State) : Nat :=
  (s.copy.queue.map (·.estimate)).sum +
    (s.members.map fun p => ceilDiv ((p.2.job.len - s.blocksDone p.2) * p.2.job.blockMs) 1000).sum

/-- The wait W of stage 3 (R47). -/
def State.bidWait (s : State) (len : Nat) : Nat :=
  if s.copy.queue.length < s.blanks len then 0 else ceilDiv s.backlog s.copySockets + s.cfg.blankWait

/-- The bounded total of stage 6 (R49). -/
def boundCost (total : Nat) : Nat := max 1 (min 16382 total)

/-- The Bid Unit's answer for a title, edition, format and filter hit; none is "no bid" (R42 to R49). -/
def State.bid (s : State) (w : Work) (fmt : Format) (hit : Option Idx8) : Option BidAnswer :=
  if s.eligible w fmt hit = false then none
  else
    let surcharge := (hit.map fun h => s.cfg.filters[h].penalty).getD 0 + 4 * s.nOpen
    let answer (path : Path) (serial : Option Serial) (copySlot : Bool) (cartTime m t0 : Nat) : BidAnswer :=
      let base := match fmt with
        | .cartridge => cartTime
        | .braille => s.cfg.pick
        | .both => max cartTime s.cfg.pick
      ⟨path, serial, fmt.hasBraille, copySlot, boundCost (base + surcharge), m, t0⟩
    if fmt.hasCartridge = false then some (answer .brailleOnly none false 0 0 0)
    else
      match s.chosenStock w with
      | some r => some (answer .reissue (some r.serial) false s.cfg.reissue 0 0)
      | none =>
        match s.validLen w with
        | none => none
        | some len =>
          let m := s.bidBlockMs len
          some (answer .copy none true (baseTimeOf len m + s.bidWait len) m (baseTimeOf len m))

/-- The m and Ti of a job created without a BID of its own (R51). -/
def State.plainEstimate (s : State) (len : Nat) : Nat × Nat :=
  (s.cfg.program + s.cfg.erase, baseTimeOf len (s.cfg.program + s.cfg.erase))

end Sys2Proof.Machine
end

