-- ==== Sys2Proof/Machine/Queues.lean ====
section
/-! DEFINITION. The Line Interface's two queues as the blocks use them: the head of the receive queue (R13), the
head of the transmit queue (R14), and the two admission rules (R15). -/

namespace Sys2Proof.Machine

/-- A frame of this station (R7). -/
def State.frame (s : State) (rank : BitVec 14) (p : Payload) : Frame := ⟨rank, s.station, p⟩

/-- A frame joins the transmit queue behind those accepted before it (R14). -/
def State.pushTx (s : State) (f : Frame) : State :=
  { s with line := { s.line with tx := s.line.tx ++ [⟨f, false, false⟩] } }

/-- A BID or HELD is offered: accepted whenever an entry is free (R15). -/
def State.offerUrgent (s : State) (rank : BitVec 14) (p : Payload) : Option State :=
  if 1 ≤ s.freeTx then some (s.pushTx (s.frame rank p)) else none

/-- Whether a paced offer is accepted: at least 4 entries free, and the pacing list empty or headed by the owner
(R15). -/
def State.paceOk (s : State) (o : PacedOwner) : Bool :=
  decide (4 ≤ s.freeTx) && (s.line.pacing.isEmpty || s.line.pacing.head? == some o)

/-- An owner leaves the pacing list. -/
def State.leavePacing (s : State) (o : PacedOwner) : State :=
  { s with line := { s.line with pacing := s.line.pacing.filter (· != o) } }

/-- An owner joins the tail of the pacing list, unless it is on it (R15). -/
def State.joinPacing (s : State) (o : PacedOwner) : State :=
  if s.line.pacing.contains o then s else { s with line := { s.line with pacing := s.line.pacing ++ [o] } }

/-- A paced owner offers one frame (R15): the state after, and whether it was accepted. -/
def State.offerPaced (s : State) (o : PacedOwner) (p : Payload) : State × Bool :=
  if s.paceOk o then ((s.leavePacing o).pushTx (s.frame 0 p), true) else (s.joinPacing o, false)

/-- The entry with the lowest arbitration field, the earliest accepted among equals (R14). -/
def headOf : List TxEntry → Option TxEntry
  | [] => none
  | e :: es =>
    match headOf es with
    | none => some e
    | some x => if x.frame.field < e.frame.field then some x else some e

/-- The first entry equal to `x` is changed by `f`. -/
def modFirst (x : TxEntry) (f : TxEntry → TxEntry) : List TxEntry → List TxEntry
  | [] => []
  | e :: es => if e = x then f e :: es else e :: modFirst x f es

/-- The entry in transmission (R9, R14). -/
def State.sending? (s : State) : Option TxEntry := s.line.tx.find? (·.inTransmission)

/-- An entry leaves the transmit queue. -/
def State.dropTx (s : State) (x : TxEntry) : State :=
  { s with line := { s.line with tx := s.line.tx.erase x } }

/-- The queued BID of an order (R16). -/
def State.bidOf? (s : State) (o : OrderNo) : Option TxEntry :=
  s.line.tx.find? fun e =>
    match e.frame.payload with
    | .bid x _ => x == o
    | _ => false

/-- Whether a HELD for an order is queued (R14). -/
def State.heldQueuedInTx (s : State) (o : OrderNo) : Bool := s.line.tx.any fun e => e.frame.payload == .held o

/-- The head frame has been taken: it leaves the receive queue, and the overrun flag is cleared when the queue
becomes empty (R13). -/
def State.popRx (s : State) : State :=
  { s with
    line :=
      { s.line with rx := s.line.rx.tail, overrun := s.line.overrun && !s.line.rx.tail.isEmpty } }

/-- A frame that passed R8 joins the tail of the receive queue, stamped with the millisecond count; at a full queue it
is discarded and the overrun flag set, with an RX-OVERRUN notice where the flag was clear (R10, R13). -/
def State.pushRx (s : State) (f : Frame) : State :=
  if s.line.rx.length < 16 then
    { s with line := { s.line with rx := s.line.rx ++ [⟨f, s.time.ms⟩] } }
  else if s.line.overrun then s
  else ({ s with line := { s.line with overrun := true } }).raise .rxOverrun

end Sys2Proof.Machine
end

