-- ==== Sys2Proof/Machine/Sockets.lean ====
section
/-! DEFINITION. The Socket Sequencers' shared operations: the cartridge's latch (R75), the tests a write, clear or
read must pass (R78, R80, R83), starting an operation, FAULT and REJECTED (R90), the quarantine list (R93) and the
slot close that no-loan mode begins with (R89). -/

namespace Sys2Proof.Machine

/-! ### The cartridge's latch (R75) -/

/-- UNLOCK sets the write latch; it is ignored while the cartridge is busy. -/
def CartLink.unlock (k : CartLink) : CartLink := if k.busy then k else { k with latch := true }

/-- LOCK clears the write latch; it is ignored while the cartridge is busy. -/
def CartLink.lock (k : CartLink) : CartLink := if k.busy then k else { k with latch := false }

/-- A write or clear is accepted only while the latch is set and the cartridge is not busy. -/
def CartLink.write (k : CartLink) : CartLink := if k.latch && !k.busy then { k with busy := true, fault := false } else k

/-- What the cartridge reports to STATE. -/
def CartLink.answer (a : StateAnswer) : CartLink := ⟨a.busy, a.latch, a.fault⟩

/-! ### The tests before an operation (R78, R80, R83) -/

/-- Whether a write or clear may be sent to the cartridge. -/
def guardOk (v : View) : Guarded → Bool
  | .page a _ purpose =>
    v.kind == .stock && a % 256 == 0 && decide (a + 256 ≤ v.capacity.blocks * 65536) &&
      (decide (4096 ≤ a) ||
        match purpose with
        | .tag k => a == slotPage k && v.nextFree == some k
        | .close k => a == slotPage k && slotClass (v.slot k) == .open
        | .other => false)
  | .sectorClear n => v.kind == .stock && n != 0 && decide ((n + 1) * 4096 ≤ v.capacity.blocks * 65536)
  | .blockClear b => v.kind == .stock && b != 0 && decide (b < v.capacity.blocks)

/-- A socket's record as a guarded operation is asked for: UNLOCK is sent, or the request is refused and nothing is
sent (R82, R83). -/
def Socket.startGuarded (k : Socket) (g : Guarded) : Socket :=
  if (k.view.map (guardOk · g)).getD false then
    { k with op := some (.guarded g (.beforeCommand (some k.link))), hold := none, link := k.link.unlock }
  else { k with op := some .refused, hold := none }

/-- A socket's record as a READ is asked for; it must lie below the capacity (R80). -/
def Socket.startRead (k : Socket) (address count : Nat) : Socket :=
  if (k.view.map fun v => decide (address + count ≤ v.capacity.blocks * 65536)).getD false then
    { k with op := some (.read address count), hold := none }
  else { k with op := some .refused, hold := none }

def State.startGuarded (s : State) (n : Idx8) (g : Guarded) : State := s.modSocket n (·.startGuarded g)

/-- A READ of a whole cartridge block (R80). -/
def State.startBlockRead (s : State) (n : Idx8) (b : Nat) : State := s.modSocket n (·.startRead (b * 65536) 65536)

/-- The poll limit of a guarded operation, in ms (R82). -/
def pollLimit : Guarded → Nat
  | .page _ _ _ => 10
  | .sectorClear _ => 400
  | .blockClear _ => 3000

/-! ### FAULT, REJECTED and the quarantine list -/

/-- A serial joins the tail of the quarantine list; one already there keeps its place, and the oldest of 32 is
dropped (R93). -/
def State.quarantineSerial (s : State) (x : Serial) : State :=
  if s.quarantine.contains x then s
  else if s.quarantine.length < 32 then { s with quarantine := s.quarantine ++ [x] }
  else { s with quarantine := s.quarantine.tail ++ [x] }

/-- A socket enters FAULT and raises SOCKET-FAULT (R90). -/
def State.faultSocket (s : State) (n : Idx8) : State :=
  (s.modSocket n fun k => { k with state := .fault, op := none, hold := none }).raise (.socketFault n (s.serialAt n))

/-- A socket enters REJECTED and raises its notice (R90). -/
def State.rejectSocket (s : State) (n : Idx8) (why : RejectReason) : State :=
  (s.modSocket n fun k => { k with state := .rejected why, op := none, hold := none }).raise
    (.rejected n (s.serialAt n) why)

/-! ### No-loan mode that begins with a slot close (R89, R109, R110, R115) -/

/-- The socket goes to CHECKING in no-loan mode with the close of slot `k` as its first operation. -/
def State.closeFirst (s : State) (n : Idx8) (k : Nat) : State :=
  let loan := ((s.socket n).view.map fun v => slotLoan (v.slot k))
  (s.putSock n (.checking ⟨.noLoan, some k, loan, .closing⟩)).startGuarded n (closeWrite k s.tables.day s.station)

/-- The open slot of the cartridge a socket holds (R77). -/
def State.openSlotAt (s : State) (n : Idx8) : Option Nat := (s.socket n).view.bind (·.openSlot)

end Sys2Proof.Machine
end

