-- ==== Sys2Proof/Machine/Stock.lean ====
section
/-! DEFINITION. The Stock Directory's changes that other blocks cause (R24, R128, R131) and the stock gains it
reports to the Order Book (R37, R133). -/

namespace Sys2Proof.Machine

/-! ### Stock gains (R37) -/

/-- An entry in UNBID for the title and edition whose format the gain serves, and which is not excluded, enters
WINDOW. -/
def reopenEntry (w : Work) (serves : Format → Bool) (deadline : Millis) (e : Entry) : Entry :=
  if e.state = .unbid ∧ e.work = w ∧ serves e.format = true ∧ e.excluded = false then
    { e with state := .window deadline }
  else e

/-- The Order Book takes a stock gain (R37). -/
def State.stockGain (s : State) (w : Work) (serves : Format → Bool) : State :=
  { s with
    book := { s.book with entries := s.book.entries.map (reopenEntry w serves (s.time.ms + s.windowMs)) } }

/-- A cartridge gain serves CARTRIDGE and BOTH. -/
def State.cartridgeGain (s : State) (w : Work) : State := s.stockGain w Format.hasCartridge

/-- A braille gain serves BRAILLE and BOTH. -/
def State.brailleGain (s : State) (w : Work) : State := s.stockGain w Format.hasBraille

/-! ### Ready stock (R128) -/

/-- A ready-stock record takes a new state; its shelf code survives. -/
def State.stockState (s : State) (x : Serial) (st : StockState) : State := s.modStock x fun r => { r with state := st }

/-- The record in ISSUING for a loan is removed. -/
def State.dropIssuing (s : State) (n : LoanNo) : State :=
  match s.issuing? n with
  | some r => s.dropStock r.serial
  | none => s

/-- The record in ISSUING for a loan returns to FREE, a cartridge gain (R65, R133). -/
def State.freeIssuing (s : State) (n : LoanNo) : State :=
  match s.issuing? n with
  | some r => (s.stockState r.serial .free).cartridgeGain r.work
  | none => s

/-! ### Braille sets (R131) -/

/-- A copy is pledged. -/
def SetRec.pledge (r : SetRec) : SetRec := { r with pledged := r.pledged + 1 }

/-- A pledge is undone. -/
def SetRec.unpledge (r : SetRec) : SetRec := { r with pledged := r.pledged - 1 }

/-- A pledged copy is picked (R58). -/
def SetRec.pick (r : SetRec) : SetRec := { r with onShelf := r.onShelf - 1, pledged := r.pledged - 1 }

/-- A copy comes back to the shelf. -/
def SetRec.reshelve (r : SetRec) : SetRec := { r with onShelf := r.onShelf + 1 }

/-- A pledged copy is missing (R70). -/
def SetRec.lose (r : SetRec) : SetRec :=
  { r with held := r.held - 1, onShelf := r.onShelf - 1, pledged := r.pledged - 1 }

/-- A missing copy leaves its record, which is removed when its held count reaches 0 (R70, R130). -/
def State.loseSet (s : State) (w : Work) : State :=
  { s with
    tables :=
      { s.tables with
        sets := (s.tables.sets.map fun r => if r.work = w then r.lose else r).filter fun r =>
          !(r.work == w && r.held == 0) } }

/-! ### Pledges (R24) -/

/-- The pledges of a summary are made for an order.  The copy slot is counted by the entry's being in QUEUED. -/
def State.makePledges (s : State) (o : OrderNo) (w : Work) (serial : Option Serial) (set : Bool) : State :=
  let s := match serial with
    | some x => s.stockState x (.pledged o)
    | none => s
  if set then s.modSet w SetRec.pledge else s

/-- Each part of a pledge is reversed (R24). -/
def State.undoPledges (s : State) (o : OrderNo) (w : Work) (p : Pledge) : State :=
  let s := match p.serial with
    | some x => s.modStock x fun r => if r.state = .pledged o then { r with state := .free } else r
    | none => s
  if p.set then s.modSet w SetRec.unpledge else s

end Sys2Proof.Machine
end

