-- ==== Sys2Proof/Machine/Trays.lean ====
section
/-! DEFINITION. The Tray Unit's shared operations: freeing a tray (R161), removing a loan (R163, R164), choosing and
opening a tray (R155, R157), and the SHIPPED frame of a loan and its shipment (R60, R162). -/

namespace Sys2Proof.Machine

/-- A tray's record goes to FREE and leaves the dispatch line (R161). -/
def State.freeTray (s : State) (r : Fin 16) : State :=
  let s := s.setTray r none
  { s with tables := { s.tables with dispatchLine := s.tables.dispatchLine.filter (· != r) } }

/-- Whether one of the loans listed is urgent. -/
def State.anyUrgent (s : State) (ls : List LoanNo) : Bool := ls.any fun n => ((s.loan? n).map (·.urgent)).getD false

/-- A tray record after a change of its list: a CLOSED or DISPATCHING tray left with no loans is freed (R161, R163). -/
def State.storeTray (s : State) (r : Fin 16) (t : Tray) : State :=
  if t.loans.isEmpty && t.state != .filling then s.freeTray r else s.setTray r (some t)

/-- The Tray Unit removes a PACKED loan from its tray, whatever the tray's state, with a PULL notice; the register
clears the loan's tray number (R59, R163, R164). -/
def State.removeFromTray (s : State) (l : Loan) : State :=
  match l.tray with
  | none => s
  | some t =>
    let s := s.modLoan l.number fun l => { l with tray := none }
    let s := match s.trayOf? t with
      | none => s
      | some (r, x) =>
        let rest := x.loans.filter (· != l.number)
        s.storeTray r { x with loans := rest, load := x.load - l.mailUnits, urgent := s.anyUrgent rest }
    s.raise (.pull (l.container.getD 0) t)

/-- Whether a PACKED loan's tray is DISPATCHING (R64). -/
def State.dispatching (s : State) (l : Loan) : Bool :=
  match l.tray.bind s.trayOf? with
  | some (_, x) => x.state == .dispatching
  | none => false

/-! ### Tray numbers (R155) -/

/-- The tray number after one, wrapping from 65,535 to 1. -/
def trayNoAfter (t : TrayNo) : TrayNo := if t = 65535 then 1 else t + 1

/-- The first tray number from `t` on, of the `fuel` looked at, that no record other than FREE holds. -/
def State.freeTrayNo (s : State) : Nat → TrayNo → TrayNo
  | 0, t => t
  | fuel + 1, t => if (s.trayOf? t).isSome then s.freeTrayNo fuel (trayNoAfter t) else t

/-! ### Choosing a tray (R157) -/

/-- The FILLING tray of a group. -/
def State.fillingTray? (s : State) (g : Idx8) : Option (Fin 16 × Tray) :=
  allTrays.findSome? fun r =>
    match s.tray r with
    | some x => if x.group = g ∧ x.state = .filling then some (r, x) else none
    | none => none

/-- The tray goes to CLOSED with a TRAY-CLOSED notice (R157, R159). -/
def State.closeTray (s : State) (r : Fin 16) (x : Tray) : State :=
  (s.setTray r (some { x with state := .closed })).raise (.trayClosed x.number x.group x.load x.loans.length)

/-- A tray cannot take a loan of `u` units when its load would exceed its capacity or its list holds 48 (R157). -/
def Tray.cannotTake (x : Tray) (u : Nat) : Bool := decide (x.capacity < x.load + u) || decide (48 ≤ x.loans.length)

/-- Step 1 of R157: a FILLING tray that holds loans and cannot take this one goes to CLOSED. -/
def State.closeFull (s : State) (g : Idx8) (u : Nat) : State :=
  match s.fillingTray? g with
  | some (r, x) => if x.cannotTake u && !x.loans.isEmpty then s.closeTray r x else s
  | none => s

/-- Step 3 of R157: the lowest-numbered FREE record opens as FILLING for the group; none where no record is FREE. -/
def State.openTray (s : State) (g : Idx8) : Option State :=
  match allTrays.find? fun r => (s.tray r).isNone with
  | none => none
  | some r =>
    let t := s.freeTrayNo 16 s.tables.nextTray
    let p := s.cfg.groups[g]
    let s := s.setTray r (some ⟨t, g, p.capacity, p.threshold, p.maxAge, 0, [], s.time.sec, false, .filling⟩)
    some { s with tables := { s.tables with nextTray := trayNoAfter t } }

/-- The loan joins its group's FILLING tray and goes to PACKED (R158, R59). -/
def State.joinTray (s : State) (l : Loan) (c : Container) (g : Idx8) : State :=
  match s.fillingTray? g with
  | none => s
  | some (r, x) =>
    let s := s.modLoan l.number fun l => { l with state := .packed, container := some c, tray := some x.number }
    s.setTray r
      (some { x with loans := x.loans ++ [l.number], load := x.load + l.mailUnits, urgent := x.urgent || l.urgent })

/-! ### The SHIPPED frame and the shipment (R60, R162) -/

/-- The due day: the dispatch day plus the loan period, or 65,535 if that sum is larger (R60). -/
def dueDayOf (day : Day) (period : Nat) : Day := BitVec.ofNat 16 (min 65535 (day.toNat + period))

/-- The serial a SHIPPED carries: the cartridge's, or 0 for a loan without a cartridge part (R60). -/
def Loan.shippedSerial (l : Loan) : Serial :=
  match l.cart with
  | some ⟨_, .ready x, _⟩ => x
  | _ => 0

/-- The SHIPPED of a loan, built with the day now current (R60). -/
def State.shippedFrame (s : State) (l : Loan) : Payload :=
  .shipped l.order l.number l.shippedSerial s.tables.day (dueDayOf s.tables.day s.cfg.loanPeriod)

/-- The next loan to ship: the first in the list of the tray at the head of the dispatch line (R161). -/
def State.nextToShip (s : State) : Option (Fin 16 × Tray × Loan) :=
  match s.tables.dispatchLine with
  | [] => none
  | r :: _ =>
    match s.tray r with
    | none => none
    | some x =>
      match x.loans with
      | [] => none
      | n :: _ => (s.loan? n).map (r, x, ·)

/-- An accepted SHIPPED: the loan goes to SHIPPED with the frame's days and leaves its tray, and its order entry is
removed (R40, R60, R162). -/
def State.shipLoan (s : State) (r : Fin 16) (x : Tray) (l : Loan) : State :=
  let d := s.tables.day
  let s := s.modLoan l.number fun l =>
    { l with
      state := .shipped, dispatchDay := some d, dueDay := some (dueDayOf d s.cfg.loanPeriod), tray := none }
  let s := match s.entryOfLoan? l.number with
    | some e => s.dropEntry e.order
    | none => s
  s.storeTray r { x with loans := x.loans.tail, load := x.load - l.mailUnits }

end Sys2Proof.Machine
end

