-- ==== Sys2Proof/Machine/Offers.lean ====
section
/-! DEFINITION. The four paced owners' offers and the room event (R15): the Order Book's owed RELEASEs (R34), the
Returns Unit's outbox with its wait list (R137, R138, R148), the Tray Unit's SHIPPED frames (R162) and the day scan's
LOANSTATE (R62, R63).  Each loop's fuel exceeds what the sixteen entries of the transmit queue allow. -/

namespace Sys2Proof.Machine

/-! ### The Tray Unit (R162) -/

/-- The Tray Unit offers SHIPPED frames until one is refused or the line is empty; in LISTEN it makes no offers. -/
def State.trayOffer (s : State) : Nat → State
  | 0 => s
  | fuel + 1 =>
    if s.line.state = .listen then s
    else
      match s.nextToShip with
      | none => s
      | some (r, x, l) =>
        match s.offerPaced .tray (s.shippedFrame l) with
        | (t, true) => (t.shipLoan r x l).trayOffer fuel
        | (t, false) => t

/-! ### The Order Book (R34) -/

/-- The RELEASE at the head of the owed list. -/
def State.headRelease (s : State) : Option (Entry × Reason) :=
  match s.book.owed with
  | [] => none
  | o :: _ => (s.entry? o).bind fun e => e.owed.map (e, ·)

/-- An accepted RELEASE: the flag is cleared and the entry leaves the list, and at release count 3 the book (R34). -/
def State.releaseSent (s : State) (e : Entry) : State :=
  let s := s.modEntry e.order fun e => { e with owed := none }
  let s := { s with book := { s.book with owed := s.book.owed.filter (· != e.order) } }
  if e.releaseCount = 3 then s.dropEntry e.order else s

/-- The Order Book offers owed RELEASEs until one is refused or the list is empty. -/
def State.bookOffer (s : State) : Nat → State
  | 0 => s
  | fuel + 1 =>
    match s.headRelease with
    | none => s
    | some (e, why) =>
      match s.offerPaced .book (.release e.order e.releaseCount why) with
      | (t, true) => (t.releaseSent e).bookOffer fuel
      | (t, false) => t

/-! ### The Returns Unit (R137, R138, R148) -/

/-- An entry is offerable when its condition is known and its held mark is clear (R148). -/
def OutEntry.offerable (e : OutEntry) : Bool := e.condition.isSome && !e.held

/-- The outbox has a place for a loan: fewer than 16 entries, and none for the loan (R137). -/
def State.outboxRoom (s : State) (n : LoanNo) : Bool :=
  decide (s.returns.outbox.length < 16) && s.returns.outbox.all fun e => e.loan != n

/-- The back mark is sent: the open slot's close is started, and for a foreign return the outbox entry is created
(R138). -/
def State.sendBackMark (s : State) (n : Idx8) (c : Check) : State :=
  match c.slot with
  | none => s
  | some k =>
    let s := s.putSock n (.checking { c with phase := .closing })
    let s := s.startGuarded n (closeWrite k s.tables.day s.station)
    match c.mode, c.loan with
    | .foreignReturn, some l =>
      { s with
        returns :=
          { s.returns with
            outbox := s.returns.outbox ++ [⟨l, s.serialAt n, s.tables.day, none, false, some n⟩] } }
    | _, _ => s

/-- One waiting socket is served: it goes on where the outbox now has a place for its loan (R137). -/
def State.serveWaiting (s : State) (n : Idx8) : State :=
  match (s.socket n).state with
  | .checking c =>
    match c.loan with
    | some l =>
      if s.outboxRoom l then
        ({ s with returns := { s.returns with wait := s.returns.wait.filter (· != n) } }).sendBackMark n c
      else s
    | none => s
  | _ => s

/-- The wait list is gone through from its head (R137). -/
def State.serveWaitList (s : State) : State := s.returns.wait.foldl State.serveWaiting s

/-- The Returns Unit offers its oldest offerable entry, and again while offers are accepted (R148).  DESIGN CHOICE: the
loan number goes as the slot held it, also where its station field or its sequence is 0 and so out of R181's range (log
entry 34). -/
def State.returnsOffer (s : State) : Nat → State
  | 0 => s
  | fuel + 1 =>
    match s.returns.outbox.find? (·.offerable) with
    | none => s
    | some e =>
      match s.offerPaced .returns (.returned e.loan e.serial e.day (e.condition.getD .unchecked)) with
      | (t, true) =>
        (({ t with
            returns := { t.returns with outbox := t.returns.outbox.filter (·.loan != e.loan) } }).serveWaitList).returnsOffer
          fuel
      | (t, false) => t

/-- An outbox entry takes a condition and held mark; once it is offerable the unit offers, unless it is on the pacing
list (R146, R148). -/
def State.setCondition (s : State) (n : LoanNo) (c : Condition) (held : Bool) : State :=
  let s :=
    { s with
      returns :=
        { s.returns with
          outbox := s.returns.outbox.map fun e =>
            if e.loan = n then
              { e with condition := some c, held := held, socket := if held then e.socket else none }
            else e } }
  if held || s.line.pacing.contains .returns then s else s.returnsOffer 17

/-! ### The day scan (R62, R63, R67) -/

/-- A scan is requested: it starts from the lowest loan number when idle, and else the rescan flag is set (R62). -/
def State.requestScan (s : State) : State :=
  if s.scan.running then { s with scan := { s.scan with rescan := true } }
  else { s with scan := { s.scan with running := true, last := none } }

/-- A loan number lies above the last one visited. -/
def aboveLast (last : Option LoanNo) (n : LoanNo) : Bool :=
  match last with
  | none => true
  | some x => decide (x < n)

/-- The next record of the pass: the lowest loan number above the last one visited (R62). -/
def State.nextVisit (s : State) : Option Loan := s.tables.loans.find? fun l => aboveLast s.scan.last l.number

/-- A visit has ended: when no record remains above the last one visited, the pass ends (R62). -/
def State.visitEnd (s : State) : State :=
  let s := { s with scan := { s.scan with owed := none } }
  if s.nextVisit.isSome then s
  else if s.scan.rescan then
    { s with scan := { s.scan with last := none, rescan := false } }
  else { s with scan := { s.scan with last := none, running := false } }

/-- The close test: a record whose parts are all BACK and that owes no RECOVERED is removed (R67). -/
def State.closeTest (s : State) (n : LoanNo) : State :=
  match s.loan? n with
  | some l => if l.closes then s.dropLoan n else s
  | none => s

/-- The flag that an accepted LOANSTATE sets (R63). -/
def Loan.noticeSent (l : Loan) : LoanStatus → Loan
  | .overdue => { l with overdueSent := true }
  | .lost => { l with lostSent := true }
  | .recovered => { l with recovery := .done }

/-- The register offers a record's owed notices in turn; a refused one becomes the scan's owed notice (R63). -/
def State.scanOffer (s : State) (n : LoanNo) : Nat → State
  | 0 => s
  | fuel + 1 =>
    match s.loan? n with
    | none => s.visitEnd
    | some l =>
      match l.firstOwed with
      | none => s.visitEnd
      | some st =>
        match s.offerPaced .register (.loanState n l.patron st (l.dueDay.getD 0)) with
        | (t, true) => ((t.modLoan n fun l => l.noticeSent st).closeTest n).scanOffer n fuel
        | (t, false) => { t with scan := { t.scan with owed := some (n, st) } }

/-- Whether the scan's owed notice is still owed by a record held (R63). -/
def State.stillOwed (s : State) : Option LoanNo :=
  match s.scan.owed with
  | none => none
  | some (n, st) =>
    match s.loan? n with
    | some l => if l.owes st then some n else none
    | none => none

/-! ### The room event (R15) -/

/-- Whether a paced owner has a frame to offer. -/
def State.hasOffer (s : State) : PacedOwner → Bool
  | .book => s.headRelease.isSome
  | .returns => s.returns.outbox.any (·.offerable)
  | .tray => s.line.state != .listen && s.nextToShip.isSome
  | .register => s.stillOwed.isSome

/-- A paced owner offers, and again after each accepted offer, within the same event (DESIGN CHOICE, log entry 10). -/
def State.ownerOffer (s : State) : PacedOwner → State
  | .book => s.bookOffer 17
  | .returns => s.returnsOffer 17
  | .tray => s.trayOffer 17
  | .register =>
    match s.stillOwed with
    | some n => s.scanOffer n 4
    | none => s

/-- An owner with nothing left to offer leaves the list; the register drops an owed notice no longer owed, and its
scan goes on (R15, R63). -/
def State.nothingToOffer (s : State) (o : PacedOwner) : State :=
  let s := s.leavePacing o
  if o = .register ∧ s.scan.owed.isSome then s.visitEnd else s

/-- The room event, sent when an entry has left the transmit queue: at least 4 entries free, the first owner on the
pacing list offers; one with nothing to offer leaves the list and the next receives it (R15). -/
def State.roomEvent (s : State) : Nat → State
  | 0 => s
  | fuel + 1 =>
    match s.line.pacing with
    | [] => s
    | o :: _ =>
      if s.freeTx < 4 then s
      else if s.hasOffer o then s.ownerOffer o
      else (s.nothingToOffer o).roomEvent fuel

end Sys2Proof.Machine
end

