-- ==== Sys2Proof/Machine/BookOps.lean ====
section
/-! DEFINITION. The Order Book's shared operations: withdrawing a queued BID (R16, R25), sending a HELD (R29), an own
release (R33), a title void (R38), aging (R39), eviction (R20). -/

namespace Sys2Proof.Machine

/-- What the withdrawal of a BID leaves: the pledges are undone, and the entry takes the outcome of its cause, or the
new WINDOW of R31 where a RELEASE has cleared the cause (R25). -/
def State.bidWithdrawn (s : State) (o : OrderNo) (cause : Option Cause) : State :=
  match s.entry? o with
  | none => s
  | some e =>
    let s := match e.state with
      | .queued p _ => s.undoPledges o e.work p
      | _ => s
    match cause with
    | some (.heard x) => s.setEntryState o (.takenOther x)
    | some .remove => s.dropEntry o
    | some .void => s.setEntryState o .unbid
    | none => s.setEntryState o (.window (s.time.ms + s.windowMs))

/-- The cause that stands when one is raised while another is pending (R25, R31). -/
def Cause.replaces : Cause → Option Cause → Cause
  | c, none => c
  | .remove, some _ => .remove
  | .heard x, some .void => .heard x
  | _, some p => p

/-- The Order Book withdraws the queued BID of an entry, or, while an answer is awaited, the pending cause is settled
(R16, R25).  The entry that leaves the transmit queue may bring a room event (R15). -/
def State.withdrawBid (s : State) (o : OrderNo) (cause : Cause) : State :=
  match s.entry? o with
  | none => s
  | some e =>
    match e.state with
    | .queued p (.awaited c) => s.setEntryState o (.queued p (.awaited (some (cause.replaces c))))
    | .queued p .none =>
      match s.bidOf? o with
      | none => s
      | some x =>
        if x.inTransmission then
          let s := s.setEntryState o (.queued p (.awaited (some cause)))
          { s with
            line := { s.line with tx := modFirst x (fun y => { y with withdrawPending := true }) s.line.tx } }
        else ((s.dropTx x).bidWithdrawn o (some cause)).roomEvent 5
    | _ => s

/-- The pending cause of an entry. -/
def EntryState.pendingCause : EntryState → Option Cause
  | .queued _ (.awaited c) => c
  | _ => none

/-- The order number a BID names. -/
def Payload.bidOrder : Payload → Option OrderNo
  | .bid o _ => some o
  | _ => none

/-- A HELD for an order is offered, unless one is queued; if it is refused it is dropped (R14, R29). -/
def State.sendHeld (s : State) (e : Entry) : State :=
  if e.heldQueued || s.heldQueuedInTx e.order then s
  else
    match s.offerUrgent 0 (.held e.order) with
    | some t => t.modEntry e.order fun e => { e with heldQueued := true }
    | none => s

/-! ### Own releases (R33) -/

/-- A release count raised by 1 to at most 3. -/
def countUp (c : BitVec 2) : BitVec 2 := if c = 3 then 3 else c + 1

/-- The changes of an own release to an entry, which joins the owed list; a list that gains its first entry is
offered (R33, R34). -/
def State.ownRelease (s : State) (e : Entry) (why : Reason) : State :=
  let s := s.modEntry e.order fun e =>
    { e with state := .unbid, excluded := true, releaseCount := countUp e.releaseCount, owed := some why }
  let first := s.book.owed.isEmpty
  let s := { s with book := { s.book with owed := s.book.owed.filter (· != e.order) ++ [e.order] } }
  if first then s.bookOffer 17 else s

/-! ### Title void (R38) -/

/-- The orders whose BID can no longer be served: QUEUED on the COPY path for the title and edition. -/
def State.voidedBids (s : State) (w : Work) : List OrderNo :=
  s.book.entries.filterMap fun e =>
    if e.work = w ∧ (e.state.pledge?.map (·.path)) = some .copy then some e.order else none

/-- The Order Book takes a title void (R38). -/
def State.titleVoid (s : State) (w : Work) : State := (s.voidedBids w).foldl (fun s o => s.withdrawBid o .void) s

/-! ### Aging and eviction (R20, R39) -/

/-- An entry that a day advance to `d` removes (R39). -/
def Entry.aged (e : Entry) (d : Day) : Bool :=
  e.owed.isNone &&
    match e.state with
    | .takenOther _ => decide (e.bookedDay.toNat + 5 ≤ d.toNat)
    | .unbid => decide (e.bookedDay.toNat + 14 ≤ d.toNat)
    | _ => false

def State.age (s : State) (d : Day) : State :=
  { s with book := { s.book with entries := s.book.entries.filter fun e => !e.aged d } }

/-- The entry that eviction removes: the oldest in TAKEN(other), else the oldest in UNBID, none that owes a RELEASE
(R20). -/
def Book.evictee (b : Book) : Option Entry :=
  (b.entries.find? fun e => e.owed.isNone && match e.state with
    | .takenOther _ => true
    | _ => false).or
    (b.entries.find? fun e => e.owed.isNone && e.state == .unbid)

/-- Room for a new entry, after an eviction where the book is full; none where no entry can be evicted (R20). -/
def State.bookRoom (s : State) : Option State :=
  if s.book.entries.length < 96 then some s else s.book.evictee.map fun e => s.dropEntry e.order

end Sys2Proof.Machine
end

