-- ==== Sys2Proof/Machine/Copying.lean ====
section
/-! DEFINITION. The Copy Engine's shared operations: the Store Arbiter (R100, R101), freeing and handing over gang
buffers (R99), gangs and their block cycle (R97, R98, R102 to R104), leaving a gang, aborts (R109), cleaning (R111)
and the erase steps that cleaning and returns share (R111, R144). -/

namespace Sys2Proof.Machine

/-! ### The Store Arbiter (R100, R101) -/

/-- The buffers in cyclic order from the one that follows the pointer. -/
def rotation (p : Fin 4) : List (Fin 4) := [p + 1, p + 2, p + 3, p]

/-- When the store is free and a request is pending, the first one in rotation is granted (R100). -/
def State.grant (s : State) : State :=
  if s.copy.current.isSome then s
  else
    match (rotation s.copy.pointer).findSome? fun b => (s.buffer b).request.map (b, ·) with
    | none => s
    | some (b, r) =>
      let s := s.setBuffer b { s.buffer b with request := none }
      { s with copy := { s.copy with current := some (b, r), pointer := b } }

/-- A buffer's owner asks for a block operation; it is granted at once when the store is free (R100). -/
def State.requestBlock (s : State) (b : Fin 4) (r : StoreReq) : State :=
  (s.setBuffer b { s.buffer b with request := some r }).grant

/-- A buffer is freed: a pending request is withdrawn, and a buffer whose operation is in progress is freed when that
operation ends (R99, R101). -/
def State.freeBuffer (s : State) (b : Fin 4) : State :=
  if (s.copy.current.map (·.1)) = some b then s.setBuffer b { s.buffer b with owner := .draining, request := none }
  else s.setBuffer b ⟨.free, [], none⟩

/-! ### Gangs -/

def State.gang? (s : State) (g : Nat) : Option Gang := s.copy.gangs.find? fun x => x.id == g

def State.modGang (s : State) (g : Nat) (f : Gang → Gang) : State :=
  { s with copy := { s.copy with gangs := s.copy.gangs.map fun x => if x.id = g then f x else x } }

/-- A gang's block read of its current block (R102). -/
def State.requestRead (s : State) (g : Gang) (b : Fin 4) : State :=
  s.requestBlock b (.read g.work g.start (g.start + g.index - 1))

/-- A member's progress, in COPYING. -/
def State.putProgress (s : State) (n : Idx8) (m : Member) (p : Progress) : State :=
  s.putSock n (.copying { m with progress := p })

/-- The current block of a gang's buffer: page `k` of it (R104). -/
def pageOf (data : List Byte) (k : Nat) : List Byte := slice data (256 * k) 256

/-- A member asks for the 256 bytes of page `k` of block `i` to be programmed (R104). -/
def State.startPage (s : State) (n : Idx8) (i : Nat) (data : List Byte) (k : Nat) : State :=
  s.startGuarded n (.page (i * 65536 + 256 * k) (pageOf data k) .other)

/-- The data of the buffer a gang holds. -/
def State.gangData (s : State) (g : Gang) : List Byte :=
  match g.buffer with
  | some b => (s.buffer b).data
  | none => []

/-- A member starts the work on its gang's block: a block clear where its clean-needed flag is set, or where the work
is repeated, and else the first page (R104). -/
def State.startWork (s : State) (n : Idx8) (m : Member) (g : Gang) (again : Bool) : State :=
  if m.job.cleanNeeded || again then
    (s.putProgress n m (.working .clearing again)).startGuarded n (.blockClear g.index)
  else (s.putProgress n m (.working (.page 0) again)).startPage n g.index (s.gangData g) 0

/-- The image check of the directory entry, VALID or VOID (R108). -/
def State.imageCheck (s : State) (w : Work) : BitVec 32 := ((s.dir? w).map (·.check)).getD 0

/-- A member begins finishing: its content record is written (R108). -/
def State.startFinishing (s : State) (n : Idx8) (m : Member) : State :=
  (s.putSock n (.finishing { m with progress := .finishing false })).startGuarded n
    (contentWrite m.job.work m.job.len (s.imageCheck m.job.work) s.station s.tables.day)

/-- Step 3 and step 4 of R102: when every remaining member has finished block i, the gang goes on to the next block,
or after block L its members finish and its buffer is freed. -/
def State.gangAdvance (s : State) (id : Nat) : State :=
  match s.gang? id with
  | none => s
  | some g =>
    match g.buffer with
    | none => s
    | some b =>
      let ms := s.membersOf id
      if g.loaded && ms.all (fun p => p.2.progress == .finished) then
        if g.index < g.len then
          let g' := { g with index := g.index + 1, loaded := false, done := g.index }
          let s := s.modGang id fun _ => g'
          let s := ms.foldl (fun s p => s.putProgress p.1 p.2 .waiting) s
          s.requestRead g' b
        else
          let s := s.modGang id fun g => { g with done := g.len, buffer := none }
          let s := ms.foldl (fun s p => s.startFinishing p.1 p.2) s
          s.freeBuffer b
      else s

/-- A member has left its gang: a gang left with no members ends and frees its buffer, and the others go on if the
member was the last that had not finished the block (R98, R102). -/
def State.leaveGang (s : State) (id : Nat) : State :=
  if (s.membersOf id).isEmpty then
    let buffer := (s.gang? id).bind (·.buffer)
    let s := { s with copy := { s.copy with gangs := s.copy.gangs.filter fun x => x.id != id } }
    match buffer with
    | some b => s.freeBuffer b
    | none => s
  else s.gangAdvance id

/-- A member whose preparation ended starts block 1 if the buffer holds it, and else waits (R103). -/
def State.memberPrepared (s : State) (n : Idx8) (m : Member) : State :=
  match s.gang? m.gang with
  | none => s
  | some g => if g.loaded then s.startWork n m g false else s.putProgress n m .waiting

/-- A member has finished its gang's block (R102, R104). -/
def State.memberFinished (s : State) (n : Idx8) (m : Member) : State :=
  (s.putProgress n m .finished).gangAdvance m.gang

/-- A guarded operation of a member's block work has succeeded: the next page, or the read back (R104). -/
def State.workNext (s : State) (n : Idx8) (m : Member) (step : WorkStep) (again : Bool) : State :=
  match s.gang? m.gang with
  | none => s
  | some g =>
    match step with
    | .clearing =>
      (s.putProgress n m (.working (.page 0) again)).startPage n g.index (s.gangData g) 0
    | .page k =>
      if k < 255 then
        (s.putProgress n m (.working (.page (k + 1)) again)).startPage n g.index (s.gangData g) (k + 1)
      else (s.putProgress n m (.working .reading again)).startBlockRead n g.index
    | .reading => s

/-! ### Dispatch (R97, R98) -/

/-- The jobs that join a gang, each with its socket, from the front of the queue: for the same title and edition, while
a further fitting blank exists and the gang has fewer than 8 members; and the jobs that stay (R98). -/
def State.gather (s : State) (w : Work) : List Job → List Idx8 → Nat → List (Idx8 × Job) × List Job
  | [], _, _ => ([], [])
  | j :: js, avail, k =>
    if j.work = w ∧ k < 8 then
      match s.chooseBlank j.len avail with
      | some n =>
        let r := s.gather w js (avail.filter (· != n)) (k + 1)
        ((n, j) :: r.1, r.2)
      | none => ([], j :: js)
    else ([], j :: js)

/-- A report of the Copy Engine to the register moves a cartridge part of the path and status named to another status;
any other is ignored (R57). -/
def State.cartReport (s : State) (n : LoanNo) (path : CartPath) (before after : CartStatus) : State :=
  s.modLoan n fun l =>
    match l.cart with
    | some c => if c.path = path ∧ c.status = before then { l with cart := some { c with status := after } } else l
    | none => l

/-- A socket takes its job in the dispatch event and starts its preparation: it spends the blank marker of a clean
blank, or clears sector 1 of a dirty one (R98, R103). -/
def State.takeJob (s : State) (g : Nat) (n : Idx8) (j : Job) : State :=
  let dirty := (s.socket n).state == .blank false
  let s := s.putSock n (.copying ⟨g, { j with cleanNeeded := dirty }, .preparing⟩)
  let s := s.cartReport j.loan .copy .queued .copying
  s.startGuarded n (if dirty then .sectorClear 1 else markerWrite 0)

/-- The dispatch test on the head job: with a fitting blank and a free buffer, a gang forms around it (R97, R98); none
where the head waits or the queue is empty. -/
def State.dispatchHead (s : State) : Option State :=
  match s.copy.queue with
  | [] => none
  | j :: _ =>
    match s.chooseBlank j.len allSockets, s.freeBuffer? with
    | some _, some b =>
      let r := s.gather j.work s.copy.queue allSockets 0
      let g : Gang := ⟨s.copy.nextGang, j.work, j.start, j.len, some b, 1, false, 0⟩
      let s := s.setBuffer b ⟨.gang g.id, [], none⟩
      let s := { s with
        copy := { s.copy with queue := r.2, gangs := s.copy.gangs ++ [g], nextGang := s.copy.nextGang + 1 } }
      let s := r.1.foldl (fun s p => s.takeJob g.id p.1 p.2) s
      some (s.requestRead g b)
    | _, _ => none

/-- The dispatch test is taken again after each dispatch, until the head fails a condition (R97). -/
def State.dispatchAll (s : State) : Nat → State
  | 0 => s
  | fuel + 1 =>
    match s.dispatchHead with
    | some t => t.dispatchAll fuel
    | none => s

/-! ### Erasing (R111, R144) -/

/-- The step of an erase over blocks 1 to `last` that follows a completed one; none when the marker is written. -/
def EraseStep.next (last : Nat) : EraseStep → Option EraseStep
  | .sector => if 1 ≤ last then some (.block 1) else some .marker
  | .block b => if b < last then some (.block (b + 1)) else some .marker
  | .marker => none

/-- The guarded operation of an erase step: sector 1 is cleared first, the image blocks next, and the blank marker
programmed last (R79, R111, R144). -/
def EraseStep.operation : EraseStep → Guarded
  | .sector => .sectorClear 1
  | .block b => .blockClear b
  | .marker => markerWrite 165

/-- The last block of the cartridge a socket holds. -/
def State.lastBlock (s : State) (n : Idx8) : Nat :=
  match (s.socket n).view with
  | some v => v.capacity.blocks - 1
  | none => 0

/-- A COPY-role dirty blank goes to CLEANING (R111). -/
def State.startCleaning (s : State) (n : Idx8) : State :=
  (s.putSock n (.cleaning .sector)).startGuarded n (EraseStep.operation .sector)

/-- While the job queue is empty, each COPY-role socket in BLANK(dirty) cleans (R111). -/
def State.cleanTest (s : State) : State :=
  if s.copy.queue.isEmpty then
    allSockets.foldl
      (fun s n => if s.role n == .copy && (s.socket n).state == .blank false then s.startCleaning n else s) s
  else s

/-! ### Ingest buffers (R99, R122) -/

/-- An ingest takes a buffer and starts its next READ (R122). -/
def State.ingestTakes (s : State) (n : Idx8) (i : Ingest) (b : Fin 4) : State :=
  let s := s.setBuffer b ⟨.ingest n, [], none⟩
  let s := s.putSock n (.ingesting { i with buffer := some b })
  s.startBlockRead n i.index

/-- A free buffer goes to the first ingest on the wait list (R99).  DESIGN CHOICE: of several buffers that one event has
freed, in an order R99 does not give, the first ingest takes the lowest-numbered (log entry 32). -/
def State.serveIngest (s : State) : Nat → State
  | 0 => s
  | fuel + 1 =>
    match s.copy.ingestWait, s.freeBuffer? with
    | n :: ns, some b =>
      let s := { s with copy := { s.copy with ingestWait := ns } }
      match (s.socket n).state with
      | .ingesting i => (s.ingestTakes n i b).serveIngest fuel
      | _ => s.serveIngest fuel
    | _, _ => s

/-! ### Aborts (R109) -/

/-- The socket leaves ABORTING: a cartridge that now holds an open slot naming this station is closed as a stale own
tag, and any other is a dirty blank (R109). -/
def State.leaveAborting (s : State) (n : Idx8) : State :=
  match s.openSlotAt n with
  | some k =>
    if s.isOwnByte (((s.socket n).view.map fun v => slotIssuer (v.slot k)).getD 0) then s.closeFirst n k
    else s.modSocket n fun x => { x with state := .blank false, op := none, hold := none }
  | none => s.modSocket n fun x => { x with state := .blank false, op := none, hold := none }

/-- A member is aborted: it leaves its gang, its job is discarded, and its socket leaves ABORTING when the operation in
progress has ended, or at once (R109). -/
def State.abortMember (s : State) (n : Idx8) (m : Member) : State :=
  let s := (s.putSock n .aborting).leaveGang m.gang
  if (s.socket n).op.isSome then s else s.leaveAborting n

/-- The socket and member that hold a loan's job. -/
def State.memberOfLoan? (s : State) (n : LoanNo) : Option (Idx8 × Member) :=
  s.members.find? fun p => p.2.job.loan == n

end Sys2Proof.Machine
end

