-- ==== Sys2Proof/Machine/Register.lean ====
section
/-! DEFINITION. The Loan Register's shared operations: the readiness test (R58), the withdrawal procedure (R64, R65),
releases (R33, R68), job creation and the copy fallback (R69, R95), a cartridge lost before shipment (R71), a
cartridge return (R66), the copy failures (R68, R105, R106, R114) and the creation of a loan at a win (R53, R55, R56). -/

namespace Sys2Proof.Machine

/-- The readiness test: a CLAIMED loan whose every part is ready goes to READY (R58). -/
def State.readinessTest (s : State) (n : LoanNo) : State :=
  s.modLoan n fun l => if l.state = .claimed ∧ l.allReady = true then { l with state := .ready } else l

/-! ### Withdrawal (R64, R65) -/

/-- What a withdrawal leaves out of R65, because the unit that caused it has already dealt with the part. -/
structure Skip where
  cart    : Bool
  braille : Bool
  deriving DecidableEq, Repr

/-- The socket in DONE that holds a serial (R65, R110). -/
def State.doneSocket? (s : State) (x : Serial) : Option Idx8 :=
  allSockets.find? fun n =>
    match (s.socket n).state with
    | .done _ => s.serialAt n == x
    | _ => false

/-- The socket in TAGGING for a loan (R115). -/
def State.taggingSocket? (s : State) (n : LoanNo) : Option Idx8 :=
  allSockets.find? fun k =>
    match (s.socket k).state with
    | .tagging l _ => l == n
    | _ => false

/-- A job leaves the queue wherever it stands (R65, R96). -/
def State.dropJob (s : State) (n : LoanNo) : State :=
  { s with copy := { s.copy with queue := s.copy.queue.filter fun j => j.loan != n } }

/-- The cartridge rows of R65. -/
def State.unwindCart (s : State) (n : LoanNo) (c : CartPart) : State :=
  match c.path, c.status with
  | .copy, .queued => s.dropJob n
  | .copy, .copying =>
    match s.memberOfLoan? n with
    | some (k, m) => s.abortMember k m
    | none => s
  | .reissue, .queued => s.freeIssuing n
  | .reissue, .copying =>
    let s := s.dropIssuing n
    match s.taggingSocket? n with
    | some k => s.putSock k (.tagging n true)
    | none => s
  | _, .ready x =>
    match s.doneSocket? x with
    | some k =>
      match s.openSlotAt k with
      | some slot => s.closeFirst k slot
      | none => s.modSocket k fun y => { y with state := .checking ⟨.noLoan, none, none, .closing⟩, op := some .refused }
    | none => s.raise (.reinsert x n)
  | _, .back => s

/-- The braille rows of R65; the reshelving is a braille gain. -/
def State.unwindBraille (s : State) (b : BraillePart) : State :=
  match b.status with
  | .pledged => s.modSet b.set SetRec.unpledge
  | .picked => ((s.modSet b.set SetRec.reshelve).raise (.reshelve b.set)).brailleGain b.set
  | .back => s

/-- The per-part actions of R65 in table order, and the record's removal. -/
def State.unwind (s : State) (l : Loan) (skip : Skip) : State :=
  let s := if l.state = .packed then s.removeFromTray l else s
  let s := match l.cart with
    | some c => if skip.cart then s else s.unwindCart l.number c
    | none => s
  let s := match l.braille with
    | some b => if skip.braille then s else s.unwindBraille b
    | none => s
  s.dropLoan l.number

/-- Whether a withdrawal of a loan is taken (R64). -/
def State.withdrawable (s : State) (l : Loan) : Bool :=
  l.state == .claimed || l.state == .ready || (l.state == .packed && !s.dispatching l)

/-- A withdrawal for CANCEL or YIELD: the state after, and whether it was taken; a loan with no record is answered
taken, with nothing to unwind (R36, R64). -/
def State.withdraw (s : State) (n : LoanNo) : State × Bool :=
  match s.loan? n with
  | none => (s, true)
  | some l => if s.withdrawable l then (s.unwind l ⟨false, false⟩, true) else (s, false)

/-- A withdrawal for RELEASE: the loan is unwound and the Order Book takes an own release of the entry that was
TAKEN(self) for it (R33, R64). -/
def State.release (s : State) (n : LoanNo) (why : Reason) (skip : Skip) : State :=
  match s.loan? n with
  | none => s
  | some l =>
    if s.withdrawable l then
      let t := s.unwind l skip
      match t.entryOfLoan? n with
      | some e => t.ownRelease e why
      | none => t
    else s

/-! ### Copy jobs for the register (R68, R69, R95) -/

/-- A title-void failure for a loan: taken for a cartridge part on the COPY path in QUEUED or COPYING, whose job is
already gone, and ignored otherwise (R68). -/
def State.titleVoidFailure (s : State) (n : LoanNo) : State :=
  match (s.loan? n).bind (·.cart) with
  | some ⟨.copy, .queued, _⟩ => s.release n .titleVoid ⟨true, false⟩
  | some ⟨.copy, .copying, _⟩ => s.release n .titleVoid ⟨true, false⟩
  | _ => s

/-- A job is created at the tail of the queue when the directory entry is VALID, and else the loan has a title-void
failure (R95). -/
def State.createJob (s : State) (n : LoanNo) (w : Work) (blockMs estimate : Nat) : State :=
  match s.dir? w with
  | some ⟨_, start, len, _, .valid⟩ =>
    { s with copy := { s.copy with queue := s.copy.queue ++ [⟨n, w, start, len, blockMs, estimate, false⟩] } }
  | _ => s.titleVoidFailure n

/-- A running job rejoins the front of the queue with its clean-needed flag cleared (R96). -/
def State.requeueJob (s : State) (j : Job) : State :=
  { s with copy := { s.copy with queue := { j with cleanNeeded := false } :: s.copy.queue } }

/-- The fallback of R69: a copy job where the title is VALID and the copy work allows it, and else a release with
reason STOCK-MISSING, whose cartridge row is passed over. -/
def State.fallback (s : State) (l : Loan) : State :=
  match s.validLen l.work with
  | some len =>
    if s.copyLoad ≤ 23 then
      let s := s.modLoan l.number fun l =>
        { l with cart := l.cart.map fun c => { c with path := .copy, status := .queued } }
      s.createJob l.number l.work (s.plainEstimate len).1 (s.plainEstimate len).2
    else s.release l.number .stockMissing ⟨true, false⟩
  | none => s.release l.number .stockMissing ⟨true, false⟩

/-- A cartridge fault of a loan's copy (R68, R105): the first requeues the job at the front, the second releases the
loan, and a report for any other loan is ignored; a job not requeued is discarded. -/
def State.cartFault (s : State) (j : Job) : State :=
  match s.loan? j.loan with
  | none => s
  | some l =>
    match l.cart with
    | some ⟨.copy, .copying, a⟩ =>
      if a = 0 then
        (s.modLoan l.number fun l => { l with cart := some ⟨.copy, .queued, 1⟩ }).requeueJob j
      else s.release l.number .copyFailed ⟨true, false⟩
    | _ => s

/-- A tagging fault of a loan takes the fallback of R69, and does not count as a copy attempt (R69, R114). -/
def State.taggingFault (s : State) (n : LoanNo) : State :=
  match s.loan? n with
  | none => s
  | some l =>
    match l.cart with
    | some ⟨.reissue, .copying, _⟩ => s.fallback l
    | _ => s

/-! ### A cartridge lost before shipment (R71) -/

/-- The register takes the report of a stale own tag: a loan in READY or PACKED whose cartridge this is returns to
CLAIMED, leaving its tray, and its cartridge part is served again; any other report is ignored (R71). -/
def State.cartridgeLost (s : State) (n : LoanNo) (x : Serial) : State :=
  match s.loan? n with
  | none => s
  | some l =>
    match l.cart with
    | some ⟨p, .ready y, a⟩ =>
      if x = y ∧ (l.state = .ready ∨ l.state = .packed) then
        let s := if l.state = .packed then s.removeFromTray l else s
        let s := s.modLoan n fun l => { l with state := .claimed, cart := some ⟨p, .queued, a⟩ }
        match s.loan? n with
        | some l => s.fallback l
        | none => s
      else s
    | _ => s

/-! ### Returns (R66, R67) -/

/-- The recovery-notice changes of a part that comes back to a LOST loan; a RECOVERED that becomes owed requests a day
scan (R66). -/
def State.recoveryNotice (s : State) (l : Loan) : State :=
  if l.state = .lost ∧ l.recovery = .none then
    if l.lostSent then (s.modLoan l.number fun l => { l with recovery := .owed }).requestScan
    else s.modLoan l.number fun l => { l with recovery := .done }
  else s

/-- The cartridge part of a return that applies: READY with the serial returned (R66). -/
def CartPart.returns (c : CartPart) (x : Serial) : Bool := c.status == .ready x

/-- The register takes a cartridge return (R66). -/
def State.cartReturn (s : State) (n : LoanNo) (x : Serial) : State :=
  match s.loan? n with
  | none => s
  | some l =>
    if l.out && (l.cart.map (·.returns x)).getD false then
      let s := s.modLoan n fun l => { l with cart := l.cart.map fun c => { c with status := .back } }
      (s.recoveryNotice l).closeTest n
    else s

/-! ### A win (R53, R55, R56) -/

/-- The sequence number after one, wrapping from 262,143 to 1. -/
def seqAfter (q : LoanSeq) : LoanSeq := if q = 262143 then 1 else q + 1

/-- The first sequence number from `q` on, of the `fuel` looked at, whose loan number no record holds (R53). -/
def State.freeSeq (s : State) : Nat → LoanSeq → LoanSeq
  | 0, q => q
  | fuel + 1, q => if (s.loan? (makeNumber s.station q)).isSome then s.freeSeq fuel (seqAfter q) else q

/-- The mail units of an order: 1 for a cartridge part and 2 for each volume of a braille part (R52, R152). -/
def State.mailUnitsOf (s : State) (w : Work) (fmt : Format) : Nat :=
  (if fmt.hasCartridge then 1 else 0) +
    if fmt.hasBraille then 2 * ((s.set? w).map (·.volumes)).getD 0 else 0

/-- The cartridge part's path at a win. -/
def Path.cartPath : Path → CartPath
  | .reissue => .reissue
  | _ => .copy

/-- The record of a win (R55). -/
def State.wonLoan (s : State) (e : Entry) (p : Pledge) (n : LoanNo) : Loan where
  number      := n
  order       := e.order
  patron      := e.patron
  work        := e.work
  format      := e.format
  zone        := e.zone
  urgent      := e.urgent
  claimDay    := s.tables.day
  state       := .claimed
  cart        := if e.format.hasCartridge then some ⟨p.path.cartPath, .queued, 0⟩ else none
  braille     := if e.format.hasBraille then some ⟨e.work, .pledged⟩ else none
  mailUnits   := s.mailUnitsOf e.work e.format
  container   := none
  tray        := none
  dispatchDay := none
  dueDay      := none
  overdueSent := false
  lostSent    := false
  recovery    := .none

/-- The register starts the cartridge part of a won loan with its owner (R56). -/
def State.startCart (s : State) (e : Entry) (p : Pledge) (n : LoanNo) : State :=
  match p.path with
  | .copy => s.createJob n e.work p.blockMs p.baseTime
  | .reissue =>
    match p.serial with
    | some x => (s.stockState x (.issuing n)).raise (.fetch n x ((s.stock? x).bind (·.shelf)))
    | none => s
  | .brailleOnly => s

/-- A PICK-SET notice for the braille part of a won loan, while the register holds the loan (R56). -/
def State.startBraille (s : State) (e : Entry) (n : LoanNo) : State :=
  if e.format.hasBraille && (s.loan? n).isSome then
    s.raise (.pickSet n e.work (((s.set? e.work).map (·.volumes)).getD 0))
  else s

/-- The win: the register creates the loan, the entry goes to TAKEN(self) naming it, and the register starts each part
(R26, R53, R55, R56). -/
def State.win (s : State) (e : Entry) (p : Pledge) : State :=
  let q := s.freeSeq 32769 s.tables.loanSeq
  let n := makeNumber s.station q
  let s := s.addLoan (s.wonLoan e p n)
  let s := { s with tables := { s.tables with loanSeq := seqAfter q } }
  let s := s.setEntryState e.order (.takenSelf n)
  (s.startCart e p n).startBraille e n

end Sys2Proof.Machine
end

