-- ==== Sys2Proof/Machine/ReturnsUnit.lean ====
section
/-! DEFINITION. The Returns Unit's shared operations: the disposition, verify, keep, erase and retire (R140 to R145),
the back mark's end (R138, R139), the entry into CHECKING (R136, R137) and the late-close test (R147). -/

namespace Sys2Proof.Machine

/-- The loan whose outbox entry a check fills: a foreign return's (R135). -/
def Check.outboxLoan (c : Check) : Option LoanNo := if c.mode = .foreignReturn then c.loan else none

/-- A foreign return's outbox entry takes a condition (R146). -/
def State.condition (s : State) (c : Check) (x : Condition) (held : Bool) : State :=
  match c.outboxLoan with
  | some l => s.setCondition l x held
  | none => s

/-- The erase of a checked cartridge over blocks 1 to `last` begins (R144). -/
def State.startErase (s : State) (n : Idx8) (c : Check) (last : Nat) : State :=
  let s := (s.putSock n (.erasing c last .sector)).startGuarded n (EraseStep.operation .sector)
  s.condition c .erased true

/-- The READ of block `i` of the verify (R141). -/
def State.startVerify (s : State) (n : Idx8) (c : Check) (i : Nat) (acc : BitVec 32) : State :=
  (s.putSock n (.checking { c with phase := .verify i acc })).startBlockRead n i

/-- The retire of a worn cartridge (R145). -/
def State.retire (s : State) (n : Idx8) (c : Check) : State := (s.rejectSocket n .worn).condition c .retired false

/-- The disposition of a checked cartridge (R140). -/
def State.dispose (s : State) (n : Idx8) (c : Check) : State :=
  match (s.socket n).view with
  | none => s
  | some v =>
    if v.worn then s.retire n c
    else if v.contentPresent then s.startVerify n c 1 imagePreset
    else s.startErase n c (s.lastBlock n)

/-- The keep condition of a verified cartridge (R142). -/
def State.keepWanted (s : State) (w : Work) : Bool :=
  decide (s.tables.stock.length < 256) &&
    (decide ((s.tables.stock.filter fun r => r.work == w).length < s.cfg.keepLimit) ||
      s.book.entries.any fun e =>
        e.work == w && e.format.hasCartridge && match e.state with
          | .window _ => true
          | .unbid => true
          | _ => false)

/-- The ready-stock record of a kept cartridge (R128, R143).  The spec knows a keep only for a serial that has no record;
where the table holds one, no second is made (R127): the record takes the content record's title and edition and the used
count, and keeps its state and its shelf code (DESIGN CHOICE, log entry 27).  A content record that names title 0 is taken like
any other (DESIGN CHOICE, log entry 35). -/
def State.keepRecord (s : State) (v : View) : State :=
  if (s.stock? v.serial).isSome then s.modStock v.serial fun r => { r with work := v.work, used := v.used }
  else { s with tables := { s.tables with stock := s.tables.stock ++ [⟨v.serial, v.work, v.used, .free, none⟩] } }

/-- A verified cartridge is made into ready stock (R143).  A serial that already has a record, in any state, gets no
second one (`State.keepRecord`), and the keep still reports the cartridge gain of R133, whose table gives it to a record
created by a keep, and raises the KEPT notice (both DESIGN CHOICE, log entry 27). -/
def State.keep (s : State) (n : Idx8) (c : Check) (v : View) : State :=
  let s := s.modSocket n fun k => { k with state := .kept c, op := none }
  let s := s.keepRecord v
  let s := (s.cartridgeGain v.work).raise (.kept n v.serial v.work v.used)
  s.condition c .kept false

/-- The last block of the erase after a verify that matched: L where the marker is spent, and the end of capacity where it
is unprogrammed (R144).  The table of R144 has no row for a marker set beside a content present: there the erase runs to the
end of capacity (DESIGN CHOICE, log entry 28). -/
def View.shortRange (v : View) : Nat := if v.marker = .spent then v.len else v.capacity.blocks - 1

/-- The end of the verify (R141): the image is whole and kept or erased, or unreliable and erased. -/
def State.verifyEnd (s : State) (n : Idx8) (c : Check) (v : View) (acc : BitVec 32) : State :=
  if imageFinish acc = v.check then
    if s.keepWanted v.work then s.keep n c v else s.startErase n c v.shortRange
  else s.startErase n c (v.capacity.blocks - 1)

/-- A READ of the verify has ended with its bytes (R141). -/
def State.verifyRead (s : State) (n : Idx8) (c : Check) (i : Nat) (acc : BitVec 32) (bytes : List Byte) : State :=
  match (s.socket n).view with
  | none => s
  | some v =>
    let acc := imageAdd acc bytes
    if i < v.len then s.startVerify n c (i + 1) acc else s.verifyEnd n c v acc

/-- The return of an own loan is handed to the register (R138). -/
def State.handOver (s : State) (n : Idx8) (c : Check) : State :=
  match c.mode, c.loan with
  | .ownReturn, some l => s.cartReturn l (s.serialAt n)
  | _, _ => s

/-- The close of the slot has succeeded: an own return is handed over, and the disposition follows (R89, R138). -/
def State.slotClosed (s : State) (n : Idx8) (c : Check) : State := (s.handOver n c).dispose n c

/-- The close of the slot has failed (R89, R139). -/
def State.slotCloseFailed (s : State) (n : Idx8) (c : Check) : State :=
  let x := s.serialAt n
  let s := (s.faultSocket n).handOver n c
  (s.quarantineSerial x).condition c .quarantined false

/-- The erase has ended with its marker written (R145). -/
def State.eraseDone (s : State) (n : Idx8) (c : Check) : State :=
  let s := s.modSocket n fun k => { k with state := .blank true, op := none }
  let s := s.raise (.erased n (s.serialAt n))
  s.condition c .erased false

/-- An operation of the erase has failed (R145). -/
def State.eraseFailed (s : State) (n : Idx8) (c : Check) : State :=
  let x := s.serialAt n
  ((s.faultSocket n).quarantineSerial x).condition c .quarantined false

/-- A socket enters CHECKING for a return with an open slot: an own loan's goes to the back mark, and a foreign one
first takes an outbox place or waits (R136, R137). -/
def State.enterReturn (s : State) (n : Idx8) (k : Nat) (loan : LoanNo) (own : Bool) : State :=
  if own then s.sendBackMark n ⟨.ownReturn, some k, some loan, .closing⟩
  else
    let c : Check := ⟨.foreignReturn, some k, some loan, .waitRoom⟩
    if s.outboxRoom loan then s.sendBackMark n c
    else
      let s := s.modSocket n fun x => { x with state := .checking c, op := none }
      { s with returns := { s.returns with wait := s.returns.wait ++ [n] } }

/-- The highest-numbered closed slot whose issuing station is this station (R147). -/
def State.lateSlot (s : State) (v : View) : Option Nat :=
  (v.slotsWhere fun b => slotClass b == .closed && s.isOwnByte (slotIssuer b)).getLast?

/-- The late-close test: the return of an own loan whose back mark was written before a reset is handed over; the
register applies it only to a loan out with this serial (R66, R147). -/
def State.lateClose (s : State) (v : View) : State :=
  match s.lateSlot v with
  | some k => s.cartReturn (slotLoan (v.slot k)) v.serial
  | none => s

/-- Content present with no open slot: no-loan mode with the late-close test and then the disposition (R88, R147). -/
def State.enterNoLoan (s : State) (n : Idx8) (v : View) : State :=
  let c : Check := ⟨.noLoan, none, none, .closing⟩
  let s := s.modSocket n fun x => { x with state := .checking c, op := none }
  (s.lateClose v).dispose n c

end Sys2Proof.Machine
end

