-- ==== Sys2Proof/Machine/Identify.lean ====
section
/-! DEFINITION. Identification and what it begins: the classification of a cartridge (R88, R89), reissue tagging (R113
to R115) and the start and end of an ingest (R120 to R124). -/

namespace Sys2Proof.Machine

/-! ### Reissue tagging (R113 to R115) -/

/-- The reissue is completed: the ready-stock record is removed, the loan's cartridge part goes to READY with the
serial, and the socket to DONE (R113). -/
def State.reissueDone (s : State) (n : Idx8) (loan : LoanNo) : State :=
  let x := s.serialAt n
  let s := s.dropStock x
  let s := (s.cartReport loan .reissue .copying (.ready x)).readinessTest loan
  (s.modSocket n fun k => { k with state := .done loan, op := none }).raise (.copyReady n loan x)

/-- The latest used slot names the loan, is open and has a good check (R88). -/
def View.alreadyTagged (v : View) (loan : LoanNo) : Bool :=
  match v.latestUsed with
  | some k => slotClass (v.slot k) == .open && slotLoan (v.slot k) == loan
  | none => false

/-- The tag write of a loan into the next free slot; a worn cartridge refuses it (R78). -/
def State.startTag (s : State) (n : Idx8) (loan : LoanNo) : State :=
  match (s.socket n).view.bind (·.nextFree) with
  | some k => s.startGuarded n (tagWrite k loan s.station s.tables.day)
  | none => s.modSocket n fun x => { x with op := some .refused, hold := none }

/-- A socket enters TAGGING for the loan a record in ISSUING names (R113). -/
def State.enterTagging (s : State) (n : Idx8) (v : View) (loan : LoanNo) : State :=
  let s := s.putSock n (.tagging loan false)
  let s := s.cartReport loan .reissue .queued .copying
  if v.alreadyTagged loan then s.reissueDone n loan else s.startTag n loan

/-- The tag's STATE completion: the reissue is completed, or, where a withdrawal has reached the socket, the slot just
written is closed (R113, R115). -/
def State.tagWritten (s : State) (n : Idx8) (loan : LoanNo) (withdrawn : Bool) : State :=
  if withdrawn then
    match (s.socket n).view.bind (·.latestUsed) with
    | some k => s.closeFirst n k
    | none => s
  else s.reissueDone n loan

/-- A tagging fault (R114). -/
def State.tagFailed (s : State) (n : Idx8) (loan : LoanNo) : State :=
  let x := s.serialAt n
  (((s.faultSocket n).quarantineSerial x).dropIssuing loan).taggingFault loan

/-! ### Ingest (R120 to R124) -/

/-- What the Stock Directory answers for a master's content record: a reason not to want it, or the start block of its
extent (R120).  DESIGN CHOICE: a content record that is present and names title 0, out of R119's range, is taken like any
other (log entry 35). -/
def State.ingestWanted (s : State) (v : View) : Except RejectReason Nat :=
  if v.contentPresent = false then .error .badMaster
  else
    match s.dir? v.work with
    | some d =>
      if d.state ≠ .void then .error .masterNotNeeded
      else if 0 < s.users v.work then .error .titleInUse
      else if v.len ≤ d.len then .ok d.start
      else
        match firstFit (s.tables.directory.filter fun x => x.work != v.work) s.start.storeSize v.len with
        | some b => .ok b
        | none => .error .storeFull
    | none =>
      if 512 ≤ s.tables.directory.length then .error .directoryFull
      else
        match firstFit s.tables.directory s.start.storeSize v.len with
        | some b => .ok b
        | none => .error .storeFull

/-- The directory entry of an ingest is set up in LOADING (R121). -/
def State.loadEntry (s : State) (v : View) (start : Nat) : State :=
  let d : DirEntry := ⟨v.work, start, v.len, v.check, .loading⟩
  if (s.dir? v.work).isSome then s.modDir v.work fun _ => d
  else { s with tables := { s.tables with directory := s.tables.directory ++ [d] } }

/-- An ingest starts: its entry is set up, and it takes a free buffer at once or joins the wait list (R99, R121). -/
def State.startIngest (s : State) (n : Idx8) (v : View) (start : Nat) : State :=
  let s := s.loadEntry v start
  let i : Ingest := ⟨v.work, none, 1, imagePreset⟩
  let s := s.modSocket n fun x => { x with state := .ingesting i, op := none }
  match s.freeBuffer? with
  | some b => s.ingestTakes n i b
  | none => { s with copy := { s.copy with ingestWait := s.copy.ingestWait ++ [n] } }

/-- An ingest gives up its buffer and its place on the wait list (R99, R123, R124). -/
def State.leaveIngest (s : State) (n : Idx8) (i : Ingest) : State :=
  let s := { s with copy := { s.copy with ingestWait := s.copy.ingestWait.filter (· != n) } }
  match i.buffer with
  | some b => s.freeBuffer b
  | none => s

/-- An ingest that fails or is aborted: its entry is removed and its extent becomes free (R123, R124). -/
def State.abandonIngest (s : State) (n : Idx8) (i : Ingest) : State := (s.dropDir i.work).leaveIngest n i

/-- The write of block L has ended: the image is whole, or bad (R123). -/
def State.ingestEnd (s : State) (n : Idx8) (i : Ingest) (d : DirEntry) : State :=
  if imageFinish i.acc = d.check then
    let s := s.modDir i.work fun d => { d with state := .valid }
    let s := (s.leaveIngest n i).raise (.ingested i.work d.len)
    (s.cartridgeGain i.work).rejectSocket n .masterNotNeeded
  else (s.abandonIngest n i).rejectSocket n .badMaster

/-- A block write of an ingest has ended (R122, R123). -/
def State.ingestWritten (s : State) (n : Idx8) (i : Ingest) (written : Bool) : State :=
  match written, s.dir? i.work with
  | true, some d =>
    if i.index < d.len then
      (s.putSock n (.ingesting { i with index := i.index + 1 })).startBlockRead n (i.index + 1)
    else s.ingestEnd n i d
  | _, _ => (s.abandonIngest n i).rejectSocket n .badMaster

/-- A READ of an ingest has ended with its bytes: they are added to the accumulator, and the block's write is asked for
(R122). -/
def State.ingestRead (s : State) (n : Idx8) (i : Ingest) (bytes : List Byte) : State :=
  match i.buffer, s.dir? i.work with
  | some b, some d =>
    let s := s.putSock n (.ingesting { i with acc := imageAdd i.acc bytes })
    let s := s.setBuffer b { s.buffer b with data := bytes }
    s.requestBlock b (.write (d.start + i.index - 1))
  | _, _ => s

/-! ### Classification (R88, R89) -/

/-- The serial is that of a cartridge identified in another socket and not yet removed (R88, step 1). -/
def State.seatedElsewhere (s : State) (n : Idx8) (x : Serial) : Bool :=
  allSockets.any fun k => k != n && ((s.socket k).view.map fun v => v.serial == x).getD false

/-- Step 5 of R88: a return of another station's loan or of an own loan that is out, and else a stale own tag, which
is reported to the register and closed (R71, R89). -/
def State.classifyOpen (s : State) (n : Idx8) (v : View) (k : Nat) : State :=
  let loan := slotLoan (v.slot k)
  if s.isOwnByte (slotIssuer (v.slot k)) then
    if s.loanOut loan then s.enterReturn n k loan true
    else (s.cartridgeLost loan v.serial).closeFirst n k
  else s.enterReturn n k loan false

/-- Steps 5 to 10 of R88. -/
def State.classifyRest (s : State) (n : Idx8) (v : View) (r : Option StockRec) : State :=
  match v.openSlot with
  | some k => s.classifyOpen n v k
  | none =>
    if r.isSome then s.putSock n (.kept ⟨.noLoan, none, none, .closing⟩)
    else if v.worn then s.rejectSocket n .worn
    else if v.contentPresent then s.enterNoLoan n v
    else s.putSock n (.blank v.clean)

/-- The classification of an identified cartridge, from step 1's second test on (R88). -/
def State.classify (s : State) (n : Idx8) (v : View) : State :=
  if s.seatedElsewhere n v.serial then s.rejectSocket n .foreign
  else if s.quarantine.contains v.serial then s.rejectSocket n .quarantined
  else if v.kind = .master then
    match s.ingestWanted v with
    | .error why => s.rejectSocket n why
    | .ok start => s.startIngest n v start
  else
    match s.stock? v.serial with
    | some ⟨_, _, _, .issuing loan, _⟩ => s.enterTagging n v loan
    | r => s.classifyRest n v r

/-- The identification reads have ended: the view is built and the cartridge classified; a cartridge whose identity
record is not valid is foreign and shows no serial (R87, R88). -/
def State.identified (s : State) (n : Idx8) (sector0 sector1 : List Byte) : State :=
  match parseIdentity sector0 with
  | none => s.rejectSocket n .foreign
  | some id =>
    let v := View.build id sector0 sector1
    (s.modSocket n fun k => { k with view := some v, op := none }).classify n v

end Sys2Proof.Machine
end

