-- ==== Sys2Proof/Machine/Completion.lean ====
section
/-! DEFINITION. What a socket's owner does with an operation that has succeeded, ended with bytes or failed (R82, R84
and the owners' chapters), and the end of an event: refused requests are taken as failures by their owners, the
dispatch and cleaning tests and the buffer hand-over follow (R97, R99, R111), and record memory takes the changes. -/

namespace Sys2Proof.Machine

/-! ### Finishing (R108) -/

/-- The tag of a finished copy is written: the socket goes to DONE, the member leaves its gang, and the loan's
cartridge part goes to READY (R108). -/
def State.finishDone (s : State) (n : Idx8) (m : Member) : State :=
  let x := s.serialAt n
  let s := (s.modSocket n fun k => { k with state := .done m.job.loan, op := none }).leaveGang m.gang
  let s := (s.cartReport m.job.loan .copy .copying (.ready x)).readinessTest m.job.loan
  s.raise (.copyReady n m.job.loan x)

/-- A write of finishing has succeeded (R108). -/
def State.finishingNext (s : State) (n : Idx8) (m : Member) (tag : Bool) : State :=
  if tag then s.finishDone n m
  else (s.putSock n (.finishing { m with progress := .finishing true })).startTag n m.job.loan

/-! ### A member's cartridge fault (R105) -/

/-- The socket goes to FAULT, the member leaves its gang, the serial is quarantined, and the register takes the fault
(R105). -/
def State.memberFault (s : State) (n : Idx8) (m : Member) : State :=
  let x := s.serialAt n
  let s := (s.faultSocket n).leaveGang m.gang
  (s.quarantineSerial x).cartFault m.job

/-! ### The three ends of an operation -/

/-- A guarded operation has succeeded; the view already shows what it wrote (R82, R86). -/
def State.opSucceeded (s : State) (n : Idx8) : State :=
  match (s.socket n).state with
  | .cleaning step =>
    match step.next (s.lastBlock n) with
    | some next => (s.putSock n (.cleaning next)).startGuarded n next.operation
    | none => s.putSock n (.blank true)
  | .copying m =>
    match m.progress with
    | .preparing => s.memberPrepared n m
    | .working step again => s.workNext n m step again
    | _ => s
  | .finishing m =>
    match m.progress with
    | .finishing tag => s.finishingNext n m tag
    | _ => s
  | .aborting => s.leaveAborting n
  | .tagging loan withdrawn => s.tagWritten n loan withdrawn
  | .checking c => s.slotClosed n c
  | .erasing c last step =>
    match step.next last with
    | some next => (s.putSock n (.erasing c last next)).startGuarded n next.operation
    | none => s.eraseDone n c
  | _ => s

/-- A READ has ended with its bytes (R80): identification (R87), the compare of R104, an ingest (R122) or a verify
(R141). -/
def State.readEnded (s : State) (n : Idx8) (bytes : List Byte) : State :=
  match (s.socket n).state with
  | .identifying none =>
    s.modSocket n fun k => { k with state := .identifying (some bytes), op := some (.read 4096 4096) }
  | .identifying (some sector0) => s.identified n sector0 bytes
  | .copying m =>
    match m.progress, s.gang? m.gang with
    | .working .reading again, some g =>
      if bytes = s.gangData g then s.memberFinished n m
      else if again then s.memberFault n m
      else s.startWork n m g true
    | _, _ => s
  | .aborting => s.leaveAborting n
  | .ingesting i => s.ingestRead n i bytes
  | .checking c =>
    match c.phase with
    | .verify i acc => s.verifyRead n c i acc bytes
    | _ => s
  | _ => s

/-- An operation has failed (R82) and its owner takes the failure. -/
def State.opFailed (s : State) (n : Idx8) : State :=
  match (s.socket n).state with
  | .identifying _ => s.faultSocket n
  | .cleaning _ => s.faultSocket n
  | .copying m => s.memberFault n m
  | .finishing m => s.memberFault n m
  | .aborting => s.leaveAborting n
  | .tagging loan _ => s.tagFailed n loan
  | .ingesting i => (s.abandonIngest n i).faultSocket n
  | .checking c =>
    match c.phase with
    | .verify _ _ => s.startErase n c (s.lastBlock n)
    | _ => s.slotCloseFailed n c
  | .erasing c _ _ => s.eraseFailed n c
  | _ => s

/-- The operation in progress is over. -/
def State.clearOp (s : State) (n : Idx8) : State := s.modSocket n fun k => { k with op := none, hold := none }

/-! ### The end of an event -/

/-- Each request refused in this event is taken as a failure by its owner (R78, R80, R83). -/
def State.drainRefused (s : State) : State :=
  allSockets.foldl
    (fun s n => if (s.socket n).op = some .refused then (s.clearOp n).opFailed n else s) s

/-- The dispatch test, then the cleaning test, then the free buffers to the waiting ingests (R97, R99, R111). -/
def State.tests (s : State) : State := ((s.dispatchAll 33).cleanTest).serveIngest 9

/-- Whether a request was refused in this event. -/
def State.anyRefused (s : State) : Bool := allSockets.any fun n => (s.socket n).op == some .refused

/-- The tests that end an event, taken again while an owner has had a refused request to deal with. -/
def State.settle (s : State) : Nat → State
  | 0 => s
  | fuel + 1 =>
    let t := (if s.anyRefused then s.drainRefused else s).tests
    if t.anyRefused then t.settle fuel else t

/-- The end of an event: its tests, and the record memory write.  The write comes last, so that the CONFIG-INVALID notice
of a failed one joins behind the notices of the event and of its tests (DESIGN CHOICE, log entry 37). -/
def finish (w : RecordWrite) (s : State) : State := commit w (s.settle 40)

end Sys2Proof.Machine
end

