-- ==== Sys2Proof/Machine/StartOps.lean ====
section
/-! DEFINITION. Resets and start (R177 to R180): what a reset leaves, the opening of record memory, each block's
recovery in its order, and the end of start. -/

namespace Sys2Proof.Machine

/-- Either reset: volatile state returns to its reset value.  Record memory, the presence lines and what the cartridges
report stand, and so do the commands that wait (R94, R177). -/
def State.afterReset (s : State) : State :=
  { State.reset with
    pending := s.pending
    sockets := s.sockets.map fun k => { Socket.reset with present := k.present, link := k.link }
    nv := s.nv }

/-! ### The configuration and record memory (R175, R176, R178) -/

/-- The configuration read has ended (R175). -/
def State.loadConfig (s : State) (bytes : List Byte) : State :=
  let cfg := if bytes.length = 256 then imageCfg bytes else Cfg.noImage
  let cause := imageCause bytes
  let s :=
    { s with
      cfg := cfg
      line := { s.line with timing := some cfg.timing }
      start :=
        { s.start with
          phase := .records, invalid := cause
          configured := if cause.isNone then some (BitVec.ofNat 6 (numAt bytes 4 1)) else none } }
  match cause with
  | some c => s.raise (.configInvalid c)
  | none => s

/-- The tables as the opening leaves them, with the number for ownership and whether record memory may be written. -/
def State.opened (s : State) (tables : Records) (own : Option Station) (writable : Bool) (size : Nat) : State :=
  { s with
    tables := tables
    start := { s.start with phase := .recovery, own := own, writable := writable, storeSize := size } }

/-- The configuration becomes invalid, with a CONFIG-INVALID notice (R178). -/
def State.invalidate (s : State) (c : ConfigCause) : State :=
  ({ s with start := { s.start with invalid := some c } }).raise (.configInvalid c)

/-- The outcomes of R178.  DESIGN CHOICE: where the store port fails to answer, and no size is read, the master store's
size is 0 (log entry 33). -/
def State.openRecords (s : State) (answer : Option Nat) : State :=
  match answer with
  | none => (s.invalidate .records).opened Records.firstStart none false 0
  | some n =>
    let size := min n 65536
    match s.start.configured, headerStation s.nv.header with
    | some k, some h =>
      if h = k then s.opened s.nv.tables (some k) true size
      else (s.invalidate .stationMismatch).opened s.nv.tables (some h) false size
    | some k, none =>
      ({ s with nv := ⟨headerBytes k, Records.firstStart⟩ }).opened Records.firstStart (some k) true size
    | none, some h => s.opened s.nv.tables (some h) false size
    | none, none => s.opened Records.firstStart none false size

/-! ### Recovery (R179) -/

/-- Step 1: COPYING parts go back to QUEUED, and the day scan is idle (R73). -/
def State.recoverRegister (s : State) : State :=
  let back (c : CartPart) : CartPart := if c.status = .copying then { c with status := .queued } else c
  { s with
    tables := { s.tables with loans := s.tables.loans.map fun l => { l with cart := l.cart.map back } }
    scan := DayScan.reset }

/-- Whether the register holds a loan in CLAIMED with its cartridge part REISSUE in QUEUED (R134). -/
def State.awaitsReissue (s : State) (n : LoanNo) : Bool :=
  match s.loan? n with
  | some l => l.state == .claimed && ((l.cart.map fun c => c.path == .reissue && c.status == .queued).getD false)
  | none => false

/-- A ready-stock record after recovery: PLEDGED returns to FREE, and ISSUING stays while its loan awaits it (R134). -/
def State.recoverStock (s : State) (r : StockRec) : StockRec :=
  match r.state with
  | .free => r
  | .pledged _ => { r with state := .free }
  | .issuing n => if s.awaitsReissue n then r else { r with state := .free }

/-- A braille set's pledged count recomputed from the loans (R134). -/
def State.recountPledged (s : State) (w : Work) : Nat :=
  (s.tables.loans.filter fun l =>
    l.state == .claimed && ((l.braille.map fun b => b.set == w && b.status == .pledged).getD false)).length

/-- Step 2: LOADING entries are removed, and the ready-stock and braille set records are set right (R134). -/
def State.recoverDirectory (s : State) : State :=
  { s with
    tables :=
      { s.tables with
        directory := s.tables.directory.filter fun d => d.state != .loading
        stock := s.tables.stock.map s.recoverStock
        sets := s.tables.sets.map fun r => { r with pledged := s.recountPledged r.work } } }

/-- A record joins records in ascending claim day, behind those of its day. -/
def insertByDay (l : Loan) : List Loan → List Loan
  | [] => [l]
  | x :: xs => if l.claimDay < x.claimDay then l :: x :: xs else x :: insertByDay l xs

/-- The records in ascending claim day, then ascending loan number (R41, R117). -/
def State.loansByDay (s : State) : List Loan := s.tables.loans.foldl (fun acc l => insertByDay l acc) []

/-- The entry rebuilt for a loan (R41). -/
def State.rebuiltEntry (s : State) (l : Loan) : Entry where
  order        := l.order
  patron       := l.patron
  work         := l.work
  format       := l.format
  zone         := l.zone
  urgent       := l.urgent
  desk         := stationField l.order
  hit          := s.filterHit l.work.title l.format
  bookedDay    := l.claimDay
  state        := .takenSelf l.number
  releaseCount := 0
  excluded     := false
  owed         := none
  heldQueued   := false

/-- Step 3: one entry in TAKEN(self) for each loan in CLAIMED, READY or PACKED (R41). -/
def State.recoverBook (s : State) : State :=
  let held := s.loansByDay.filter fun l => l.state == .claimed || l.state == .ready || l.state == .packed
  { s with book := ⟨held.map s.rebuiltEntry, []⟩ }

/-- Step 4: a job for each loan with its cartridge part COPY in QUEUED, or a TITLE-VOID release where the entry is not
VALID (R117). -/
def State.recoverJobs (s : State) : State :=
  let copies := s.loansByDay.filter fun l =>
    (l.cart.map fun c => c.path == .copy && c.status == .queued).getD false
  copies.foldl
    (fun s l =>
      let e := s.plainEstimate ((s.validLen l.work).getD 0)
      s.createJob l.number l.work e.1 e.2) s

/-- Whether the register holds a loan in PACKED with a tray number (R165). -/
def State.packedIn (s : State) (t : TrayNo) (n : LoanNo) : Bool :=
  ((s.loan? n).map fun l => l.state == .packed && l.tray == some t).getD false

/-- The mail units of the loans listed (R152). -/
def State.unitsOf (s : State) (ls : List LoanNo) : Nat := (ls.map fun n => ((s.loan? n).map (·.mailUnits)).getD 0).sum

/-- One tray record's recovery: its list checked against the register, and its age rebased (R165). -/
def State.recoverTray (s : State) (r : Fin 16) : State :=
  match s.tray r with
  | none => s
  | some x =>
    let kept := x.loans.filter (s.packedIn x.number)
    s.storeTray r
      { x with
        loans := kept, load := s.unitsOf kept, urgent := s.anyUrgent kept
        opened := if x.state = .filling then 0 else x.opened }

/-- Step 5 (R165). -/
def State.recoverTrays (s : State) : State := allTrays.foldl State.recoverTray s

/-! ### The end of start (R180) -/

/-- A cartridge is seated in an EMPTY socket of role COPY or INTAKE: the socket goes to IDENTIFYING (R87). -/
def State.startIdentify (s : State) (n : Idx8) : State :=
  s.modSocket n fun k =>
    { k with state := .identifying none, view := none, op := some (.awaitReady (s.after 3000)), hold := none }

/-- The line leaves OFF for JOINING or LISTEN, not following the line (R12). -/
def State.lineStarts (s : State) : State :=
  { s with
    line :=
      { s.line with state := if s.start.invalid.isNone then .joining else .listen, following := false } }

/-- The bench rate is set; a command line being received as the rate changes is marked bad (R168). -/
def State.setBenchRate (s : State) : State :=
  if s.start.invalid.isSome ∨ s.cfg.benchRate = 9600 then s
  else
    { s with
      bench := { s.bench with rate := s.cfg.benchRate, bad := s.bench.bad || !s.bench.buffer.isEmpty } }

/-- Each seated cartridge in a socket of role COPY or INTAKE takes an insertion (R94). -/
def State.seatedInsertions (s : State) : State :=
  allSockets.foldl
    (fun s n => if (s.socket n).present && s.role n != .off then s.startIdentify n else s) s

/-- The phase after start (R177). -/
def State.startRunning (s : State) : State := { s with start := { s.start with phase := .running } }

/-- A day scan is requested when the day number is not 0 (R180). -/
def State.startScan (s : State) : State := if s.tables.day == 0 then s else s.requestScan

/-- The end of start (R180). -/
def State.endOfStart (s : State) : State :=
  s.startRunning.lineStarts.setBenchRate.seatedInsertions.startScan.trayOffer 17

/-- The five steps of recovery in order (R179). -/
def State.recover (s : State) : State :=
  s.recoverRegister.recoverDirectory.recoverBook.recoverJobs.recoverTrays

end Sys2Proof.Machine
end

