-- ==== Sys2Proof/Machine/StartFamily.lean ====
section
/-! DEFINITION. The meanings of the start commands: POWER_ON_RESET, RESET, CONFIG_READ, RECORD_MEMORY_OPEN, RECOVERY. -/

namespace Sys2Proof.Machine

/-- What a command answers. -/
abbrev Answer := Host.Outcome State Fault Refusal

/-- POWER_ON_RESET: RSTn held low resets the part, and start begins in phase CONFIG when it rises (R177). -/
def execPowerOnReset (s : State) : Answer := .next s.afterReset

/-- RESET: the bench command resets the part at once, at any point of start and in any line state (R177). -/
def execReset (s : State) : Answer := .next s.afterReset

/-- CONFIG_READ: the configuration read ends in phase CONFIG (R175, R176). -/
def execConfigRead (bytes : List Byte) (s : State) : Answer :=
  .next (if s.start.phase = .config then s.loadConfig bytes else s)

/-- RECORD_MEMORY_OPEN: record memory is opened in phase RECORDS (R118, R178, R187). -/
def execRecordMemoryOpen (storeSize : Option Nat) (s : State) : Answer :=
  .next (if s.start.phase = .records then s.openRecords storeSize else s)

/-- RECOVERY: the blocks recover in order in phase RECOVERY, and start ends (R179, R180). -/
def execRecovery (s : State) : Answer :=
  .next (if s.start.phase = .recovery then finish .completed s.recover.endOfStart else s)

end Sys2Proof.Machine
end

