-- ==== Sys2Proof/Machine/LineFamily.lean ====
section
/-! DEFINITION. The meanings of the floor line's commands: FRAME_RECEIVED, RECEIVE_ERROR, LINE_IDLE, TRANSMIT_START,
LOST_ARBITRATION, TRANSMIT_FAILURE, TRANSMIT_SUCCESS, JOINING_IDLE, MUTE_EXPIRY (chapter 1). -/

namespace Sys2Proof.Machine

/-! ### Receiving -/

/-- Whether the station decodes frames: it follows the line in RUNNING, MUTED or LISTEN and is not itself sending, or
it goes on with a reception that was under way at a mute expiry (R4, R12, R13). -/
def State.decodes (s : State) : Bool :=
  s.sending?.isNone &&
    match s.line.state with
    | .running => s.line.following
    | .muted => s.line.following
    | .listen => s.line.following
    | .joining => s.line.finishing
    | .off => false

/-- Whether the station drives the acknowledge slot of a frame that has passed its tests (R10, R12). -/
def State.acknowledges (s : State) : Bool :=
  match s.line.state with
  | .running => true
  | .muted => true
  | .joining => s.line.finishing
  | _ => false

/-- A receive error: the station stops decoding and waits for the line as one not following it (R9).  It has
acknowledged the frame where the error falls after the acknowledge slot (R10). -/
def State.rxError (s : State) (e : RxError) : State :=
  { s with
    line :=
      { s.line with
        following := false, finishing := false, ackDriven := e == .lateForm && s.acknowledges, sentBits := 0 } }

/-- Whether the kind check of R8 discards a frame whose fields are all in range: a LOANSTATE, or this station's own
number as sender. -/
def State.discards (s : State) (f : Frame) : Bool :=
  s.isOwn f.sender || match f.payload with
    | .loanState _ _ _ _ => true
    | _ => false

/-- A frame is taken as received at its eighth end bit: it has been acknowledged (R10), and goes on to R8 and R13. -/
def State.rxFrame (s : State) (r : RawFrame) : State :=
  let s := { s with line := { s.line with ackDriven := s.acknowledges, finishing := false, sentBits := 0 } }
  match r.parse with
  | some f => if s.discards f then s else s.pushRx f
  | none => s

/-- FRAME_RECEIVED: the levels of the line are sampled and decoded (R1 to R6, R9), acknowledged (R10), checked against
the frame's kind (R8) and queued (R13).  The bits the station sent before it lost arbitration, and the acknowledge slot
it drives, are bits it sends (R2). -/
def execFrameReceived (wave : List Bool) (s : State) : Answer :=
  .next <|
    if s.decodes then
      match s.line.timing.bind (receiveWave · s.line.sentBits s.acknowledges wave) with
      | some (.ok r) => s.rxFrame r
      | some (.error e) => s.rxError e
      | none => s
    else s

/-- RECEIVE_ERROR: a stuff, check or form error (R5, R6, R9, R10). -/
def execReceiveError (e : RxError) (s : State) : Answer := .next (if s.decodes then s.rxError e else s)

/-- LINE_IDLE: a station not following the line in RUNNING, MUTED or LISTEN has sampled 12 recessive bits (R4). -/
def execLineIdle (s : State) : Answer :=
  .next <|
    match s.line.state with
    | .running => { s with line := { s.line with following := true } }
    | .muted => { s with line := { s.line with following := true } }
    | .listen => { s with line := { s.line with following := true } }
    | _ => s

/-- JOINING_IDLE: a station in JOINING has sampled 12 recessive bits and goes to RUNNING, the line idle (R12). -/
def execJoiningIdle (s : State) : Answer :=
  .next <|
    if s.line.state = .joining then
      { s with line := { s.line with state := .running, following := true, finishing := false } }
    else s

/-- MUTE_EXPIRY: the mute timer expires; a reception under way goes on to its end (R12). -/
def execMuteExpiry (underWay : Bool) (s : State) : Answer :=
  .next <|
    if s.line.state = .muted ∧ (s.line.muteDeadline.map s.reached).getD false = true then
      { s with
        line :=
          { s.line with
            state := .joining, failCount := 0, muteDeadline := none
            finishing := underWay && s.line.following, following := false } }
    else s

/-! ### Sending -/

/-- TRANSMIT_START: a RUNNING station with the line idle starts to send the head of its transmit queue (R9, R14).  A
station that has lost arbitration decodes the winner's frame, and waits for the idle line after it (R9, R11); the row
itself stands for the idle line, or the peer's start bit, otherwise (log entry 12). -/
def execTransmitStart (s : State) : Answer :=
  .next <|
    if s.line.state = .running ∧ s.line.following = true ∧ s.line.sentBits = 0 ∧ s.sending? = none then
      match headOf s.line.tx with
      | some x =>
        { s with
          line :=
            { s.line with
              tx := modFirst x (fun y => { y with inTransmission := true }) s.line.tx
              driving := x.frame.raw.lineBits, sentBits := 0 } }
      | none => s
    else s

/-- The station stops driving the line; the entry loses its in-transmission mark and stays queued (R9, R11). -/
def State.stopSending (s : State) (x : TxEntry) : State :=
  { s with
    line :=
      { s.line with
        tx := modFirst x (fun y => { y with inTransmission := false }) s.line.tx, driving := [] } }

/-- A withdrawal-pending BID whose transmission did not succeed is removed, and the Order Book told withdrawn (R16, R25);
the entry that left may bring a room event (R15). -/
def State.removeWithdrawn (s : State) (x : TxEntry) : State :=
  match x.withdrawPending, x.frame.payload.bidOrder with
  | true, some o =>
    let cause := ((s.entry? o).map (·.state.pendingCause)).getD none
    ((s.dropTx { x with inTransmission := false }).bidWithdrawn o cause).roomEvent 5
  | _, _ => s

/-- How the transmission in progress ends, by the comparison of the bits on LTX with the levels sampled from the wave of
the line; none where the wave ends before the frame does (R9 to R11). -/
def State.sendOutcome (s : State) (wave : List Bool) : Option TxOutcome :=
  s.line.timing.bind fun t => waveOutcome t s.line.driving wave

/-- Arbitration is lost with `sent` bits sent: the station stops driving and goes on decoding the same frame (R9). -/
def State.loseArbitration (s : State) (x : TxEntry) (sent : Nat) : State :=
  let s := s.stopSending x
  { s with line := { s.line with sentBits := sent } }

/-- LOST_ARBITRATION: in the arbitration field the station sampled dominant where it sent recessive; the entry stays
queued and the station receives the frame (R9, R11, R16). -/
def execLostArbitration (e : SendEnd) (s : State) : Answer :=
  .next <|
    match s.sending?, s.sendOutcome e.wave with
    | some x, some (.lostArbitration sent) => finish e.write ((s.loseArbitration x sent).removeWithdrawn x)
    | _, _ => s

/-- A failure is counted; the sixteenth in RUNNING mutes the line for 2 s (R11, R12). -/
def State.countFailure (s : State) : State :=
  let s := { s with line := { s.line with failCount := s.line.failCount + 1 } }
  if 16 ≤ s.line.failCount ∧ s.line.state = .running then
    ({ s with line := { s.line with state := .muted, muteDeadline := some (s.after 2000) } }).raise .lineMuted
  else s

/-- TRANSMIT_FAILURE: a bit error, after which the station does not follow the line, or no acknowledgement (R9, R10,
R11, R16). -/
def execTransmitFailure (wave : List Bool) (w : RecordWrite) (s : State) : Answer :=
  .next <|
    match s.sending?, s.sendOutcome wave with
    | some x, some .bitError =>
      let s := s.stopSending x
      let s := { s with line := { s.line with following := false } }
      finish w (s.countFailure.removeWithdrawn x)
    | some x, some .noAck => finish w ((s.stopSending x).countFailure.removeWithdrawn x)
    | _, _ => s

/-- The transmit completion of the station's BID (R26). -/
def State.bidCompleted (s : State) (o : OrderNo) : State :=
  match s.entry? o with
  | none => s
  | some e =>
    match e.state with
    | .queued p .none => s.win e p
    | .queued p (.awaited none) => s.win e p
    | .queued p (.awaited (some (.heard x))) => (s.undoPledges o e.work p).setEntryState o (.takenOther x)
    | .queued p (.awaited (some .remove)) => (s.undoPledges o e.work p).dropEntry o
    | .queued p (.awaited (some .void)) => (s.undoPledges o e.work p).ownRelease e .titleVoid
    | _ => s

/-- The transmit completion goes to the frame's owner: a BID's is the Order Book's, a HELD's clears its mark, and a
paced owner's changes nothing (R11, R26, R29). -/
def State.completion (s : State) : Payload → State
  | .bid o _ => s.bidCompleted o
  | .held o => s.modEntry o fun e => { e with heldQueued := false }
  | _ => s

/-- TRANSMIT_SUCCESS: the entry leaves the queue, the failure count goes to 0, the completion goes to the owner, and
the free entry may bring a room event (R11, R15). -/
def execTransmitSuccess (e : SendEnd) (s : State) : Answer :=
  .next <|
    match s.sending?, s.sendOutcome e.wave with
    | some x, some .success =>
      let s := s.dropTx x
      let s := { s with line := { s.line with failCount := 0, driving := [] } }
      finish e.write ((s.completion x.frame.payload).roomEvent 5)
    | _, _ => s

end Sys2Proof.Machine
end

