-- ==== Sys2Proof/Machine/BookFamily.lean ====
section
/-! DEFINITION. The meanings of the frames heard and of the Order Book's and the day scan's own events: ORDER,
BID_HEARD, HELD_HEARD, SHIPPED_HEARD, RELEASE_HEARD, CANCEL, DATE, RETURNED_HEARD, WINDOW_EXPIRY, DAY_SCAN_VISIT.
The frame taken is the head of the receive queue; a command that names another kind finds no such frame there. -/

namespace Sys2Proof.Machine

/-- The frame at the head of the receive queue with its reception time (R13). -/
def State.rxHead? (s : State) : Option RxEntry := s.line.rx.head?

/-! ### ORDER (R20, R21) -/

/-- The entry an ORDER makes (R21). -/
def State.newEntry (s : State) (f : Frame) (time : Millis) (order : OrderNo) (patron : Patron) (work : Work)
    (format : Format) (zone : Zone) : Entry where
  order        := order
  patron       := patron
  work         := work
  format       := format
  zone         := zone
  urgent       := f.rank == 0
  desk         := f.sender
  hit          := s.filterHit work.title format
  bookedDay    := s.tables.day
  state        := .window (time + s.windowMs)
  releaseCount := 0
  excluded     := false
  owed         := none
  heldQueued   := false

/-- A new entry joins the end of the booking order. -/
def State.addEntry (s : State) (e : Entry) : State :=
  { s with book := { s.book with entries := s.book.entries ++ [e] } }

/-- An order whose number is not booked is booked when a filter hits it and the book has room (R20, R21). -/
def State.bookOrder (s : State) (e : Entry) : State :=
  if (s.entry? e.order).isSome || e.hit.isNone then s
  else
    match s.bookRoom with
    | some t => t.addEntry e
    | none => s

/-- ORDER: the Order Book takes the ORDER at the head of the receive queue (R20, R21). -/
def execOrder (s : State) : Answer :=
  .next <|
    match s.rxHead? with
    | some ⟨⟨rank, sender, .order o p w f z⟩, time⟩ =>
      s.popRx.bookOrder (s.popRx.newEntry ⟨rank, sender, .order o p w f z⟩ time o p w f z)
    | _ => s

/-! ### BID and HELD (R27, R28) -/

/-- A holder other than this station has been heard for an order (R27). -/
def State.heardHolder (s : State) (o : OrderNo) (x : Station) : State :=
  match s.entry? o with
  | none => s
  | some e =>
    match e.state with
    | .window _ => s.setEntryState o (.takenOther x)
    | .unbid => s.setEntryState o (.takenOther x)
    | .queued _ _ => s.withdrawBid o (.heard x)
    | .takenSelf _ => s.sendHeld e
    | .takenOther _ => s

/-- BID_HEARD: the Order Book takes the BID at the head of the receive queue (R27). -/
def execBidHeard (w : RecordWrite) (s : State) : Answer :=
  .next <|
    match s.rxHead? with
    | some ⟨⟨_, sender, .bid o _⟩, _⟩ => finish w (s.popRx.heardHolder o sender)
    | _ => s

/-- A lower-numbered holder has been heard for an order this station holds: it yields (R28, R36). -/
def State.yieldTo (s : State) (o : OrderNo) (loan : LoanNo) (x : Station) : State :=
  match s.withdraw loan with
  | (t, true) => t.setEntryState o (.takenOther x)
  | (t, false) => t

/-- A HELD from a station (R28). -/
def State.heardHeld (s : State) (o : OrderNo) (x : Station) : State :=
  match s.entry? o with
  | some e =>
    match e.state with
    | .takenSelf loan => if x < s.station then s.yieldTo o loan x else s.sendHeld e
    | _ => s.heardHolder o x
  | none => s

/-- HELD_HEARD: the Order Book takes the HELD at the head of the receive queue (R28). -/
def execHeldHeard (w : RecordWrite) (s : State) : Answer :=
  .next <|
    match s.rxHead? with
    | some ⟨⟨_, sender, .held o⟩, _⟩ => finish w (s.popRx.heardHeld o sender)
    | _ => s

/-! ### SHIPPED, CANCEL (R30, R32) -/

/-- The order is over at this station: its entry is removed, its BID withdrawn with cause REMOVE, or its loan withdrawn
and the entry removed if the withdrawal is taken (R30, R32, R36). -/
def State.endOrder (s : State) (o : OrderNo) : State :=
  match s.entry? o with
  | none => s
  | some e =>
    match e.state with
    | .takenSelf loan =>
      match s.withdraw loan with
      | (t, true) => t.dropEntry o
      | (t, false) => t
    | .queued _ _ => s.withdrawBid o .remove
    | .window _ => s.dropEntry o
    | .takenOther _ => s.dropEntry o
    | .unbid => s.dropEntry o

/-- SHIPPED_HEARD: the Order Book takes the SHIPPED at the head of the receive queue (R30). -/
def execShippedHeard (w : RecordWrite) (s : State) : Answer :=
  .next <|
    match s.rxHead? with
    | some ⟨⟨_, _, .shipped o _ _ _ _⟩, _⟩ => finish w (s.popRx.endOrder o)
    | _ => s

/-- A CANCEL is acted on when its sender is the desk station of the entry (R32). -/
def State.cancelOrder (s : State) (o : OrderNo) (x : Station) : State :=
  if ((s.entry? o).map fun e => e.desk == x).getD false then s.endOrder o else s

/-- CANCEL: the Order Book takes the CANCEL at the head of the receive queue (R32). -/
def execCancel (w : RecordWrite) (s : State) : Answer :=
  .next <|
    match s.rxHead? with
    | some ⟨⟨_, sender, .cancel o⟩, _⟩ => finish w (s.popRx.cancelOrder o sender)
    | _ => s

/-! ### RELEASE (R31) -/

/-- A HEARD cause is cleared by a RELEASE while the request stands; a REMOVE or VOID cause is kept (R31). -/
def PendingWithdrawal.cleared : PendingWithdrawal → PendingWithdrawal
  | .awaited (some (.heard _)) => .awaited Option.none
  | p => p

/-- The release count becomes `c`. -/
def State.setCount (s : State) (o : OrderNo) (c : BitVec 2) : State := s.modEntry o fun e => { e with releaseCount := c }

/-- A RELEASE whose count is greater than the entry's (R31). -/
def State.reopenOrder (s : State) (e : Entry) (c : BitVec 2) (time : Millis) : State :=
  match e.state with
  | .takenSelf _ => s.setCount e.order c
  | .queued p q =>
    if c = 3 then (s.setCount e.order c).withdrawBid e.order .remove
    else (s.setCount e.order c).setEntryState e.order (.queued p q.cleared)
  | _ =>
    if c = 3 then s.dropEntry e.order
    else (s.setCount e.order c).setEntryState e.order (.window (time + s.windowMs))

/-- A RELEASE with count `c`; one not above the entry's count is ignored (R31). -/
def State.heardRelease (s : State) (o : OrderNo) (c : BitVec 2) (time : Millis) : State :=
  match s.entry? o with
  | some e => if e.releaseCount < c then s.reopenOrder e c time else s
  | none => s

/-- RELEASE_HEARD: the Order Book takes the RELEASE at the head of the receive queue (R31). -/
def execReleaseHeard (w : RecordWrite) (s : State) : Answer :=
  .next <|
    match s.rxHead? with
    | some ⟨⟨_, _, .release o c _⟩, time⟩ => finish w (s.popRx.heardRelease o c time)
    | _ => s

/-! ### DATE and RETURNED (R39, R61, R149) -/

/-- A DATE with day `d`: a later day is held, ages the Order Book and requests a day scan (R39, R61). -/
def State.heardDate (s : State) (d : Day) : State :=
  if s.tables.day < d then (({ s with tables := { s.tables with day := d } }).age d).requestScan else s

/-- DATE: the Loan Register takes the DATE at the head of the receive queue (R61). -/
def execDate (w : RecordWrite) (s : State) : Answer :=
  .next <|
    match s.rxHead? with
    | some ⟨⟨_, _, .date d⟩, _⟩ => finish w (s.popRx.heardDate d)
    | _ => s

/-- A RETURNED for an own loan number is handed to the register as a cartridge return (R149). -/
def State.heardReturned (s : State) (n : LoanNo) (x : Serial) : State :=
  if s.isOwn (stationField n) then s.cartReturn n x else s

/-- RETURNED_HEARD: the Returns Unit takes the RETURNED at the head of the receive queue (R149). -/
def execReturnedHeard (w : RecordWrite) (s : State) : Answer :=
  .next <|
    match s.rxHead? with
    | some ⟨⟨_, _, .returned n x _ _⟩, _⟩ => finish w (s.popRx.heardReturned n x)
    | _ => s

/-! ### WINDOW_EXPIRY (R22 to R24) -/

/-- The entry is in WINDOW and the count has reached its deadline. -/
def State.windowDue (s : State) (e : Entry) : Bool :=
  match e.state with
  | .window d => s.reached d
  | _ => false

/-- The pledge summary of a BID (R19, R24, R50). -/
def BidAnswer.pledge (a : BidAnswer) : Pledge := ⟨a.serial, a.set, a.copySlot, a.path, a.cost, a.blockMs, a.baseTime⟩

/-- Steps 3 and 4 of R23: the pledges are made and the BID offered; a refused BID's pledges are undone. -/
def State.placeBid (s : State) (e : Entry) (a : BidAnswer) : State :=
  match (s.makePledges e.order e.work a.serial a.set).offerUrgent (BitVec.ofNat 14 a.cost) (.bid e.order a.path) with
  | some t => t.setEntryState e.order (.queued a.pledge .none)
  | none => s.setEntryState e.order .unbid

/-- The decision at a window expiry (R23). -/
def State.expireWindow (s : State) (e : Entry) : State :=
  if s.line.state = .listen ∨ e.excluded = true then s.setEntryState e.order .unbid
  else
    match s.bid e.work e.format e.hit with
    | none => s.setEntryState e.order .unbid
    | some a => s.placeBid e a

/-- WINDOW_EXPIRY: the order's entry is the first in booking order whose deadline has been reached (R22, R23). -/
def execWindowExpiry (order : OrderNo) (w : RecordWrite) (s : State) : Answer :=
  .next <|
    match s.book.entries.find? s.windowDue with
    | some e => if e.order = order then finish w (s.expireWindow e) else s
    | none => s

/-! ### DAY_SCAN_VISIT (R62, R63) -/

/-- A record brought up to date with today (R63). -/
def Loan.updated (l : Loan) (today : Day) (lostInterval : Nat) : Loan :=
  match l.dueDay with
  | none => l
  | some due =>
    let l := if l.state = .shipped ∧ due < today then { l with state := .overdue } else l
    if l.state = .overdue ∧ due.toNat + lostInterval ≤ 65535 ∧ due.toNat + lostInterval ≤ today.toNat then
      { l with state := .lost }
    else l

/-- A visit of the day scan to a record (R62, R63). -/
def State.visit (s : State) (l : Loan) : State :=
  let s := s.modLoan l.number fun l => l.updated s.tables.day s.cfg.lostInterval
  let s := { s with scan := { s.scan with last := some l.number } }
  s.scanOffer l.number 4

/-- DAY_SCAN_VISIT: a running scan that is not waiting at an owed notice visits its next record, or ends its pass
(R62, R63). -/
def execDayScanVisit (w : RecordWrite) (s : State) : Answer :=
  .next <|
    if s.scan.running = true ∧ s.scan.owed = none then
      match s.nextVisit with
      | some l => finish w (s.visit l)
      | none => finish w s.visitEnd
    else s

end Sys2Proof.Machine
end

