-- ==== Sys2Proof/Machine/SocketFamily.lean ====
section
/-! DEFINITION. The meanings of the socket links' and the store port's commands: CARTRIDGE_INSERTION,
IDENTIFY_LIMIT_EXPIRY, CARTRIDGE_REMOVAL, READ_COMPLETION, STATE_COMPLETION, POLL_LIMIT_EXPIRY, HOLD_TIMEOUT,
READY_LINE_HOLD (chapter 5), STORE_BLOCK_READ_END, STORE_BLOCK_WRITE_END (chapter 6). -/

namespace Sys2Proof.Machine

/-! ### Insertion and removal (R84, R87, R91, R92) -/

/-- The presence line rises; the cartridge's latch is cleared as it is powered (R75). -/
def State.seat (s : State) (n : Idx8) : State :=
  s.modSocket n fun k => { k with present := true, link := ⟨false, false, false⟩ }

/-- CARTRIDGE_INSERTION: an EMPTY socket of role COPY or INTAKE goes to IDENTIFYING; before start ends, and in an OFF
socket, the line alone rises (R85, R87, R94). -/
def execCartridgeInsertion (n : Idx8) (s : State) : Answer :=
  .next <|
    if (s.socket n).present then s
    else if s.start.phase = .running ∧ s.role n ≠ .off ∧ (s.socket n).state = .empty then (s.seat n).startIdentify n
    else s.seat n

/-- IDENTIFY_LIMIT_EXPIRY: the cartridge still answers busy 3,000 ms after the first STATE (R87). -/
def execIdentifyLimitExpiry (n : Idx8) (s : State) : Answer :=
  .next <|
    match (s.socket n).op with
    | some (.awaitReady limit) => if s.reached limit then s.faultSocket n else s
    | _ => s

/-- The socket goes to EMPTY: its view, its owner's reference and its operation are gone (R84, R91). -/
def State.emptySocket (s : State) (n : Idx8) : State := s.setSocket n Socket.reset

/-- A member's cartridge is removed: the member leaves its gang, and its job and its loan's part go back (R92, R107). -/
def State.memberRemoved (s : State) (n : Idx8) (m : Member) : State :=
  (((s.emptySocket n).leaveGang m.gang).requeueJob m.job).cartReport m.job.loan .copy .copying .queued

/-- A cartridge under check is removed (R92, R137, R138, R146). -/
def State.checkRemoved (s : State) (n : Idx8) (c : Check) : State :=
  match c.phase with
  | .waitRoom =>
    let s := s.emptySocket n
    { s with returns := { s.returns with wait := s.returns.wait.filter (· != n) } }
  | .closing => ((s.handOver n c).emptySocket n).condition c .unchecked false
  | .verify _ _ => (s.emptySocket n).condition c .unchecked false

/-- The effect of a removal in each state (R92). -/
def State.removed (s : State) (n : Idx8) : State :=
  match (s.socket n).state with
  | .copying m => s.memberRemoved n m
  | .finishing m => s.memberRemoved n m
  | .tagging loan false => (s.emptySocket n).cartReport loan .reissue .copying .queued
  | .ingesting i => (s.abandonIngest n i).emptySocket n
  | .checking c => s.checkRemoved n c
  | .erasing c _ _ => (s.emptySocket n).condition c .erased false
  | _ => s.emptySocket n

/-- CARTRIDGE_REMOVAL: the presence line of a seated cartridge drops (R84, R91, R92). -/
def execCartridgeRemoval (n : Idx8) (w : RecordWrite) (s : State) : Answer :=
  .next (if (s.socket n).present then finish w (s.removed n) else s)

/-! ### Transfers (R80 to R82, R87) -/

/-- READ_COMPLETION: the READ in progress ends with the bytes it asked for (R80). -/
def execReadCompletion (n : Idx8) (bytes : List Byte) (w : RecordWrite) (s : State) : Answer :=
  .next <|
    match (s.socket n).op, (s.socket n).hold with
    | some (.read _ count), none =>
      if bytes.length = count then finish w ((s.clearOp n).readEnded n bytes) else s
    | _, _ => s

/-- A LOCK reaches the cartridge (R75, R82). -/
def State.lockSocket (s : State) (n : Idx8) : State := s.modSocket n fun k => { k with link := k.link.lock }

/-- The transfer of a LOCK has ended: the failure of the guarded operation goes to its owner (R82), or identification reads
sector 0 (R87). -/
def State.locked (s : State) (n : Idx8) (failed : Bool) : State :=
  if failed then ((s.lockSocket n).clearOp n).opFailed n
  else (s.lockSocket n).modSocket n fun k => { k with op := some (.read 0 4096), hold := none }

/-- LOCK is sent, or its transfer goes on at the end of a hold.  Where a hold falls in the rest of the transfer the LOCK is
still in progress, and what follows it waits (R81, R82, R87). -/
def State.sendLock (s : State) (n : Idx8) (held failed : Bool) : State :=
  if held then s.modSocket n fun k => { k with op := some (.locking failed), hold := none } else s.locked n failed

/-- A guarded operation succeeds: the view shows what it programmed or cleared, and the owner takes the success
(R82, R86). -/
def State.guardSucceeds (s : State) (n : Idx8) (g : Guarded) : State :=
  (s.modSocket n fun k => { k with op := none, hold := none, view := k.view.map (·.apply g) }).opSucceeded n

/-- The command is sent after step 2 of R82, and the poll limit starts at the end of its transfer, which takes no time
of its own. -/
def State.sendCommand (s : State) (n : Idx8) (g : Guarded) : State :=
  s.modSocket n fun k =>
    { k with op := some (.guarded g (.command (s.after (pollLimit g)) k.link)), link := k.link.write }

/-- The limit of step 4 of R82, none before the end of step 3. -/
def GuardStage.limit : GuardStage → Option Millis
  | .beforeCommand _ => none
  | .unlocking => none
  | .command limit _ => some limit
  | .commanding => none
  | .polling limit => some limit

/-- The stage once the STATE that it waits for is under way, so that the transfer before that STATE has ended; none while a
hold pauses that transfer (R81, R82). -/
def GuardStage.stating : GuardStage → Option GuardStage
  | .beforeCommand _ => some (.beforeCommand none)
  | .unlocking => none
  | .command limit _ => some (.polling limit)
  | .commanding => none
  | .polling limit => some (.polling limit)

/-- A socket's record as the ready line goes low in a transfer, none where that transfer is not in progress (R81).  The
UNLOCK or the command held has not reached the cartridge, which reports as before it (R75), and the end of the command's step
3 is put off (R82). -/
def Socket.held (k : Socket) : HeldTransfer → Option Socket
  | .unlock =>
    match k.op with
    | some (.guarded g (.beforeCommand (some prior))) =>
      some { k with op := some (.guarded g .unlocking), link := prior }
    | _ => none
  | .command =>
    match k.op with
    | some (.guarded g (.command _ prior)) => some { k with op := some (.guarded g .commanding), link := prior }
    | _ => none
  | .lock =>
    match k.op with
    | some (.locking _) => some k
    | _ => none
  | .other =>
    match k.op with
    | some (.awaitReady _) => some k
    | some (.read _ _) => some k
    | some (.guarded g st) => st.stating.map fun st => { k with op := some (.guarded g st) }
    | _ => none

/-- A socket's record as its transfer goes on at the millisecond count `now` (R81): the UNLOCK or the command that was held
reaches the cartridge, and the command's poll limit starts (R82). -/
def Socket.resumed (k : Socket) (now : Millis) : Socket :=
  match k.op with
  | some (.guarded g .unlocking) =>
    { k with op := some (.guarded g (.beforeCommand (some k.link))), link := k.link.unlock }
  | some (.guarded g .commanding) =>
    { k with
      op := some (.guarded g (.command (now + BitVec.ofNat 32 (pollLimit g)) k.link)), link := k.link.write }
  | _ => k

/-- The answer of a STATE at each step that waits for one (R82, R87); `held` says whether a hold falls in the LOCK that
follows it. -/
def State.answered (s : State) (n : Idx8) (op : Op) (a : StateAnswer) (held : Bool) : State :=
  match op with
  | .awaitReady _ => if a.busy then s else s.sendLock n held false
  | .guarded g (.beforeCommand _) => if a.busy || !a.latch then s.sendLock n held true else s.sendCommand n g
  | .guarded g st =>
    if a.busy then s.modSocket n fun k => { k with op := some (.guarded g (st.stating.getD st)) }
    else if a.fault || a.latch then s.sendLock n held true
    else s.guardSucceeds n g
  | _ => s

/-- Whether an operation waits for the answer of a STATE. -/
def Op.awaitsState : Op → Bool
  | .awaitReady _ => true
  | .guarded _ st => st.stating.isSome
  | _ => false

/-- STATE_COMPLETION: the cartridge answers the STATE of the operation in progress (R82, R87). -/
def execStateCompletion (n : Idx8) (a : StateAnswer) (e : OpEnd) (s : State) : Answer :=
  .next <|
    match (s.socket n).op, (s.socket n).hold with
    | some op, none =>
      if op.awaitsState then
        finish e.write ((s.modSocket n fun k => { k with link := CartLink.answer a }).answered n op a e.lockHeld)
      else s
    | _, _ => s

/-- POLL_LIMIT_EXPIRY: the cartridge still answers busy at the poll limit of a guarded operation, which runs from the end
of step 3; LOCK is sent (R82). -/
def execPollLimitExpiry (n : Idx8) (e : OpEnd) (s : State) : Answer :=
  .next <|
    match (s.socket n).op with
    | some (.guarded _ st) =>
      if (st.limit.map s.reached).getD false then finish e.write (s.sendLock n e.lockHeld true) else s
    | _ => s

/-- An operation in progress fails with a hold over 50 ms; LOCK follows a guarded operation, its own transfer perhaps held
in turn, and a LOCK held itself is abandoned, the cartridge's latch as it stands (R81, R82). -/
def State.holdFails (s : State) (n : Idx8) (op : Op) (held : Bool) : State :=
  match op with
  | .guarded _ _ => s.sendLock n held true
  | _ => (s.clearOp n).opFailed n

/-- HOLD_TIMEOUT: the ready line has been low for 50 ms (R81, R82, R87). -/
def execHoldTimeout (n : Idx8) (e : OpEnd) (s : State) : Answer :=
  .next <|
    match (s.socket n).op, (s.socket n).hold with
    | some op, some limit => if s.reached limit then finish e.write (s.holdFails n op e.lockHeld) else s
    | _, _ => s

/-- The ready line goes low in a transfer in progress: each hold, the first of the transfer or a later one, is timed for 50
ms from that moment (R81). -/
def State.holdStarts (s : State) (n : Idx8) (transfer : HeldTransfer) : State :=
  match (s.socket n).hold, (s.socket n).held transfer with
  | none, some k => s.setSocket n { k with hold := some (s.after 50) }
  | _, _ => s

/-- The ready line is released and the transfer goes on (R81): the poll limit of a command that was held starts, and a LOCK
ends unless a further hold falls in its transfer (R82, R87). -/
def State.holdEnds (s : State) (n : Idx8) (e : OpEnd) : State :=
  match (s.socket n).hold, (s.socket n).op with
  | some _, some (.locking failed) => finish e.write (s.sendLock n e.lockHeld failed)
  | some _, some _ => s.modSocket n fun k => { k.resumed s.time.ms with hold := none }
  | _, _ => s

/-- READY_LINE_HOLD: the ready line goes low in a transfer, or is released (R81). -/
def execReadyLineHold (n : Idx8) (line : ReadyLine) (s : State) : Answer :=
  .next <|
    match line with
    | .low transfer => s.holdStarts n transfer
    | .released e => s.holdEnds n e

/-! ### The store (R100 to R102, R106, R122, R125) -/

/-- The store is free again. -/
def State.storeFree (s : State) : State := { s with copy := { s.copy with current := none } }

/-- A buffer whose owner has gone is freed at the end of its operation (R101). -/
def State.drainBuffer (s : State) (b : Fin 4) : State :=
  if (s.buffer b).owner = .draining then s.setBuffer b ⟨.free, [], none⟩ else s

/-- A good read: the buffer holds its gang's block, and the members that wait start work on it (R102). -/
def State.blockLoaded (s : State) (b : Fin 4) (block : List Byte) : State :=
  match (s.buffer b).owner with
  | .gang id =>
    match s.gang? id with
    | some g =>
      let s := s.setBuffer b { s.buffer b with data := block }
      let s := s.modGang id fun g => { g with loaded := true }
      (s.membersOf id).foldl
        (fun s p => if p.2.progress = .waiting then s.startWork p.1 p.2 { g with loaded := true } false else s) s
    | none => s
  | _ => s

/-- The Stock Directory voids the entry when it is VALID and has the start block named, and reports the title void
(R125). -/
def State.voidEntry (s : State) (w : Work) (start : Nat) : State :=
  match s.dir? w with
  | some d =>
    if d.state = .valid ∧ d.start = start then (s.modDir w fun d => { d with state := .void }).titleVoid w else s
  | none => s

/-- The members of every gang for a title and edition whose blocks done is less than L (R106, step 3), in socket-number
order over all the gangs.  The title-void failures of the aborted members are reported in this order, and so the RELEASEs
are owed in it; the spec gives no order of gangs and members there (DESIGN CHOICE, log entry 18). -/
def State.voidMembers (s : State) (w : Work) : List (Idx8 × Member) :=
  s.members.filter fun p =>
    p.2.job.work == w && ((s.gang? p.2.gang).map fun g => decide (g.done < g.len)).getD false

/-- Every member listed is aborted; they leave their gangs together (R109). -/
def State.abortAll (s : State) (ms : List (Idx8 × Member)) : State :=
  let s := ms.foldl (fun s p => s.putSock p.1 .aborting) s
  let s := ms.foldl (fun s p => s.leaveGang p.2.gang) s
  ms.foldl (fun s p => if (s.socket p.1).op.isSome then s else s.leaveAborting p.1) s

/-- The title-void failures of the loans listed, in order (R68). -/
def State.titleVoidFailures (s : State) (ls : List LoanNo) : State := ls.foldl State.titleVoidFailure s

/-- The waiting jobs of a title and edition leave the queue, each with a title-void failure (R106, step 4).  The failures
are reported in queue order, and so the RELEASEs are owed in it; the spec gives no order of the jobs there (DESIGN CHOICE,
log entry 18). -/
def State.voidJobs (s : State) (w : Work) : State :=
  let js := s.copy.queue.filter fun j => j.work == w
  ({ s with copy := { s.copy with queue := s.copy.queue.filter fun j => j.work != w } }).titleVoidFailures
    (js.map Job.loan)

/-- A block read has ended with its store check failed (R106).  The failures of the members come in the order of
`State.voidMembers` and before those of the waiting jobs, which are R106's steps 3 and 4. -/
def State.voidTitle (s : State) (w : Work) (start : Nat) : State :=
  let s := (s.voidEntry w start).raise (.titleVoid w)
  let ms := s.voidMembers w
  ((s.abortAll ms).titleVoidFailures (ms.map fun p => p.2.job.loan)).voidJobs w

/-- STORE_BLOCK_READ_END: the block read in progress ends with its block and the result of the store's check
(R100 to R102, R106).  DESIGN CHOICE: the arbiter's next grant comes before the tests that end the event, so that a request
already pending is granted before the read of block 1 is asked for by a gang that this event's freed buffers let dispatch;
R99 and R100 do not order the two (log entry 36). -/
def execStoreBlockReadEnd (block : List Byte) (good : Bool) (w : RecordWrite) (s : State) : Answer :=
  .next <|
    match s.copy.current with
    | some (b, .read work start _) =>
      let s := s.storeFree
      let s := if good then s.blockLoaded b block else s.voidTitle work start
      finish w (s.drainBuffer b).grant
    | _ => s

/-- A block write has ended for the ingest that owns the buffer (R122, R123). -/
def State.blockWritten (s : State) (b : Fin 4) (written : Bool) : State :=
  match (s.buffer b).owner with
  | .ingest n =>
    match (s.socket n).state with
    | .ingesting i => s.ingestWritten n i written
    | _ => s
  | _ => s

/-- STORE_BLOCK_WRITE_END: the block write in progress ends, written or failed (R100, R101, R122, R123).  DESIGN CHOICE: the
arbiter's next grant comes before the dispatches of this event, as at the end of a read (log entry 36). -/
def execStoreBlockWriteEnd (written : Bool) (w : RecordWrite) (s : State) : Answer :=
  .next <|
    match s.copy.current with
    | some (b, .write _) => finish w ((s.storeFree.blockWritten b written).drainBuffer b).grant
    | _ => s

end Sys2Proof.Machine
end

