-- ==== Sys2Proof/Machine/BenchOps.lean ====
section
/-! DEFINITION. The bench: what each command's owner does with it (R58, R69, R70, R126, R129, R132, R150, R156 to R160),
the SHOW lines (R170 to R172), and the text of a notice line (R168, R173). -/

namespace Sys2Proof.Machine

/-- A command is refused with a REFUSED notice naming the reason and the command word (R173). -/
def State.refuse (s : State) (why : RefuseReason) (command : String) : State := s.raise (.refused why command)

/-- The record of the loan a bench line names (R169). -/
def State.benchLoan? (s : State) (l : BenchLoan) : Option Loan := (benchLoanNumber l).bind s.loan?

/-! ### PACK (R156 to R158) -/

/-- The group of a loan's postal zone (R153). -/
def State.groupOf (s : State) (l : Loan) : Idx8 := s.cfg.zoneMap[l.zone.toFin]

/-- A READY loan joins its group's tray, which closes or opens as R157 gives, or is refused with TRAYS-FULL, a tray
closed at step 1 staying closed (R156 to R158). -/
def State.packReady (s : State) (l : Loan) (c : Container) : State :=
  let g := s.groupOf l
  let t := s.closeFull g l.mailUnits
  if (t.fillingTray? g).isSome then t.joinTray l c g
  else
    match t.openTray g with
    | some u => u.joinTray l c g
    | none => t.refuse .traysFull "PACK"

/-- PACK loan container (R156). -/
def State.pack (s : State) (loan : BenchLoan) (container : Nat) : State :=
  match s.benchLoan? loan with
  | none => s.refuse .noLoan "PACK"
  | some l =>
    if container = 0 ∨ 65535 < container then s.refuse .range "PACK"
    else if l.state ≠ .ready then s.refuse .state "PACK"
    else s.packReady l (BitVec.ofNat 16 container)

/-! ### PICK, BACK, NOCART, NOSET (R58, R69, R70, R150) -/

/-- The loan is in CLAIMED with its braille part PLEDGED, and then the set it names. -/
def Loan.pledgedSet (l : Loan) : Option Work :=
  match l.braille with
  | some ⟨w, .pledged⟩ => if l.state = .claimed then some w else none
  | _ => none

/-- PICK loan (R58). -/
def State.pick (s : State) (loan : BenchLoan) : State :=
  match s.benchLoan? loan with
  | none => s.refuse .noLoan "PICK"
  | some l =>
    match l.pledgedSet with
    | none => s.refuse .state "PICK"
    | some w =>
      ((s.modLoan l.number fun l => { l with braille := some ⟨w, .picked⟩ }).modSet w SetRec.pick).readinessTest
        l.number

/-- A braille return accepted at the bench (R150). -/
def State.brailleReturn (s : State) (l : Loan) (w : Work) : State :=
  let s := (s.modLoan l.number fun l => { l with braille := some ⟨w, .back⟩ }).recoveryNotice l
  ((s.modSet w SetRec.reshelve).brailleGain w).closeTest l.number

/-- BACK loan (R150). -/
def State.back (s : State) (loan : BenchLoan) : State :=
  if s.isOwnByte loan.station = false then s.refuse .notOwn "BACK"
  else
    match s.benchLoan? loan with
    | none => s.refuse .noLoan "BACK"
    | some l =>
      match l.braille with
      | some ⟨w, .picked⟩ => if l.out then s.brailleReturn l w else s.refuse .state "BACK"
      | _ => s.refuse .state "BACK"

/-- NOCART loan (R69). -/
def State.nocart (s : State) (loan : BenchLoan) : State :=
  match s.benchLoan? loan with
  | none => s.refuse .noLoan "NOCART"
  | some l =>
    match l.cart with
    | some ⟨.reissue, .queued, _⟩ =>
      if l.state = .claimed then (s.dropIssuing l.number).fallback l else s.refuse .state "NOCART"
    | _ => s.refuse .state "NOCART"

/-- NOSET loan (R70). -/
def State.noset (s : State) (loan : BenchLoan) : State :=
  match s.benchLoan? loan with
  | none => s.refuse .noLoan "NOSET"
  | some l =>
    match l.pledgedSet with
    | none => s.refuse .state "NOSET"
    | some w => (s.loseSet w).release l.number .stockMissing ⟨false, true⟩

/-! ### SHELVE, DROP, SET (R126, R129, R132) -/

/-- SHELVE serial shelf (R129). -/
def State.shelve (s : State) (serial shelf : Nat) : State :=
  if shelf = 0 ∨ 65535 < shelf then s.refuse .range "SHELVE"
  else
    match s.stock? (BitVec.ofNat 32 serial) with
    | none => s.refuse .noStock "SHELVE"
    | some r => s.modStock r.serial fun r => { r with shelf := some (BitVec.ofNat 16 shelf) }

/-- The title and edition two bench fields name, none where one is above its range. -/
def benchWork (title edition : Nat) : Option Work :=
  if title ≤ 1048575 ∧ edition ≤ 15 then some ⟨BitVec.ofNat 20 title, BitVec.ofNat 4 edition⟩ else none

/-- DROP title edition (R126). -/
def State.drop (s : State) (title edition : Nat) : State :=
  match (benchWork title edition).bind s.dir? with
  | none => s.refuse .noTitle "DROP"
  | some d =>
    if d.state = .loading ∨ 0 < s.users d.work then s.refuse .inUse "DROP"
    else if d.state = .valid then (s.dropDir d.work).titleVoid d.work
    else s.dropDir d.work

/-- SET title edition volumes copies (R132). -/
def State.installSet (s : State) (title edition volumes copies : Nat) : State :=
  match benchWork title edition with
  | none => s.refuse .range "SET"
  | some w =>
    if title = 0 ∨ volumes = 0 ∨ 40 < volumes ∨ copies = 0 ∨ 15 < copies then s.refuse .range "SET"
    else
      match s.set? w with
      | some r =>
        if volumes ≠ r.volumes then s.refuse .mismatch "SET"
        else if 15 < r.held + copies then s.refuse .range "SET"
        else (s.modSet w fun r => { r with held := r.held + copies, onShelf := r.onShelf + copies }).brailleGain w
      | none =>
        if 128 ≤ s.tables.sets.length then s.refuse .tableFull "SET"
        else
          let r : SetRec := ⟨w, volumes, copies, copies, 0⟩
          let t : State := { s with tables := { s.tables with sets := s.tables.sets ++ [r] } }
          t.brailleGain w

/-! ### DISPATCH (R160 to R162) -/

/-- Whether a DISPATCH takes a tray (R160). -/
def Tray.dispatchable (x : Tray) : Bool :=
  !x.loans.isEmpty &&
    (x.state == .closed || (x.state == .filling && (x.urgent || decide (x.threshold ≤ x.load))))

/-- The trays a DISPATCH takes, in ascending record number. -/
def State.dispatchable (s : State) : List (Fin 16 × Tray) :=
  allTrays.filterMap fun r => (s.tray r).bind fun x => if x.dispatchable then some (r, x) else none

/-- A tray taken goes to DISPATCHING and joins the tail of the dispatch line, with its notice (R160, R161). -/
def State.takeTray (s : State) (p : Fin 16 × Tray) : State :=
  let s := s.setTray p.1 (some { p.2 with state := .dispatching })
  let s := { s with tables := { s.tables with dispatchLine := s.tables.dispatchLine ++ [p.1] } }
  s.raise (.dispatched (some p.2.number) p.2.group.val p.2.loans.length)

/-- DISPATCH (R160); the first tray on an empty line brings an offer (R162).  R162 has each accepted offer followed by
another and does not say whether the next one is an event of its own: the model makes all the offers that are accepted
within the DISPATCH's own event (DESIGN CHOICE, log entry 10). -/
def State.dispatch (s : State) : State :=
  if s.tables.day == 0 then s.raise .noDate
  else
    match s.dispatchable with
    | [] => s.raise (.dispatched none 0 0)
    | p :: ps =>
      let t := (p :: ps).foldl State.takeTray s
      if s.tables.dispatchLine.isEmpty then t.trayOffer 17 else t

/-! ### SHOW SOCKETS (R170) -/

def roleWord : Role → String
  | .off => "OFF"
  | .copy => "COPY"
  | .intake => "INTAKE"

def RejectReason.word : RejectReason → String
  | .foreign => "FOREIGN"
  | .quarantined => "QUARANTINED"
  | .worn => "WORN"
  | .badMaster => "BAD-MASTER"
  | .masterNotNeeded => "MASTER-NOT-NEEDED"
  | .titleInUse => "TITLE-IN-USE"
  | .directoryFull => "DIRECTORY-FULL"
  | .storeFull => "STORE-FULL"

def SockState.word : SockState → String
  | .empty => "EMPTY"
  | .identifying _ => "IDENTIFYING"
  | .rejected _ => "REJECTED"
  | .fault => "FAULT"
  | .blank _ => "BLANK"
  | .cleaning _ => "CLEANING"
  | .copying _ => "COPYING"
  | .finishing _ => "FINISHING"
  | .aborting => "ABORTING"
  | .done _ => "DONE"
  | .tagging _ _ => "TAGGING"
  | .ingesting _ => "INGESTING"
  | .checking _ => "CHECKING"
  | .erasing _ _ _ => "ERASING"
  | .kept _ => "KEPT"

/-- The last block an erase has cleared. -/
def EraseStep.cleared (last : Nat) : EraseStep → Nat
  | .sector => 0
  | .block b => b - 1
  | .marker => last

/-- A loan field, or 0 where there is none. -/
def loanOrZero : Option LoanNo → Field
  | some l => .loan l
  | none => .num 0

/-- The fields of a title and edition. -/
def workFields (w : Work) : List Field := [.num w.title.toNat, .num w.edition.toNat]

/-- The capacity in blocks of the cartridge a socket holds. -/
def State.capacityAt (s : State) (n : Idx8) : Nat :=
  match (s.socket n).view with
  | some v => v.capacity.blocks
  | none => 0

/-- The detail the socket's state calls for (R170); a DONE socket always shows its loan, and never 0 (DESIGN CHOICE, log
entry 31). -/
def State.socketDetail (s : State) (n : Idx8) : List Field :=
  match (s.socket n).state with
  | .rejected why => [.word why.word]
  | .blank clean => [.word (if clean then "CLEAN" else "DIRTY"), .num (s.capacityAt n)]
  | .cleaning step => [.num (step.cleared (s.lastBlock n)), .num (s.lastBlock n)]
  | .copying m => [.loan m.job.loan, .num (s.blocksDone m), .num m.job.len]
  | .finishing m => [.loan m.job.loan]
  | .done loan => [.loan loan]
  | .tagging loan _ => [.loan loan]
  | .ingesting i => workFields i.work ++ [.num (i.index - 1), .num (((s.dir? i.work).map (·.len)).getD 0)]
  | .checking c =>
    [.word (if c.mode = .noLoan then "NO-LOAN" else "RETURN"), loanOrZero c.loan,
      .num (match c.phase with
        | .verify i _ => i - 1
        | _ => 0)]
  | .erasing _ last step => [.num (step.cleared last), .num last]
  | .kept _ =>
    match (s.socket n).view with
    | some v => workFields v.work
    | none => []
  | _ => []

/-- The SOCKET line of one socket (R170); in LISTEN it shows role OFF and state EMPTY. -/
def State.socketLine (s : State) (n : Idx8) : Notice :=
  if s.line.state = .listen then .line "SOCKET" [.num n.val, .word "OFF", .word "EMPTY", .num 0]
  else
    .line "SOCKET"
      ([.num n.val, .word (roleWord (s.role n)), .word (s.socket n).state.word, .num (s.serialAt n).toNat] ++
        s.socketDetail n)

/-- SHOW SOCKETS (R170). -/
def State.showSockets (s : State) : State := allSockets.foldl (fun t n => t.raise (s.socketLine n)) s

/-! ### SHOW TRAYS (R171) -/

def TrayState.word : TrayState → String
  | .filling => "FILLING"
  | .closed => "CLOSED"
  | .dispatching => "DISPATCHING"

/-- The tray's place on the dispatch line, counted from 1. -/
def State.linePlace (s : State) (r : Fin 16) : Nat :=
  if s.tables.dispatchLine.contains r then s.tables.dispatchLine.idxOf r + 1 else 0

/-- The TRAY line of one record (R171). -/
def State.trayLine (s : State) (r : Fin 16) (x : Tray) : Notice :=
  .line "TRAY"
    [.num r.val, .num x.number.toNat, .num x.group.val, .word x.state.word, .num x.load, .num x.loans.length,
      .num (if x.state = .filling then (s.time.sec - x.opened).toNat else 0), .num x.urgent.toNat,
      .num (if x.state = .dispatching then s.linePlace r else 0)]

/-- The TRAYS line (R171). -/
def State.traysLine (s : State) : Notice :=
  .line "TRAYS"
    [.num s.tables.day.toNat, .num (allTrays.filter fun r => (s.tray r).isNone).length, .num s.tables.nextTray.toNat]

/-- SHOW TRAYS (R171). -/
def State.showTrays (s : State) : State :=
  allTrays.foldl
    (fun t r => match s.tray r with
      | some x => t.raise (s.trayLine r x)
      | none => t) (s.raise s.traysLine)

/-! ### SHOW LOAN (R172) -/

def LoanState.word : LoanState → String
  | .claimed => "CLAIMED"
  | .ready => "READY"
  | .packed => "PACKED"
  | .shipped => "SHIPPED"
  | .overdue => "OVERDUE"
  | .lost => "LOST"

def Format.word : Format → String
  | .cartridge => "CARTRIDGE"
  | .braille => "BRAILLE"
  | .both => "BOTH"

def CartPath.word : CartPath → String
  | .copy => "COPY"
  | .reissue => "REISSUE"

def CartStatus.word : CartStatus → String
  | .queued => "QUEUED"
  | .copying => "COPYING"
  | .ready _ => "READY"
  | .back => "BACK"

def BrailleStatus.word : BrailleStatus → String
  | .pledged => "PLEDGED"
  | .picked => "PICKED"
  | .back => "BACK"

/-- A field of a value, or a hyphen where the loan lacks it. -/
def optField {α : Type} (f : α → Field) : Option α → Field
  | some a => f a
  | none => .hyphen

/-- A shelf code, or NONE. -/
def shelfField : Option Shelf → Field
  | some x => .num x.toNat
  | none => .word "NONE"

/-- The serial and shelf code fields: those of the record in ISSUING for a REISSUE part not yet READY (R172). -/
def State.serialFields (s : State) (l : Loan) : List Field :=
  match l.cart with
  | some ⟨_, .ready x, _⟩ => [.num x.toNat, .hyphen]
  | some ⟨.reissue, _, _⟩ =>
    match s.issuing? l.number with
    | some r => [.num r.serial.toNat, shelfField r.shelf]
    | none => [.hyphen, .hyphen]
  | _ => [.hyphen, .hyphen]

/-- The LOAN line (R172). -/
def State.loanLine (s : State) (l : Loan) : Notice :=
  .line "LOAN"
    ([.loan l.number, .num l.order.toNat, .word l.state.word, .word l.format.word,
      optField (fun c => .word c.path.word) l.cart, optField (fun c => .word c.status.word) l.cart] ++
      s.serialFields l ++
      [optField (fun b => .word b.status.word) l.braille, optField (fun t => .num t.toNat) l.tray,
        optField (fun d => .num d.toNat) l.dueDay])

/-- SHOW LOAN loan (R172). -/
def State.showLoan (s : State) (loan : BenchLoan) : State :=
  match s.benchLoan? loan with
  | none => s.refuse .noLoan "SHOW LOAN"
  | some l => s.raise (s.loanLine l)

/-! ### The text of a notice (R168, R173) -/

/-- A number in decimal digits (00_scope.md, "Bench lines"). -/
def numText (n : Nat) : String := toString n

/-- A loan number as its station field and its sequence joined by a full stop. -/
def loanText (l : LoanNo) : String := numText (stationField l).toNat ++ "." ++ numText (sequenceField l).toNat

def Field.text : Field → String
  | .num n => numText n
  | .loan l => loanText l
  | .word t => t
  | .hyphen => "-"

def ConfigCause.word : ConfigCause → String
  | .noImage => "NO-IMAGE"
  | .signature => "SIGNATURE"
  | .check => "CHECK"
  | .station => "STATION"
  | .stationMismatch => "STATION-MISMATCH"
  | .records => "RECORDS"

def RefuseReason.word : RefuseReason → String
  | .long => "LONG"
  | .form => "FORM"
  | .unknown => "UNKNOWN"
  | .listen => "LISTEN"
  | .starting => "STARTING"
  | .noLoan => "NO-LOAN"
  | .state => "STATE"
  | .range => "RANGE"
  | .traysFull => "TRAYS-FULL"
  | .notOwn => "NOT-OWN"
  | .inUse => "IN-USE"
  | .noTitle => "NO-TITLE"
  | .noStock => "NO-STOCK"
  | .mismatch => "MISMATCH"
  | .tableFull => "TABLE-FULL"

/-- A notice's kind word and its fields, in the order of R173.  R173 omits the command word of a REFUSED notice for LONG;
where the command word of another refused line is empty, as of a bad line with no character kept or of a line that begins
with a space, the model omits the field too (DESIGN CHOICE, log entry 24). -/
def Notice.fields : Notice → String × List Field
  | .copyReady n l x => ("COPY-READY", [.num n.val, .loan l, .num x.toNat])
  | .fetch l x k => ("FETCH", [.loan l, .num x.toNat, shelfField k])
  | .pickSet l w v => ("PICK-SET", [.loan l] ++ workFields w ++ [.num v])
  | .reshelve w => ("RESHELVE", workFields w)
  | .reinsert x l => ("REINSERT", [.num x.toNat, .loan l])
  | .pull c t => ("PULL", [.num c.toNat, .num t.toNat])
  | .trayClosed t g u k => ("TRAY-CLOSED", [.num t.toNat, .num g.val, .num u, .num k])
  | .dispatched (some t) g k => ("DISPATCHED", [.num t.toNat, .num g, .num k])
  | .dispatched none g k => ("DISPATCHED", [.word "NONE", .num g, .num k])
  | .socketFault n x => ("SOCKET-FAULT", [.num n.val, .num x.toNat])
  | .rejected n x why => ("REJECTED", [.num n.val, .num x.toNat, .word why.word])
  | .kept n x w u => ("KEPT", [.num n.val, .num x.toNat] ++ workFields w ++ [.num u])
  | .erased n x => ("ERASED", [.num n.val, .num x.toNat])
  | .ingested w k => ("INGESTED", workFields w ++ [.num k])
  | .titleVoid w => ("TITLE-VOID", workFields w)
  | .lineMuted => ("LINE-MUTED", [])
  | .rxOverrun => ("RX-OVERRUN", [])
  | .configInvalid c => ("CONFIG-INVALID", [.word c.word])
  | .noDate => ("NO-DATE", [])
  | .refused why command => ("REFUSED", .word why.word :: if command = "" then [] else [.word command])
  | .line kind fs => (kind, fs)

/-- A notice's line, without its carriage return: its words joined by single spaces (R168). -/
def Notice.text (x : Notice) : String := x.fields.2.foldl (fun t f => t ++ " " ++ f.text) x.fields.1

/-- The characters sent for a notice: LOST and a space first where notices were lost, and a carriage return last
(R168, R173). -/
def noticeBytes (lost : Bool) (x : Notice) : List Byte :=
  (if lost then ascii "LOST " else []) ++ ascii x.text ++ [13]

end Sys2Proof.Machine
end

