-- ==== Sys2Proof/Machine/BenchFamily.lean ====
section
/-! DEFINITION. The meanings of the bench's commands: BENCH_CHARACTER_RECEIVED, BENCH_LINE_REFUSED, the command lines
PACK to SHOW_LOAN, NOTICE_SEND, and TRAY_AGE_EXPIRY (chapters 9 and 10). -/

namespace Sys2Proof.Machine

/-- A command of the bench other than RESET, with its fields (R169). -/
inductive BenchCommand where
  | pack (loan : BenchLoan) (container : Nat)
  | pick (loan : BenchLoan)
  | back (loan : BenchLoan)
  | shelve (serial shelf : Nat)
  | nocart (loan : BenchLoan)
  | noset (loan : BenchLoan)
  | dispatch
  | drop (title edition : Nat)
  | set (title edition volumes copies : Nat)
  | showSockets
  | showTrays
  | showLoan (loan : BenchLoan)
  | reset
  deriving DecidableEq, Repr

/-! ### Reading a line (R169) -/

/-- The runs of characters between the separators. -/
def splitBytes (sep : Byte) : List Byte → List (List Byte)
  | [] => [[]]
  | b :: bs =>
    match splitBytes sep bs with
    | [] => [[]]
    | p :: ps => if b = sep then [] :: p :: ps else (b :: p) :: ps

/-- A digit's value. -/
def digitOf (b : Byte) : Option Nat := if 48 ≤ b.toNat ∧ b.toNat ≤ 57 then some (b.toNat - 48) else none

/-- The number a run of digits writes. -/
def digitsValue : Nat → List Byte → Option Nat
  | acc, [] => some acc
  | acc, b :: bs => (digitOf b).bind fun d => digitsValue (10 * acc + d) bs

/-- A group of 1 to 10 digits that is not above 4,294,967,295 (R169). -/
def groupOfDigits (bs : List Byte) : Option Nat :=
  if 1 ≤ bs.length ∧ bs.length ≤ 10 then
    (digitsValue 0 bs).bind fun n => if n ≤ 4294967295 then some n else none
  else none

/-- A loan field: two groups of digits joined by a full stop (R169). -/
def loanField (bs : List Byte) : Option BenchLoan :=
  match splitBytes 46 bs with
  | [a, b] => (groupOfDigits a).bind fun x => (groupOfDigits b).map fun y => ⟨x, y⟩
  | _ => none

/-- A command whose one field is a loan. -/
def loanCommand (f : BenchLoan → BenchCommand) : List (List Byte) → Option BenchCommand
  | [l] => (loanField l).map f
  | _ => none

/-- A command of two numbers. -/
def pairCommand (f : Nat → Nat → BenchCommand) : List (List Byte) → Option BenchCommand
  | [a, b] => (groupOfDigits a).bind fun x => (groupOfDigits b).map fun y => f x y
  | _ => none

/-- PACK's fields. -/
def packCommand : List (List Byte) → Option BenchCommand
  | [l, c] => (loanField l).bind fun x => (groupOfDigits c).map fun y => .pack x y
  | _ => none

/-- SET's fields. -/
def setCommand : List (List Byte) → Option BenchCommand
  | [a, b, c, d] =>
    (groupOfDigits a).bind fun t => (groupOfDigits b).bind fun e => (groupOfDigits c).bind fun v =>
      (groupOfDigits d).map fun k => .set t e v k
  | _ => none

/-- A command without fields. -/
def bareCommand (c : BenchCommand) : List (List Byte) → Option BenchCommand
  | [] => some c
  | _ => none

/-- The words of SHOW, up to its second (R169).  DESIGN CHOICE: after two spaces, or one that ends the line, the second
word is empty, and so matches none (log entry 24). -/
def showCommand : List (List Byte) → Option (Option BenchCommand)
  | [] => none
  | w :: fs =>
    if w = ascii "SOCKETS" then some (bareCommand .showSockets fs)
    else if w = ascii "TRAYS" then some (bareCommand .showTrays fs)
    else if w = ascii "LOAN" then some (loanCommand .showLoan fs)
    else none

/-- A line's words: none where the command word is unknown, and then none within where the form is wrong (R169). -/
def commandOf : List (List Byte) → Option (Option BenchCommand)
  | [] => none
  | w :: fs =>
    if w = ascii "PACK" then some (packCommand fs)
    else if w = ascii "PICK" then some (loanCommand .pick fs)
    else if w = ascii "BACK" then some (loanCommand .back fs)
    else if w = ascii "SHELVE" then some (pairCommand .shelve fs)
    else if w = ascii "NOCART" then some (loanCommand .nocart fs)
    else if w = ascii "NOSET" then some (loanCommand .noset fs)
    else if w = ascii "DISPATCH" then some (bareCommand .dispatch fs)
    else if w = ascii "DROP" then some (pairCommand .drop fs)
    else if w = ascii "SET" then some (setCommand fs)
    else if w = ascii "RESET" then some (bareCommand .reset fs)
    else if w = ascii "SHOW" then showCommand fs
    else none

/-- The text of a run of characters. -/
def textOf (bs : List Byte) : String := String.ofList (bs.map fun b => Char.ofNat b.toNat)

/-- The command word of a line: the characters up to its first space, or its first two words for SHOW (R169).  DESIGN
CHOICE: SHOW before two spaces, or before one that ends the line, has an empty second word, and its command word ends in
the space (log entry 24). -/
def commandWord (line : List Byte) : String :=
  match splitBytes 32 line with
  | [] => ""
  | [w] => textOf w
  | w :: v :: _ => if w = ascii "SHOW" then textOf w ++ " " ++ textOf v else textOf w

/-! ### The tests before the owner (R167, R169) -/

/-- The commands that LISTEN does not refuse (R169). -/
def listenAllows (word : String) : Bool :=
  word == "SHOW SOCKETS" || word == "SHOW TRAYS" || word == "SHOW LOAN" || word == "RESET"

/-- The refusal before start ends, of any command other than RESET (R169, test 1). -/
def State.startRefuses (s : State) (word : String) : Bool := s.start.phase != .running && word != "RESET"

/-- The refusal in LISTEN (R169, test 3). -/
def State.listenRefuses (s : State) (word : String) : Bool := s.line.state == .listen && !listenAllows word

/-- What the Bench Port makes of the line in its buffer at the carriage return: a refusal with the command word it
names, a command, or nothing for an empty line (R167, R169). -/
def State.lineOutcome (s : State) : Except (RefuseReason × String) (Option BenchCommand) :=
  let word := commandWord s.bench.buffer
  if 0 < s.bench.extra then .error (.long, "")
  else if s.bench.bad then .error (.form, word)
  else if s.bench.buffer = [] then .ok none
  else if s.startRefuses word then .error (.starting, word)
  else
    match commandOf (splitBytes 32 s.bench.buffer) with
    | none => .error (.unknown, word)
    | some c =>
      if s.listenRefuses word then .error (.listen, word)
      else
        match c with
        | none => .error (.form, word)
        | some c => .ok (some c)

/-- The input line buffer is emptied for the next line (R167). -/
def State.emptyBuffer (s : State) : State :=
  { s with bench := { s.bench with buffer := [], extra := 0, bad := false } }

/-! ### The owners (R169) -/

/-- A command that writes records goes to its owner, and the event ends. -/
def State.owned (s : State) (w : RecordWrite) (f : State → State) : State := finish w (f s)

/-- The tests of R169 that a command line's word can fail, before its owner takes it as one event. -/
def State.tested (s : State) (word : String) (f : State → State) : State :=
  if s.startRefuses word then s.emptyBuffer.refuse .starting word
  else if s.listenRefuses word then s.emptyBuffer.refuse .listen word
  else f s.emptyBuffer

/-- The owner of a command takes it (R169). -/
def State.runCommand (s : State) (w : RecordWrite) : BenchCommand → State
  | .pack l c => s.tested "PACK" (·.owned w (·.pack l c))
  | .pick l => s.tested "PICK" (·.owned w (·.pick l))
  | .back l => s.tested "BACK" (·.owned w (·.back l))
  | .shelve x k => s.tested "SHELVE" (·.owned w (·.shelve x k))
  | .nocart l => s.tested "NOCART" (·.owned w (·.nocart l))
  | .noset l => s.tested "NOSET" (·.owned w (·.noset l))
  | .dispatch => s.tested "DISPATCH" (·.owned w (·.dispatch))
  | .drop t e => s.tested "DROP" (·.owned w (·.drop t e))
  | .set t e v k => s.tested "SET" (·.owned w (·.installSet t e v k))
  | .showSockets => s.tested "SHOW SOCKETS" (·.showSockets)
  | .showTrays => s.tested "SHOW TRAYS" (·.showTrays)
  | .showLoan l => s.tested "SHOW LOAN" (·.showLoan l)
  | .reset => s.afterReset

/-- PACK loan container (R156 to R158, R169). -/
def execPack (loan : BenchLoan) (container : Nat) (w : RecordWrite) (s : State) : Answer :=
  .next (s.tested "PACK" (·.owned w (·.pack loan container)))

/-- PICK loan (R58, R169). -/
def execPick (loan : BenchLoan) (w : RecordWrite) (s : State) : Answer :=
  .next (s.tested "PICK" (·.owned w (·.pick loan)))

/-- BACK loan (R150, R169). -/
def execBack (loan : BenchLoan) (w : RecordWrite) (s : State) : Answer :=
  .next (s.tested "BACK" (·.owned w (·.back loan)))

/-- SHELVE serial shelf (R129, R169). -/
def execShelve (serial shelf : Nat) (w : RecordWrite) (s : State) : Answer :=
  .next (s.tested "SHELVE" (·.owned w (·.shelve serial shelf)))

/-- NOCART loan (R69, R169). -/
def execNocart (loan : BenchLoan) (w : RecordWrite) (s : State) : Answer :=
  .next (s.tested "NOCART" (·.owned w (·.nocart loan)))

/-- NOSET loan (R70, R169). -/
def execNoset (loan : BenchLoan) (w : RecordWrite) (s : State) : Answer :=
  .next (s.tested "NOSET" (·.owned w (·.noset loan)))

/-- DISPATCH (R160 to R162, R169). -/
def execDispatch (w : RecordWrite) (s : State) : Answer := .next (s.tested "DISPATCH" (·.owned w (·.dispatch)))

/-- DROP title edition (R126, R169). -/
def execDrop (title edition : Nat) (w : RecordWrite) (s : State) : Answer :=
  .next (s.tested "DROP" (·.owned w (·.drop title edition)))

/-- SET title edition volumes copies (R132, R169). -/
def execSet (title edition volumes copies : Nat) (w : RecordWrite) (s : State) : Answer :=
  .next (s.tested "SET" (·.owned w (·.installSet title edition volumes copies)))

/-- SHOW SOCKETS (R169, R170). -/
def execShowSockets (s : State) : Answer := .next (s.tested "SHOW SOCKETS" (·.showSockets))

/-- SHOW TRAYS (R169, R171). -/
def execShowTrays (s : State) : Answer := .next (s.tested "SHOW TRAYS" (·.showTrays))

/-- SHOW LOAN loan (R169, R172). -/
def execShowLoan (loan : BenchLoan) (s : State) : Answer := .next (s.tested "SHOW LOAN" (·.showLoan loan))

/-! ### Characters and refused lines (R167) -/

/-- The carriage return ends the line in the buffer. -/
def State.endLine (s : State) (w : RecordWrite) : State :=
  match s.lineOutcome with
  | .error (why, word) => s.emptyBuffer.refuse why word
  | .ok none => s.emptyBuffer
  | .ok (some c) => s.emptyBuffer.runCommand w c

/-- A mark: the line is bad (R167). -/
def State.markBad (s : State) : State := { s with bench := { s.bench with bad := true } }

/-- A printable character joins the buffer, or is counted once the buffer holds 40 (R167). -/
def State.keepCharacter (s : State) (b : Byte) : State :=
  if s.bench.buffer.length < 40 then { s with bench := { s.bench with buffer := s.bench.buffer ++ [b] } }
  else { s with bench := { s.bench with extra := s.bench.extra + 1 } }

/-- BENCH_CHARACTER_RECEIVED: a character of the bench line is taken; a carriage return ends the line, which is refused,
run, or ignored when it is empty (R167, R169).  A carriage return or a line feed received with a framing error falls under
two of the rules of R167; the model marks the line bad and neither ends it nor discards the character without a mark
(DESIGN CHOICE, log entry 29). -/
def execBenchCharacterReceived (code : Byte) (framing : Bool) (w : RecordWrite) (s : State) : Answer :=
  .next <|
    if framing then s.markBad
    else if code = 13 then s.endLine w
    else if code = 10 then s
    else if 32 ≤ code.toNat ∧ code.toNat ≤ 126 then s.keepCharacter code
    else s.markBad

/-- BENCH_LINE_REFUSED: the carriage return of a line that the Bench Port refuses (R167, R169). -/
def execBenchLineRefused (s : State) : Answer :=
  .next <|
    match s.lineOutcome with
    | .error (why, word) => s.emptyBuffer.refuse why word
    | .ok _ => s

/-! ### Notices and tray ages (R159, R168, R173) -/

/-- NOTICE_SEND: the head notice leaves the queue and is sent (R168, R173). -/
def execNoticeSend (s : State) : Answer :=
  .next <|
    match s.bench.notices with
    | [] => s
    | x :: xs =>
      { s with bench := { s.bench with notices := xs, lost := false, sent := noticeBytes s.bench.lost x } }

/-- The age of a tray has reached its maximum (R159). -/
def State.aged (s : State) (x : Tray) : Bool :=
  x.state == .filling && decide (x.maxAge * 3600 ≤ (s.time.sec - x.opened).toNat)

/-- TRAY_AGE_EXPIRY: a FILLING tray reaches its maximum age and closes, or is freed when it is empty; tray ages run from
the end of start on (R159, R174). -/
def execTrayAgeExpiry (r : Fin 16) (w : RecordWrite) (s : State) : Answer :=
  .next <|
    match s.tray r with
    | some x =>
      if s.start.phase = .running ∧ s.aged x = true then
        finish w (if x.loans.isEmpty then s.setTray r none else s.closeTray r x)
      else s
    | none => s

end Sys2Proof.Machine
end

