-- ==== Sys2Proof/Machine/Dispatch.lean ====
section
/-! DEFINITION. The dispatch of a command to its meaning: one arm for each row of spec/opcode_table.json. -/

namespace Sys2Proof.Machine

def exec (i : Instr) (s : State) : Host.Outcome State Fault Refusal :=
  match i with
  | .powerOnReset => Sys2Proof.Machine.execPowerOnReset s
  | .reset => Sys2Proof.Machine.execReset s
  | .configRead bytes => Sys2Proof.Machine.execConfigRead bytes s
  | .recordMemoryOpen storeSize => Sys2Proof.Machine.execRecordMemoryOpen storeSize s
  | .recovery => Sys2Proof.Machine.execRecovery s
  | .frameReceived wave => Sys2Proof.Machine.execFrameReceived wave s
  | .receiveError e => Sys2Proof.Machine.execReceiveError e s
  | .order => Sys2Proof.Machine.execOrder s
  | .bidHeard w => Sys2Proof.Machine.execBidHeard w s
  | .heldHeard w => Sys2Proof.Machine.execHeldHeard w s
  | .shippedHeard w => Sys2Proof.Machine.execShippedHeard w s
  | .releaseHeard w => Sys2Proof.Machine.execReleaseHeard w s
  | .cancel w => Sys2Proof.Machine.execCancel w s
  | .date w => Sys2Proof.Machine.execDate w s
  | .returnedHeard w => Sys2Proof.Machine.execReturnedHeard w s
  | .transmitStart => Sys2Proof.Machine.execTransmitStart s
  | .lostArbitration e => Sys2Proof.Machine.execLostArbitration e s
  | .transmitFailure wave w => Sys2Proof.Machine.execTransmitFailure wave w s
  | .transmitSuccess e => Sys2Proof.Machine.execTransmitSuccess e s
  | .joiningIdle => Sys2Proof.Machine.execJoiningIdle s
  | .muteExpiry underWay => Sys2Proof.Machine.execMuteExpiry underWay s
  | .windowExpiry order w => Sys2Proof.Machine.execWindowExpiry order w s
  | .dayScanVisit w => Sys2Proof.Machine.execDayScanVisit w s
  | .cartridgeInsertion n => Sys2Proof.Machine.execCartridgeInsertion n s
  | .identifyLimitExpiry n => Sys2Proof.Machine.execIdentifyLimitExpiry n s
  | .cartridgeRemoval n w => Sys2Proof.Machine.execCartridgeRemoval n w s
  | .readCompletion n bytes w => Sys2Proof.Machine.execReadCompletion n bytes w s
  | .stateCompletion n answer e => Sys2Proof.Machine.execStateCompletion n answer e s
  | .pollLimitExpiry n e => Sys2Proof.Machine.execPollLimitExpiry n e s
  | .holdTimeout n e => Sys2Proof.Machine.execHoldTimeout n e s
  | .storeBlockReadEnd block good w => Sys2Proof.Machine.execStoreBlockReadEnd block good w s
  | .storeBlockWriteEnd written w => Sys2Proof.Machine.execStoreBlockWriteEnd written w s
  | .trayAgeExpiry r w => Sys2Proof.Machine.execTrayAgeExpiry r w s
  | .noticeSend => Sys2Proof.Machine.execNoticeSend s
  | .benchLineRefused => Sys2Proof.Machine.execBenchLineRefused s
  | .pack loan container w => Sys2Proof.Machine.execPack loan container w s
  | .pick loan w => Sys2Proof.Machine.execPick loan w s
  | .back loan w => Sys2Proof.Machine.execBack loan w s
  | .shelve serial shelf w => Sys2Proof.Machine.execShelve serial shelf w s
  | .nocart loan w => Sys2Proof.Machine.execNocart loan w s
  | .noset loan w => Sys2Proof.Machine.execNoset loan w s
  | .dispatch w => Sys2Proof.Machine.execDispatch w s
  | .drop title edition w => Sys2Proof.Machine.execDrop title edition w s
  | .set title edition volumes copies w => Sys2Proof.Machine.execSet title edition volumes copies w s
  | .showSockets => Sys2Proof.Machine.execShowSockets s
  | .showTrays => Sys2Proof.Machine.execShowTrays s
  | .showLoan loan => Sys2Proof.Machine.execShowLoan loan s
  | .lineIdle => Sys2Proof.Machine.execLineIdle s
  | .benchCharacterReceived code framing w => Sys2Proof.Machine.execBenchCharacterReceived code framing w s
  | .readyLineHold n line => Sys2Proof.Machine.execReadyLineHold n line s

end Sys2Proof.Machine
end

