-- ==== Sys2Proof/Safety.lean ====
section
/-! DEFINITION. What the statements call a safe state: record memory kept with every event (R72, R165), the capacities
of the queues and lists (00_scope.md, R13, R14, R15, R93, R135, R167, R173), a frame in range (R7, R181), a state in
which the end of an event has no test to act on (R97, R99, R111), and the end of an event. -/

namespace Sys2Proof.Machine

/-- The payload fields lie in the ranges that R181 gives. -/
def Payload.ok : Payload → Bool
  | .held _ => true
  | .bid _ _ => true
  | .release _ c _ => c != 0
  | .cancel _ => true
  | .order _ _ w _ _ => w.title != 0
  | .shipped _ l _ d u => loanNumberOk l && d != 0 && u != 0
  | .returned l _ _ _ => loanNumberOk l
  | .loanState l _ _ _ => loanNumberOk l
  | .date d => d != 0

/-- The rank, the sender and the payload fields lie in the ranges that R7 and R181 give. -/
def Frame.ok (f : Frame) : Bool := rankOk f.payload.kind f.rank.toNat && f.sender != 0 && f.payload.ok

/-- The tables once a queued BID's pledges are undone (R24): the ready-stock record goes from PLEDGED back to FREE, and
the braille set's pledged count falls by 1.  The copy slot ceases to be counted as the entry leaves QUEUED. -/
def Records.undo (r : Records) (o : OrderNo) (w : Work) (p : Pledge) : Records :=
  { r with
    stock := r.stock.map fun x =>
      if p.serial = some x.serial ∧ x.state = .pledged o then { x with state := .free } else x
    sets := r.sets.map fun x => if p.set = true ∧ x.work = w then { x with pledged := x.pledged - 1 } else x }

/-- Record memory holds the tables, wherever it may be written (R72, R165, R178). -/
def State.recordsKept (s : State) : Prop := s.start.writable = true → s.nv.tables = s.tables

/-- The capacities of the queues and lists that the manual bounds. -/
structure State.Capacities (s : State) : Prop where
  rx         : s.line.rx.length ≤ 16
  tx         : s.line.tx.length ≤ 16
  pacing     : s.line.pacing.Nodup
  quarantine : s.quarantine.length ≤ 32 ∧ s.quarantine.Nodup
  outbox     : s.returns.outbox.length ≤ 16
  notices    : s.bench.notices.length ≤ 64
  buffer     : s.bench.buffer.length ≤ 40

/-- The loan records, the register's and those in record memory, stand in ascending loan number. -/
def State.LoansAscending (s : State) : Prop :=
  s.tables.loans.Pairwise (fun a b => a.number ≤ b.number) ∧ s.nv.tables.loans.Pairwise (fun a b => a.number ≤ b.number)

/-- No test of an event's end has anything to act on: no request was refused, the head job has no fitting blank or no
buffer (R97), no dirty blank may clean (R111), and no ingest that waits could take a buffer (R99). -/
def State.quiet (s : State) : Bool :=
  !s.anyRefused &&
    (match s.copy.queue with
      | [] => allSockets.all fun n => !(s.role n == .copy && (s.socket n).state == .blank false)
      | j :: _ => (s.chooseBlank j.len allSockets).isNone || s.freeBuffer?.isNone) &&
    (s.copy.ingestWait.isEmpty || s.freeBuffer?.isNone)

/-- An outcome is the end of the event that has brought the state `t`: the next state is `t` after the tests that end an
event and the record memory write, and `t` with that write alone where no test has anything to act on. -/
def Ends (r : Host.Outcome State Fault Refusal) (w : RecordWrite) (t : State) : Prop :=
  r = .next (finish w t) ∧ (t.quiet = true → r = .next (commit w t))

/-! ### The rows of R65

Each row relates the state before it, with the loan as it then stands, to the state it leaves. -/

/-- The row of a PACKED loan: it leaves its tray, whose load and urgent flag follow, a tray past FILLING left with no loan
is freed, and a PULL notice names the container and the tray (R65, R161, R163). -/
def TrayRow (s : State) (l : Loan) (u : State) : Prop :=
  (l.state ≠ .packed ∧ u = s) ∨
  (l.state = .packed ∧ ∃ (q : Fin 16) (x : Tray),
    l.tray = some x.number ∧ s.tray q = some x ∧ (∀ p y, s.tray p = some y → y.number = x.number → p = q) ∧
    let rest := x.loans.filter fun n => n != l.number
    let left : State :=
      { s with
        tables :=
          { s.tables with
            loans := s.tables.loans.map fun y => if y.number = l.number then { y with tray := none } else y
            trays :=
              s.tables.trays.set q.val
                (if rest = [] ∧ x.state ≠ .filling then none
                  else some
                    { x with
                      loans := rest, load := x.load - l.mailUnits
                      urgent := rest.any fun n => ((s.loan? n).map (·.urgent)).getD false })
                q.isLt
            dispatchLine :=
              if rest = [] ∧ x.state ≠ .filling then s.tables.dispatchLine.filter fun p => p != q
              else s.tables.dispatchLine } }
    u = left.raise (.pull (l.container.getD 0) x.number))

/-- What becomes of gang `id` when a member has left it, in state `a`: with no member left it ends and its buffer is freed;
with one that has not finished the block it stays; and otherwise it goes on as after that member's finish, to the next
block's read, or after the last block to the finishing of its members (R98, R102, R104, R108, R109). -/
def GangLeft (a : State) (id : Nat) (u : State) : Prop :=
  (a.membersOf id = [] ∧ ∃ g, a.gang? id = some g ∧
    let ended : State := { a with copy := { a.copy with gangs := a.copy.gangs.filter fun x => x.id != id } }
    ((g.buffer = none ∧ u = ended) ∨
      ∃ b, g.buffer = some b ∧
        (((∀ q, a.copy.current = some q → q.1 ≠ b) ∧ u = ended.setBuffer b ⟨.free, [], none⟩) ∨
          ((∃ x, a.copy.current = some (b, x)) ∧
            u = ended.setBuffer b { a.buffer b with owner := .draining, request := none })))) ∨
  ((∃ p ∈ a.membersOf id, p.2.progress ≠ .finished) ∧ u = a) ∨
  (a.membersOf id ≠ [] ∧
    (∀ p ∈ a.membersOf id, (a.socket p.1).state = .copying p.2 ∧ p.2.progress = .finished ∧
      ∃ v, (a.socket p.1).view = some v ∧ v.kind = .stock) ∧
    ∃ g b, a.gang? id = some g ∧ g.buffer = some b ∧ g.loaded = true ∧
      let sockets (f : Socket → Member → Socket) : Vector Socket 8 := Vector.ofFn fun q =>
        match (a.socket q).state with
        | .copying m => if m.gang = id then f (a.socket q) m else a.socket q
        | _ => a.socket q
      let gangs (f : Gang → Gang) : List Gang := a.copy.gangs.map fun y => if y.id = id then f y else y
      (g.index < g.len ∧
        let read : StoreReq := .read g.work g.start (g.start + g.index)
        let next : State :=
          { a with
            sockets := sockets fun k m => { k with state := .copying { m with progress := .waiting } }
            copy :=
              { a.copy with gangs := gangs fun _ => { g with index := g.index + 1, loaded := false, done := g.index } } }
        ((a.copy.current = none ∧ (∀ q, (a.buffer q).request = none) ∧
            u = { next with copy := { next.copy with current := some (b, read), pointer := b } }) ∨
          (a.copy.current ≠ none ∧ u = next.setBuffer b { a.buffer b with request := some read }))) ∨
      (g.len ≤ g.index ∧ (∀ q, a.copy.current = some q → q.1 ≠ b) ∧
        u = State.setBuffer
          { a with
            sockets := sockets fun k m =>
              { k with
                state := .finishing { m with progress := .finishing false }
                op := some (.guarded
                  (contentWrite m.job.work m.job.len (((a.dir? m.job.work).map (·.check)).getD 0)
                    (a.start.own.getD 0) a.tables.day) (.beforeCommand (some k.link)))
                hold := none, link := k.link.unlock }
            copy := { a.copy with gangs := gangs fun y => { y with done := y.len, buffer := none } } } b ⟨.free, [], none⟩))

/-- The row of the cartridge part: the job leaves the queue; the member leaves its gang and its socket aborts, until its
operation has ended, or to BLANK at once; the ready-stock record returns to FREE, a cartridge gain; it is removed, and the
tagging socket is told; the DONE socket closes the loan's slot; or a REINSERT notice names the serial and the loan (R65,
R109, R110, R115, R133). -/
def CartRow (s : State) (l : Loan) (u : State) : Prop :=
  match l.cart with
  | none => u = s
  | some ⟨.copy, .queued, _⟩ =>
    u = { s with copy := { s.copy with queue := s.copy.queue.filter fun j => j.loan != l.number } }
  | some ⟨.copy, .copying, _⟩ =>
    ∃ (k : Idx8) (m : Member) (v : State),
      ((s.socket k).state = .copying m ∨ (s.socket k).state = .finishing m) ∧ m.job.loan = l.number ∧
      (∀ p ∈ s.members, p.2.job.loan = l.number → p.1 = k) ∧
      GangLeft (s.setSocket k { s.socket k with state := .aborting }) m.gang v ∧
      (((s.socket k).op ≠ none ∧ u = v) ∨
        ((s.socket k).op = none ∧ (s.socket k).view.bind View.openSlot = none ∧
          u = v.setSocket k { s.socket k with state := .blank false, hold := none }))
  | some ⟨.reissue, .queued, _⟩ =>
    ∃ r, s.issuing? l.number = some r ∧
      u = State.cartridgeGain
        { s with
          tables :=
            { s.tables with
              stock := s.tables.stock.map fun y => if y.serial = r.serial then { y with state := .free } else y } }
        r.work
  | some ⟨.reissue, .copying, _⟩ =>
    ∃ r k, s.issuing? l.number = some r ∧ (s.socket k).state = .tagging l.number false ∧
      (∀ q b, (s.socket q).state = .tagging l.number b → q = k) ∧
      u = State.setSocket
        { s with tables := { s.tables with stock := s.tables.stock.filter fun y => y.serial != r.serial } } k
        { s.socket k with state := .tagging l.number true }
  | some ⟨_, .ready x, _⟩ =>
    ((∀ q z, (s.socket q).state = .done z → s.serialAt q ≠ x) ∧ u = s.raise (.reinsert x l.number)) ∨
    (∃ k z v slot, (s.socket k).state = .done z ∧ (s.socket k).view = some v ∧ v.serial = x ∧ v.kind = .stock ∧
      v.slots.length = 64 ∧ (∀ q y, (s.socket q).state = .done y → s.serialAt q = x → q = k) ∧ v.openSlot = some slot ∧
      u = s.setSocket k
        { s.socket k with
          state := .checking ⟨.noLoan, some slot, some (slotLoan (v.slot slot)), .closing⟩
          op := some (.guarded (closeWrite slot s.tables.day (s.start.own.getD 0)) (.beforeCommand (some (s.socket k).link)))
          hold := none, link := (s.socket k).link.unlock })
  | some ⟨_, .back, _⟩ => u = s

/-- The row of the braille part: the pledge is undone, or the picked set goes back to its shelf with a RESHELVE notice, a
braille gain (R65, R131, R133). -/
def BrailleRow (s : State) (l : Loan) (u : State) : Prop :=
  match l.braille with
  | none => u = s
  | some ⟨k, .pledged⟩ =>
    u = { s with
          tables :=
            { s.tables with
              sets := s.tables.sets.map fun y => if y.work = k then { y with pledged := y.pledged - 1 } else y } }
  | some ⟨k, .picked⟩ =>
    u = ((State.raise
      { s with
        tables :=
          { s.tables with
            sets := s.tables.sets.map fun y => if y.work = k then { y with onShelf := y.onShelf + 1 } else y } }
      (.reshelve k)).brailleGain k)
  | some ⟨_, .back⟩ => u = s

/-- An own release of the order whose entry is `e` (R15, R33, R34): the entry goes to UNBID, excluded, its release count up
by 1 to at most 3.  While other RELEASEs are owed, its order joins the tail of the owed list with the reason; otherwise its
RELEASE is offered at once.  With 4 entries of the transmit queue free and no other paced owner first, the RELEASE is queued,
the Order Book leaves the pacing list, nothing is owed, and at release count 3 the entry is removed.  Refused, it stays owed
and the Order Book joins the tail of the pacing list once. -/
def OwnReleased (s : State) (e : Entry) (why : Reason) (u : State) : Prop :=
  let up (c : BitVec 2) : BitVec 2 := if c = 3 then 3 else c + 1
  let entries (owed : Option Reason) : List Entry := s.book.entries.map fun y =>
    if y.order = e.order then
      { y with state := .unbid, excluded := true, owed := owed, releaseCount := up y.releaseCount }
    else y
  let room : Prop := s.line.tx.length ≤ 12 ∧ (s.line.pacing = [] ∨ s.line.pacing.head? = some .book)
  (s.book.owed ≠ [] ∧
    u = { s with book := ⟨entries (some why), (s.book.owed.filter fun o => o != e.order) ++ [e.order]⟩ }) ∨
  (s.book.owed = [] ∧ room ∧
    u = { s with
          line :=
            { s.line with
              tx := s.line.tx ++ [⟨⟨0, s.start.own.getD 0, .release e.order (up e.releaseCount) why⟩, false, false⟩]
              pacing := s.line.pacing.filter fun o => o != .book }
          book :=
            ⟨if up e.releaseCount = 3 then s.book.entries.filter fun y => y.order != e.order else entries none, []⟩ }) ∨
  (s.book.owed = [] ∧ ¬ room ∧
    u = { s with
          line :=
            { s.line with
              pacing := if .book ∈ s.line.pacing then s.line.pacing else s.line.pacing ++ [.book] }
          book := ⟨entries (some why), [e.order]⟩ })

/-- What a withdrawal that is taken does to a loan, the rows of R65 in the order of its table and then the record's
removal (R64): `ends u` says that the event goes on from `u`. -/
def WithdrawalActs (s : State) (l : Loan) (ends : State → Prop) : Prop :=
  ∀ a b c, TrayRow s l a → CartRow a l b → BrailleRow b l c →
    ends { c with tables := { c.tables with loans := c.tables.loans.filter fun y => y.number != l.number } }

end Sys2Proof.Machine
end

