-- ==== Sys2Proof/Certificates/Slice0/Obligations.lean ====
section
/-! DEFINITION. The statements for the provers, in the order of the manual's chapters.  `Ends r w t` says that `r` is
the end of the event that has brought `t`: so a statement that ends in it gives every field of the state the event
brings, and with `EndOfEventFrame` every field that the event's end leaves alone. -/

open Sys2Proof Sys2Proof.Machine

/-! ### The step -/

/-- Step takes the command at the front of the queue and runs it on the rest of the queue. -/
def Obligations.StepRunsFrontCommand : Prop :=
  ∀ (s : State) (c : Instr) (rest : List Instr), s.pending = c :: rest →
    step s = exec c { s with pending := rest }

/-- With no command waiting, a step is one millisecond event (the model's choice, log entry 2): R174's millisecond
count rises by 1, and `n` such events carry a running station's second count over every 1,000th of them. -/
def Obligations.IdleStepsCountTime : Prop :=
  (∀ s : State, s.pending = [] → s.start.phase ≠ .running →
    step s = .next { s with time := { s.time with ms := s.time.ms + 1 } }) ∧
  (∀ s : State, s.pending = [] → step s = .next s.tick) ∧
  (∀ (n : Nat) (s : State), s.start.phase = .running → s.time.sub < 1000 →
    State.tick^[n] s =
      { s with
        time :=
          ⟨s.time.ms + BitVec.ofNat 32 n, s.time.sec + BitVec.ofNat 32 ((s.time.sub + n) / 1000),
            (s.time.sub + n) % 1000⟩ })

/-! ### Invariants of every step -/

/-- The state after reset meets the three invariants: record memory holds the tables wherever it may be written, every
queue and list is within its capacity, and the loan records stand in ascending loan number. -/
def Obligations.ResetStateIsSafe : Prop :=
  State.reset.recordsKept ∧ State.reset.Capacities ∧ State.reset.LoansAscending

/-- Every step keeps record memory equal to the tables wherever record memory may be written (R72, R165, R178). -/
def Obligations.StepKeepsRecordMemory : Prop :=
  ∀ s t : State, s.recordsKept → step s = .next t → t.recordsKept

/-- Every step keeps the capacities of the receive and transmit queues, the pacing list, the quarantine list, the
returns outbox, the notice queue and the input line buffer. -/
def Obligations.StepKeepsCapacities : Prop :=
  ∀ s t : State, s.Capacities → step s = .next t → t.Capacities

/-- Every step keeps the loan records, the register's and record memory's, in ascending loan number (R62, R73). -/
def Obligations.StepKeepsLoansAscending : Prop :=
  ∀ s t : State, s.LoansAscending → step s = .next t → t.LoansAscending

/-- The end of an event.  A refused request is taken by its owner as a failure (R78, R80, R83), its effect as
GuardedOperationSteps and LimitsAndHoldsFailOperation give it; the head job is dispatched (R97, GangFormsAroundHead); with no
job waiting every dirty blank of role COPY cleans, outside LISTEN, with a clear of sector 1 (R111); and a free buffer that no
head job takes goes to the first ingest that waits, which reads its block (R99).  With none of these to do, only the record
memory write is left.  It leaves alone the commands that wait, the timebase, the configuration values, the line but for the
transmit queue and the pacing list, the bench but for the notice queue, and the header of record memory.  The order of the
tests, and refusals taken in socket-number order, are the model's (log entry 9); that the first waiting ingest takes the
lowest-numbered of several free buffers is its choice, for R99 gives no order of buffers that one event frees (log entry
32). -/
def Obligations.EndOfEventFrame : Prop :=
  ∀ (w : RecordWrite) (s : State),
    let accepted (t : State) : Prop := ∀ n, (t.socket n).op ≠ some .refused
    let cleans (n : Idx8) : Prop :=
      s.line.state ≠ .listen ∧ s.cfg.roles[n] = .copy ∧ (s.socket n).state = .blank false
    (∀ n, (s.socket n).op = some .refused → (∀ q < n, (s.socket q).op ≠ some .refused) →
      let t := (s.setSocket n { s.socket n with op := none, hold := none }).opFailed n
      (∀ q ≤ n, (t.socket q).op ≠ some .refused) → finish w s = finish w t) ∧
    (accepted s → s.copy.queue = [] → (∀ n, cleans n → ∃ v, (s.socket n).view = some v ∧ v.kind = .stock) →
      ∃ sockets : Vector Socket 8,
        (∀ n : Idx8,
          (cleans n →
            sockets[n] =
              { s.socket n with
                state := .cleaning .sector, op := some (.guarded (.sectorClear 1) (.beforeCommand (some (s.socket n).link)))
                hold := none, link := (s.socket n).link.unlock }) ∧
          (¬ cleans n → sockets[n] = s.socket n)) ∧
        finish w s = finish w { s with sockets := sockets }) ∧
    (accepted s → s.dispatchHead = none → (s.copy.queue = [] → ∀ n, ¬ cleans n) →
      (s.copy.ingestWait = [] ∨ (∀ b, (s.buffer b).owner ≠ .free) → finish w s = commit w s) ∧
      (∀ n ns b i v, s.copy.ingestWait = n :: ns → ns.length < 8 → (s.buffer b).owner = .free →
        (∀ q < b, (s.buffer q).owner ≠ .free) → (s.socket n).state = .ingesting i → (s.socket n).view = some v →
        i.index < v.capacity.blocks →
        finish w s =
          finish w
            { (s.setBuffer b ⟨.ingest n, [], none⟩).setSocket n
                { s.socket n with
                  state := .ingesting { i with buffer := some b }, op := some (.read (i.index * 65536) 65536)
                  hold := none } with
              copy := { (s.setBuffer b ⟨.ingest n, [], none⟩).copy with ingestWait := ns } })) ∧
    (finish w s).pending = s.pending ∧ (finish w s).time = s.time ∧ (finish w s).cfg = s.cfg ∧
      (finish w s).line = { s.line with tx := (finish w s).line.tx, pacing := (finish w s).line.pacing } ∧
      (finish w s).bench = { s.bench with notices := (finish w s).bench.notices, lost := (finish w s).bench.lost } ∧
      (finish w s).start = { s.start with writable := (finish w s).start.writable } ∧
      (finish w s).nv.header = s.nv.header ∧
      (s.start.writable = false → (finish w s).start = s.start ∧ (finish w s).nv = s.nv)

/-- The record memory write that ends an event (R72, R165, R178): record memory takes the tables; a write that fails
leaves it in the state before the event, the tables stand, CONFIG-INVALID with cause RECORDS is raised, and record
memory is not written again; and where it may not be written, nothing happens.  That a failed write of an event that
changed no table has no effect is the model's choice (log entry 6), and so is that the notice joins behind all those the
event has raised (log entry 37). -/
def Obligations.RecordMemoryWriteOutcomes : Prop :=
  ∀ s : State,
    (s.start.writable = false → ∀ w, commit w s = s) ∧
    (s.start.writable = true → commit .completed s = { s with nv := { s.nv with tables := s.tables } }) ∧
    (s.start.writable = true → s.nv.tables = s.tables → commit .failed s = s) ∧
    (s.start.writable = true → s.nv.tables ≠ s.tables →
      commit .failed s =
        { s with
          start := { s.start with writable := false }
          bench :=
            if s.bench.notices.length < 64 then
              { s.bench with notices := s.bench.notices ++ [.configInvalid .records] }
            else { s.bench with lost := true } })

/-! ### Resets and start -/

/-- Either reset gives every block its reset value (R17, R73, R86, R93, R116, R135, R167, R168, R173, R174, R177), at
any point of start and in any line state; record memory, the presence lines and what the cartridges report stand (R94; log
entry 15). -/
def Obligations.ResetsClearVolatileState : Prop :=
  ∀ (c : Instr) (s : State), c = .powerOnReset ∨ c = .reset →
    ∃ t, exec c s = .next t ∧ t.pending = s.pending ∧ t.nv = s.nv ∧
      t.start.phase = .config ∧ t.time = ⟨0, 0, 0⟩ ∧
      t.line =
        { state := .off, timing := none, following := false, finishing := false, failCount := 0, muteDeadline := none,
          rx := [], overrun := false, tx := [], pacing := [], driving := [], sentBits := 0, ackDriven := false } ∧
      t.book = ⟨[], []⟩ ∧ t.scan = ⟨false, none, false, none⟩ ∧ t.quarantine = [] ∧ t.returns = ⟨[], []⟩ ∧
      (∀ n : Idx8, (t.socket n).state = .empty ∧ (t.socket n).view = none ∧ (t.socket n).op = none ∧
        (t.socket n).hold = none ∧ (t.socket n).present = (s.socket n).present ∧ (t.socket n).link = (s.socket n).link) ∧
      t.copy.queue = [] ∧ t.copy.gangs = [] ∧ t.copy.ingestWait = [] ∧ t.copy.current = none ∧ t.copy.pointer = 3 ∧
      (∀ b : Fin 4, (t.buffer b).owner = .free ∧ (t.buffer b).request = none) ∧
      t.bench.buffer = [] ∧ t.bench.extra = 0 ∧ t.bench.bad = false ∧ t.bench.notices = [] ∧ t.bench.lost = false ∧
      t.bench.rate = 9600

/-- In phase CONFIG the image's bytes give every configuration value, each replaced by the nearest end of its range
(R1, R18, R21, R43, R60, R63, R85, R135, R153, R168, R176, R186), and the bit timing comes into force. -/
def Obligations.ConfigReadClampsValues : Prop :=
  ∀ (bytes : List Byte) (s : State), s.start.phase = .config → bytes.length = 256 →
    let byte (i : Nat) : Nat := (bytes.getD i 0).toNat
    let half (i : Nat) : Nat := 256 * byte i + byte (i + 1)
    ∃ t, exec (.configRead bytes) s = .next t ∧ t.start.phase = .records ∧ t.line.timing = some t.cfg.timing ∧
      t.cfg.timing.prescaler = clamp 1 64 (byte 5) ∧ t.cfg.timing.settle = clamp 1 16 (byte 6) ∧
      t.cfg.timing.tail = clamp 2 8 (byte 7) ∧ t.cfg.timing.jump = min (clamp 1 4 (byte 8)) (clamp 2 8 (byte 7)) ∧
      t.cfg.bidWindow = clamp 1 255 (byte 9) ∧
      (∀ n : Idx8, t.cfg.roles[n] =
        if byte (10 + n.val) = 1 then .copy else if byte (10 + n.val) = 2 then .intake else .off) ∧
      t.cfg.program = clamp 10 2000 (half 18) ∧ t.cfg.erase = clamp 10 2000 (half 20) ∧
      t.cfg.reissue = clamp 1 1023 (half 22) ∧ t.cfg.pick = clamp 1 1023 (half 24) ∧
      t.cfg.blankWait = min 1023 (half 26) ∧ t.cfg.loanPeriod = clamp 7 180 (half 28) ∧
      t.cfg.lostInterval = clamp 14 365 (half 30) ∧ t.cfg.keepLimit = min 15 (byte 32) ∧
      (∀ f : Idx8, let b := 33 + 10 * f.val
        t.cfg.filters[f].enabled = decide (byte b ≠ 0) ∧
        t.cfg.filters[f].value.toNat = (65536 * byte (b + 1) + half (b + 2)) % 1048576 ∧
        t.cfg.filters[f].mask.toNat = (65536 * byte (b + 4) + half (b + 5)) % 1048576 ∧
        t.cfg.filters[f].cartridge = (byte (b + 7)).testBit 0 ∧ t.cfg.filters[f].braille = (byte (b + 7)).testBit 1 ∧
        t.cfg.filters[f].both = (byte (b + 7)).testBit 2 ∧ t.cfg.filters[f].penalty = min 1023 (half (b + 8))) ∧
      (∀ z : Fin 64, (t.cfg.zoneMap[z]).val = min 7 (byte (113 + z.val))) ∧
      (∀ g : Idx8, let b := 177 + 3 * g.val
        t.cfg.groups[g].capacity = clamp 1 255 (byte b) ∧
        t.cfg.groups[g].threshold = min (byte (b + 1)) (clamp 1 255 (byte b)) ∧
        t.cfg.groups[g].maxAge = clamp 1 72 (byte (b + 2))) ∧
      t.cfg.benchRate = clamp 9600 115200 (65536 * half 201 + half 203)

/-- The first failing test of R175 is the cause of an invalid configuration, and raises CONFIG-INVALID; a port that
returned fewer than 256 bytes gives the defaults of R176. -/
def Obligations.ConfigTestsGiveCause : Prop :=
  ∀ (bytes : List Byte) (s : State), s.start.phase = .config → bytes.length ≤ 256 → s.bench.notices.length < 64 →
    let byte (i : Nat) : Nat := (bytes.getD i 0).toNat
    let cause : Option ConfigCause :=
      if bytes.length ≠ 256 then some .noImage
      else if ¬ (byte 0 = 76 ∧ byte 1 = 83 ∧ byte 2 = 67 ∧ byte 3 = 70) then some .signature
      else if 256 * byte 254 + byte 255 ≠ ((bytes.take 254).map BitVec.toNat).sum % 65536 then some .check
      else if byte 4 = 0 ∨ 63 < byte 4 then some .station
      else none
    ∃ t, exec (.configRead bytes) s = .next t ∧ t.start.invalid = cause ∧
      (∀ k : Station, t.start.configured = some k ↔ (cause = none ∧ k.toNat = byte 4)) ∧
      t.bench.notices = s.bench.notices ++ (cause.map Notice.configInvalid).toList ∧
      (bytes.length ≠ 256 →
        t.cfg.timing = ⟨8, 11, 4, 1⟩ ∧ (∀ f : Idx8, t.cfg.filters[f].enabled = false) ∧
        (∀ n : Idx8, t.cfg.roles[n] = .off) ∧ t.cfg.loanPeriod = 28 ∧ t.cfg.lostInterval = 60 ∧
        (∀ z : Fin 64, t.cfg.zoneMap[z] = 0) ∧ (∀ g : Idx8, t.cfg.groups[g] = ⟨60, 40, 24⟩) ∧
        t.cfg.bidWindow = 1 ∧ t.cfg.program = 10 ∧ t.cfg.erase = 10 ∧ t.cfg.reissue = 1 ∧ t.cfg.pick = 1 ∧
        t.cfg.blankWait = 0 ∧ t.cfg.keepLimit = 0 ∧ t.cfg.benchRate = 9600)

/-- The header of record memory is good when its four signature codes, its check and its station are (R187), and a first
start's header reads back as good with the station configured. -/
def Obligations.RecordHeaderNamesStation : Prop :=
  (∀ (b : List Byte) (k : Station), b.length = 7 → (headerStation b = some k ↔
    b.take 4 = [76, 83, 82, 77] ∧ (b.drop 5).take 2 = [(crc16Bytes (b.take 5)).extractLsb' 8 8,
      (crc16Bytes (b.take 5)).extractLsb' 0 8] ∧ k ≠ 0 ∧ b[4]? = some (k.setWidth 8))) ∧
  (∀ k : Station, k ≠ 0 → headerStation (headerBytes k) = some k ∧ (headerBytes k).length = 7)

/-- The opening of record memory in phase RECORDS: the rows of the table of R178, with the master store's size bounded
as R118 gives.  That the size is 0 where the store port fails to answer is the model's choice (log entry 33). -/
def Obligations.RecordMemoryOpenOutcomes : Prop :=
  ∀ s : State, s.start.phase = .records → s.bench.notices.length < 64 →
    (∀ size, ∃ t, exec (.recordMemoryOpen size) s = .next t ∧ t.start.phase = .recovery) ∧
    (∀ size k, s.start.configured = some k → headerStation s.nv.header = some k →
      exec (.recordMemoryOpen (some size)) s = .next
        { s with
          tables := s.nv.tables
          start :=
            { s.start with phase := .recovery, own := some k, writable := true, storeSize := min size 65536 } }) ∧
    (∀ size k, s.start.configured = some k → headerStation s.nv.header = none →
      exec (.recordMemoryOpen (some size)) s = .next
        { s with
          tables := Records.firstStart, nv := ⟨headerBytes k, Records.firstStart⟩
          start :=
            { s.start with phase := .recovery, own := some k, writable := true, storeSize := min size 65536 } }) ∧
    (∀ size k h, s.start.configured = some k → headerStation s.nv.header = some h → h ≠ k →
      exec (.recordMemoryOpen (some size)) s = .next
        { s with
          tables := s.nv.tables
          start :=
            { s.start with
              phase := .recovery, invalid := some .stationMismatch, own := some h, writable := false
              storeSize := min size 65536 }
          bench := { s.bench with notices := s.bench.notices ++ [.configInvalid .stationMismatch] } }) ∧
    (exec (.recordMemoryOpen none) s = .next
      { s with
        tables := Records.firstStart
        start :=
          { s.start with
            phase := .recovery, invalid := some .records, own := none, writable := false, storeSize := 0 }
        bench := { s.bench with notices := s.bench.notices ++ [.configInvalid .records] } }) ∧
    (∀ size h, s.start.configured = none → headerStation s.nv.header = some h →
      exec (.recordMemoryOpen (some size)) s = .next
        { s with
          tables := s.nv.tables
          start :=
            { s.start with phase := .recovery, own := some h, writable := false, storeSize := min size 65536 } }) ∧
    (∀ size, s.start.configured = none → headerStation s.nv.header = none →
      exec (.recordMemoryOpen (some size)) s = .next
        { s with
          tables := Records.firstStart
          start :=
            { s.start with phase := .recovery, own := none, writable := false, storeSize := min size 65536 } }) ∧
    (Records.firstStart.loans = [] ∧ Records.firstStart.loanSeq = 1 ∧ Records.firstStart.day = 0 ∧
      Records.firstStart.directory = [] ∧ Records.firstStart.stock = [] ∧ Records.firstStart.sets = [] ∧
      (∀ r : Fin 16, Records.firstStart.trays[r] = none) ∧ Records.firstStart.nextTray = 1 ∧
      Records.firstStart.dispatchLine = [])

/-- Recovery runs its five steps in order, Loan Register, Stock Directory, Order Book, Copy Engine and Tray Unit (R179), and
ends start (R12, R62, R73, R87, R168, R180): the phase becomes RUNNING, the line goes to JOINING or, with an invalid
configuration, to LISTEN, the bench rate is set, the seated cartridges of the COPY and INTAKE sockets are identified and a day
scan is requested where a day is known.  Last, but in LISTEN, a dispatch line that is not empty has the Tray Unit offer its
next SHIPPED (R162, R165): the loan ships, or the Tray Unit joins the pacing list.  What each step does is stated in
RecoverySetsRecordsRight, RecoveryRebuildsBookAndJobs and RecoveryChecksTrays.  That further offers follow in this event is
log entry 10's choice, and that a rate change to 9,600 marks no line log entry 24's. -/
def Obligations.RecoveryEndsStart : Prop :=
  ∀ s : State,
    s.recover = s.recoverRegister.recoverDirectory.recoverBook.recoverJobs.recoverTrays ∧
    (s.start.phase = .recovery → s.bench.rate = 9600 →
      let r := s.recover
      let valid : Prop := s.start.invalid = none
      let identifies (n : Idx8) : Prop := valid ∧ (s.socket n).present = true ∧ s.cfg.roles[n] ≠ .off
      let t := r.endOfStart
      Ends (exec .recovery s) .completed t ∧
      t.start = { s.start with phase := .running } ∧ t.time = s.time ∧ t.cfg = s.cfg ∧ t.nv = s.nv ∧
      t.line.state = (if valid then LineState.joining else .listen) ∧ t.line.following = false ∧
      t.line.rx = s.line.rx ∧ t.line.timing = s.line.timing ∧
      t.bench.rate = (if valid then s.cfg.benchRate else 9600) ∧
      t.scan = ⟨decide (s.tables.day ≠ 0), none, false, none⟩ ∧
      (∀ n : Idx8, t.socket n =
        if identifies n then
          { s.socket n with
            state := .identifying none, view := none, op := some (.awaitReady (s.time.ms + 3000)), hold := none }
        else s.socket n) ∧
      let started : State :=
        { r with
          start := { s.start with phase := .running }
          line := { r.line with state := if valid then .joining else .listen, following := false }
          bench :=
            { r.bench with
              rate := if valid then s.cfg.benchRate else 9600
              bad := r.bench.bad || (decide (valid ∧ s.cfg.benchRate ≠ 9600) && !r.bench.buffer.isEmpty) }
          sockets := t.sockets
          scan := ⟨decide (s.tables.day ≠ 0), none, false, none⟩ }
      let room : Prop := r.line.tx.length ≤ 12 ∧ (r.line.pacing = [] ∨ r.line.pacing.head? = some .tray)
      (¬ valid ∨ r.tables.dispatchLine = [] → t = started) ∧
      (∀ q line x n rest l, valid → r.tables.dispatchLine = q :: line → r.tray q = some x → x.loans = n :: rest →
        r.loan? n = some l →
        let day := s.tables.day
        let due : Day := BitVec.ofNat 16 (min 65535 (day.toNat + s.cfg.loanPeriod))
        let serial : Serial := match l.cart with
          | some ⟨_, .ready k, _⟩ => k
          | _ => 0
        let frame : TxEntry := ⟨⟨0, s.start.own.getD 0, .shipped l.order n serial day due⟩, false, false⟩
        (¬ room →
          t = { started with
                line :=
                  { started.line with
                    pacing := if .tray ∈ r.line.pacing then r.line.pacing else r.line.pacing ++ [.tray] } }) ∧
        (room → ∃ more, t.line.tx = r.line.tx ++ frame :: more) ∧
        (∀ e, room → line = [] → rest = [] → x.state ≠ .filling → r.entryOfLoan? n = some e →
          t = { started with
                line :=
                  { started.line with
                    tx := r.line.tx ++ [frame], pacing := r.line.pacing.filter fun o => o != .tray }
                tables :=
                  { r.tables with
                    loans := r.tables.loans.map fun y =>
                      if y.number = n then
                        { y with state := .shipped, dispatchDay := some day, dueDay := some due, tray := none }
                      else y
                    trays := r.tables.trays.set q.val none q.isLt, dispatchLine := [] }
                book := (r.dropEntry e.order).book })))

/-- Steps 1 and 2 of recovery (R73, R134): COPYING parts go back to QUEUED and the day scan is idle; LOADING entries are
removed, PLEDGED records return to FREE, an ISSUING record stays only for a CLAIMED loan that awaits it, and each braille
set's pledged count is the number of CLAIMED loans that name it with their part PLEDGED. -/
def Obligations.RecoverySetsRecordsRight : Prop :=
  ∀ s : State,
    let back (c : CartPart) : CartPart := if c.status = .copying then { c with status := .queued } else c
    s.recoverRegister.recoverDirectory =
      { s with
        scan := ⟨false, none, false, none⟩
        tables :=
          { s.tables with
            loans := s.tables.loans.map fun l => { l with cart := l.cart.map back }
            directory := s.tables.directory.filter fun d => d.state != .loading
            stock := s.tables.stock.map fun r =>
              match r.state with
              | .free => r
              | .pledged _ => { r with state := .free }
              | .issuing n =>
                if ((s.tables.loans.find? fun l => l.number == n).any fun l =>
                  l.state == .claimed && l.cart.any fun c =>
                    c.path == .reissue && (c.status == .queued || c.status == .copying)) then r
                else { r with state := .free }
            sets := s.tables.sets.map fun r =>
              { r with
                pledged :=
                  s.tables.loans.countP fun l =>
                    l.state == .claimed && l.braille.any fun b => b.set == r.work && b.status == .pledged } } }

/-- Steps 3 and 4 of recovery (R41, R51, R117), both in ascending claim day and then loan number: one entry in TAKEN(self)
for each loan in CLAIMED, READY or PACKED, with the fields of the loan record; and, where every title is VALID, a job at
the tail of the queue for each loan with its cartridge part COPY in QUEUED, with m = p + e and Ti = ceil(L × m / 1,000); a
loan whose title is not VALID has no job and is released with reason TITLE-VOID (R33, R68). -/
def Obligations.RecoveryRebuildsBookAndJobs : Prop :=
  ∀ s : State, s.tables.loans.Pairwise (fun a b => a.number ≤ b.number) →
    let inOrder (a b : Loan) : Prop := a.claimDay < b.claimDay ∨ (a.claimDay = b.claimDay ∧ a.number ≤ b.number)
    let open' (l : Loan) : Bool := l.state == .claimed || l.state == .ready || l.state == .packed
    let copies := s.tables.loans.filter fun l => l.cart.any fun c => c.path == .copy && c.status == .queued
    (∃ ls : List Loan, ls.Perm (s.tables.loans.filter open') ∧ ls.Pairwise inOrder ∧
      s.recoverBook =
        { s with
          book :=
            ⟨ls.map fun l =>
              { order := l.order, patron := l.patron, work := l.work, format := l.format, zone := l.zone,
                urgent := l.urgent, desk := l.order.extractLsb' 18 6, hit := s.filterHit l.work.title l.format,
                bookedDay := l.claimDay, state := .takenSelf l.number, releaseCount := 0, excluded := false,
                owed := none, heldQueued := false }, []⟩ }) ∧
    ((∀ l ∈ copies, ∃ d, s.dir? l.work = some d ∧ d.state = .valid) →
      ∃ ls : List Loan, ls.Perm copies ∧ ls.Pairwise inOrder ∧
        ∃ js : List Job, s.recoverJobs = { s with copy := { s.copy with queue := s.copy.queue ++ js } } ∧
          List.Forall₂ (fun (l : Loan) (j : Job) => ∃ d, s.dir? l.work = some d ∧
            j = ⟨l.number, l.work, d.start, d.len, s.cfg.program + s.cfg.erase,
              (d.len * (s.cfg.program + s.cfg.erase) + 999) / 1000, false⟩) ls js) ∧
    (∀ l e a, copies = [l] → (∀ d, s.dir? l.work = some d → d.state ≠ .valid) → l.state = .claimed →
      s.loan? l.number = some l → l.cart = some ⟨.copy, .queued, a⟩ → s.entryOfLoan? l.number = some e →
      s.entry? e.order = some e → ∀ u, BrailleRow s l u →
        OwnReleased { u with tables := { u.tables with loans := u.tables.loans.filter fun y => y.number != l.number } } e
          .titleVoid s.recoverJobs)

/-- Step 5 of recovery (R165): each tray keeps the loans that the register holds PACKED with its number, its load and
urgent flag set from them (the load as their units' sum, log entry 16), a FILLING tray's opened second at 0 and its
parameters as recorded; a CLOSED or DISPATCHING tray left empty is freed and leaves the dispatch line. -/
def Obligations.RecoveryChecksTrays : Prop :=
  ∀ s : State,
    let held (x : Tray) : List LoanNo := x.loans.filter fun n =>
      (s.loan? n).any fun l => l.state == .packed && l.tray == some x.number
    let t := s.recoverTrays
    (∀ r : Fin 16, t.tray r = (s.tray r).bind fun x =>
      if held x = [] ∧ x.state ≠ .filling then none
      else some
        { x with
          loans := held x
          load := ((held x).map fun n => ((s.loan? n).map (·.mailUnits)).getD 0).sum
          urgent := (held x).any fun n => ((s.loan? n).map (·.urgent)).getD false
          opened := if x.state = .filling then 0 else x.opened }) ∧
    t.tables.dispatchLine = s.tables.dispatchLine.filter (fun r => (s.tray r).isNone || (t.tray r).isSome) ∧
    t = { s with tables := { s.tables with trays := t.tables.trays, dispatchLine := t.tables.dispatchLine } }

/-! ### The floor line -/

/-- The kind check accepts exactly the raw frames that an in-range frame builds, and reads that frame (R3, R7, R8,
R181). -/
def Obligations.FrameParsesAsBuilt : Prop :=
  ∀ (r : RawFrame) (f : Frame), r.parse = some f ↔ (f.ok = true ∧ f.raw = r)

/-- What a sender puts on the line a receiver reads back, whether the acknowledge slot is driven or not: stuffing,
check and form tests pass and every field is kept (R3, R5, R6, R9), and the slot is the bit after the stuffed span (R10).
Bits held for nominal bit times are sampled as they are, whichever of them the station sends itself; and of a bit whose
falling edge lies within settle, the sample comes later by the adjustment of R2, unless the station sends the bit. -/
def Obligations.LineBitsReceivedAsSent : Prop :=
  (∀ (r : RawFrame) (ack : Bool), r.payload.length ≤ 16 →
    receiveBits (stuff 0 true r.span ++ ack :: List.replicate 9 true) = .ok r ∧
      ackSlot (stuff 0 true r.span ++ ack :: List.replicate 9 true) = some (stuff 0 true r.span).length) ∧
  (∀ (t : BitTiming) (sends : Nat → Bool) (bs : List Bool), sampledBits t sends (waveOf t bs) = bs) ∧
  (∀ (t : BitTiming) (sends : Nat → Bool) (i e : Nat) (rest : List Bool), e < t.settle → 1 ≤ t.tail →
    let settle : Nat := t.settle + if sends i then 0 else min e t.jump
    sampleWave t sends (Sampler.fresh t i true)
        (List.replicate (1 + e) true ++ List.replicate (settle - e) false ++ rest) =
      false :: sampleWave t sends ⟨i, settle + 1, settle, t.tail, !sends i, false⟩ rest)

/-- A frame whose bits reach a receiver at its nominal timing is acknowledged unless the station is in LISTEN, and joins
the tail of the receive queue with the millisecond count; at a full queue it is discarded and the overrun flag set, with
an RX-OVERRUN notice where the flag was clear; a LOANSTATE, a frame from this station's own number, and one that the kind
check discards (its kind, length, rank, sender or a payload field out of range) leave no trace.
So also for the frame that won the station's arbitration, and for one under way as a mute expiry took the station to
JOINING (R1, R2, R4, R8, R9, R10, R12, R13; log entry 13). -/
def Obligations.FrameReceivedJoinsQueue : Prop :=
  ∀ (raw : RawFrame) (ack : Bool) (t : BitTiming) (s : State), raw.payload.length ≤ 16 → s.line.timing = some t →
    ((s.line.state = .running ∨ s.line.state = .muted ∨ s.line.state = .listen) ∧ s.line.following = true) ∨
      (s.line.state = .joining ∧ s.line.finishing = true) →
    (∀ e ∈ s.line.tx, e.inTransmission = false) →
    let wave := waveOf t (stuff 0 true raw.span ++ ack :: List.replicate 9 true)
    let heard : Line :=
      { s.line with ackDriven := decide (s.line.state ≠ .listen), finishing := false, sentBits := 0 }
    ((∀ f : Frame, f.ok = true → f.raw ≠ raw) → exec (.frameReceived wave) s = .next { s with line := heard }) ∧
    (∀ f : Frame, f.ok = true → f.raw = raw →
      let dropped : Prop := s.start.own = some f.sender ∨ f.payload.kind = 7
      (dropped → exec (.frameReceived wave) s = .next { s with line := heard }) ∧
      (¬ dropped → s.line.rx.length < 16 →
        exec (.frameReceived wave) s = .next { s with line := { heard with rx := s.line.rx ++ [⟨f, s.time.ms⟩] } }) ∧
      (¬ dropped → 16 ≤ s.line.rx.length → s.line.overrun = true →
        exec (.frameReceived wave) s = .next { s with line := heard }) ∧
      (¬ dropped → 16 ≤ s.line.rx.length → s.line.overrun = false →
        exec (.frameReceived wave) s = .next (({ s with line := { heard with overrun := true } }).raise .rxOverrun)))

/-- The line's other receive events: a receive error leaves the line not followed, acknowledged before it only where the
error fell after the acknowledge slot outside LISTEN (R9, R10); 12 recessive bits bring the line back (R4), and a
JOINING station to RUNNING; at the mute timer's expiry a MUTED station goes to JOINING with its failure count at 0, and a
reception under way goes on (R12; log entry 13).  JOINING_IDLE outside JOINING and MUTE_EXPIRY outside MUTED change nothing
(the model's choice, log entry 4). -/
def Obligations.ReceiveAndIdleEvents : Prop :=
  ∀ s : State,
    (∀ e : RxError, s.line.state = .running ∨ s.line.state = .muted ∨ s.line.state = .listen →
      s.line.following = true → (∀ x ∈ s.line.tx, x.inTransmission = false) →
      exec (.receiveError e) s = .next
        { s with
          line :=
            { s.line with
              following := false, finishing := false, sentBits := 0
              ackDriven := decide (e = .lateForm ∧ s.line.state ≠ .listen) } }) ∧
    (s.line.state = .running ∨ s.line.state = .muted ∨ s.line.state = .listen →
      exec .lineIdle s = .next { s with line := { s.line with following := true } }) ∧
    (s.line.state = .joining →
      exec .joiningIdle s = .next
        { s with line := { s.line with state := .running, following := true, finishing := false } }) ∧
    (s.line.state ≠ .joining → exec .joiningIdle s = .next s) ∧
    (∀ (underWay : Bool) (d : Millis), s.line.state = .muted → s.line.muteDeadline = some d →
      (s.time.ms - d).toNat < 2147483648 →
      exec (.muteExpiry underWay) s = .next
        { s with
          line :=
            { s.line with
              state := .joining, failCount := 0, muteDeadline := none, following := false
              finishing := underWay && s.line.following } }) ∧
    (∀ underWay : Bool, s.line.state ≠ .muted → exec (.muteExpiry underWay) s = .next s)

/-- A RUNNING station that follows an idle line sends the entry with the lowest arbitration field, the earliest accepted
among equals, and marks it in transmission (R9, R14); one that decodes the frame to which it lost arbitration starts none
until that frame has ended (R9, R11).  That the row itself stands for the idle line, or a peer's start bit, is log entry
12's choice.  The field is the number kind × 1,048,576 + rank × 64 + sender, its
bits most significant first on the line, so that the lower field is the lower at the first bit that differs (R3). -/
def Obligations.TransmitStartSendsLowestField : Prop :=
  (∀ s : State, s.line.state = .running → s.line.following = true → s.line.sentBits = 0 →
    (∀ e ∈ s.line.tx, e.inTransmission = false) →
    (s.line.tx = [] → exec .transmitStart s = .next s) ∧
    (s.line.tx ≠ [] → ∃ pre x post, s.line.tx = pre ++ x :: post ∧
      (∀ y ∈ pre, x.frame.field < y.frame.field) ∧ (∀ y ∈ post, x.frame.field ≤ y.frame.field) ∧
      exec .transmitStart s = .next
        { s with
          line :=
            { s.line with
              tx := pre ++ { x with inTransmission := true } :: post
              driving := stuff 0 true x.frame.raw.span ++ List.replicate 10 true, sentBits := 0 } })) ∧
  (∀ s : State, s.line.state ≠ .running ∨ s.line.following = false ∨ s.line.sentBits ≠ 0 ∨ (∃ e ∈ s.line.tx, e.inTransmission = true) →
    exec .transmitStart s = .next s) ∧
  (∀ f : Frame, f.field = f.payload.kind * 1048576 + f.rank.toNat * 64 + f.sender.toNat ∧
    numOfBits ((f.raw.headBits.drop 1).take 24) = f.field) ∧
  (∀ f g : Frame, f.field < g.field ↔
    ∃ k < 24, ((f.raw.headBits.drop 1).take k = (g.raw.headBits.drop 1).take k) ∧
      f.raw.headBits[k + 1]? = some false ∧ g.raw.headBits[k + 1]? = some true)

/-- The outcome of a transmission is the first difference between the bits sent and the levels sampled, but in the
acknowledge slot: dominant for recessive sent up to the last bit of the arbitration field loses arbitration, any other is a
bit error; with none, a slot sampled dominant is success and a recessive one no acknowledgement (R9 to R11; stuff bits of
the field, log entry 30).  Lost arbitration leaves the entry queued at its place and the count as it was; a failure adds 1
to the count, a bit error leaves the line not followed and no acknowledgement does not, and the sixteenth in RUNNING mutes
the line for 2 s with a LINE-MUTED notice (R12; log entry 13); a wave of another outcome is no such event (log entry 4). -/
def Obligations.FailedTransmissionStaysQueued : Prop :=
  (∀ sent heard : List Bool,
    let slot : Nat := sent.length - 10
    let agrees (k : Nat) : Prop := ∀ i < k, i ≠ slot → heard[i]? = sent[i]?
    (∀ (i : Nat) (b c : Bool), sent[i]? = some b → heard[i]? = some c → b ≠ c → i ≠ slot → agrees i →
      txOutcome sent heard =
        some (if b = true ∧ i < arbitrationEnd sent then .lostArbitration (i + 1) else .bitError)) ∧
    (10 ≤ sent.length → agrees sent.length →
      (heard[slot]? = some false → txOutcome sent heard = some .success) ∧
      (heard[slot]? = some true → txOutcome sent heard = some .noAck)) ∧
    (heard.length < sent.length → agrees heard.length → txOutcome sent heard = none)) ∧
  (∀ f : Frame, ∃ run,
    unstuff ⟨0, true⟩ 25 (f.raw.lineBits.take (arbitrationEnd f.raw.lineBits)) = .ok (f.raw.headBits.take 25, run, [])) ∧
  (∀ (s : State) (pre post : List TxEntry) (x : TxEntry) (wave : List Bool) (w : RecordWrite),
    s.line.tx = pre ++ x :: post → (∀ y ∈ pre, y.inTransmission = false) → x.inTransmission = true →
    x.withdrawPending = false →
    let queued := pre ++ { x with inTransmission := false } :: post
    (∀ t heard, s.line.timing = some t → wave = waveOf t heard → s.sendOutcome wave = txOutcome s.line.driving heard) ∧
    (∀ k, s.sendOutcome wave = some (.lostArbitration k) →
      Ends (exec (.lostArbitration ⟨wave, w⟩) s) w
        { s with line := { s.line with tx := queued, driving := [], sentBits := k } }) ∧
    ((∀ k, s.sendOutcome wave ≠ some (.lostArbitration k)) → exec (.lostArbitration ⟨wave, w⟩) s = .next s) ∧
    (∀ why : TxOutcome, s.sendOutcome wave = some why → why = .bitError ∨ why = .noAck →
      let line : Line :=
        { s.line with
          tx := queued, driving := [], failCount := s.line.failCount + 1
          following := s.line.following && decide (why = .noAck) }
      (s.line.failCount + 1 < 16 ∨ s.line.state ≠ .running →
        Ends (exec (.transmitFailure wave w) s) w { s with line := line }) ∧
      (16 ≤ s.line.failCount + 1 → s.line.state = .running →
        Ends (exec (.transmitFailure wave w) s) w
          (({ s with line := { line with state := .muted, muteDeadline := some (s.time.ms + 2000) } }).raise .lineMuted))) ∧
    (s.sendOutcome wave ≠ some .bitError → s.sendOutcome wave ≠ some .noAck →
      exec (.transmitFailure wave w) s = .next s) ∧
    (s.sendOutcome wave ≠ some .success → exec (.transmitSuccess ⟨wave, w⟩) s = .next s))

/-- A BID marked withdrawal-pending whose transmission does not succeed leaves the queue, its pledges are undone and its
entry takes the outcome of the pending cause, or a new WINDOW where a RELEASE has cleared it (R16, R24, R25, R31). -/
def Obligations.WithdrawnBidTakesOutcome : Prop :=
  ∀ (s : State) (pre post : List TxEntry) (x : TxEntry) (wave : List Bool) (w : RecordWrite) (o : OrderNo) (path : Path)
    (e : Entry) (p : Pledge) (cause : Option Cause),
    s.line.tx = pre ++ x :: post → (∀ y ∈ pre, y.inTransmission = false ∧ y.frame ≠ x.frame) →
    x.inTransmission = true → x.withdrawPending = true → x.frame.payload = .bid o path → s.line.pacing = [] →
    s.entry? o = some e → e.state = .queued p (.awaited cause) →
    let book : Book :=
      match cause with
      | some (.heard y) => (s.setEntryState o (.takenOther y)).book
      | some .remove => (s.dropEntry o).book
      | some .void => (s.setEntryState o .unbid).book
      | none => (s.setEntryState o (.window (s.time.ms + BitVec.ofNat 32 (10 * s.cfg.bidWindow)))).book
    (∀ k, s.sendOutcome wave = some (.lostArbitration k) →
      Ends (exec (.lostArbitration ⟨wave, w⟩) s) w
        { s with
          line := { s.line with tx := pre ++ post, driving := [], sentBits := k }, book := book
          tables := s.tables.undo o e.work p }) ∧
    (∀ why : TxOutcome, s.sendOutcome wave = some why → why = .bitError ∨ why = .noAck → s.line.failCount < 15 →
      Ends (exec (.transmitFailure wave w) s) w
        { s with
          line :=
            { s.line with
              tx := pre ++ post, driving := [], failCount := s.line.failCount + 1
              following := s.line.following && decide (why = .noAck) }
          book := book, tables := s.tables.undo o e.work p })

/-- A transmission that succeeds takes its entry out of the queue and sets the failure count to 0; a HELD's completion
clears its entry's mark, and a paced kind's changes nothing (R11, R29, R34, R63, R148, R162). -/
def Obligations.SuccessLeavesQueue : Prop :=
  ∀ (s : State) (pre post : List TxEntry) (x : TxEntry) (wave : List Bool) (w : RecordWrite),
    s.line.tx = pre ++ x :: post → (∀ y ∈ pre, y.inTransmission = false) → x.inTransmission = true →
    s.sendOutcome wave = some .success → s.line.pacing = [] →
    let line : Line := { s.line with tx := pre ++ post, failCount := 0, driving := [] }
    (∀ o, x.frame.payload = .held o →
      Ends (exec (.transmitSuccess ⟨wave, w⟩) s) w
        { s with line := line, book := (s.modEntry o fun e => { e with heldQueued := false }).book }) ∧
    (2 ≤ x.frame.payload.kind → Ends (exec (.transmitSuccess ⟨wave, w⟩) s) w { s with line := line })

/-- A BID that completes with a withdrawal pending makes no loan: the pledges are undone and the entry goes to TAKEN of
the station heard, or is removed, or is an own release with reason TITLE-VOID (R26, R33, R34; `OwnReleased`): the
RELEASE is queued where the transmit queue and the pacing list allow it (R15), and at release count 3 the entry is removed;
refused, it stays owed and the Order Book joins the pacing list; behind others owed, it joins the owed list.  Stated where no
room event follows the completion: no owner waits, or fewer than 4 entries are free. -/
def Obligations.CompletedBidNotWon : Prop :=
  ∀ (s : State) (pre post : List TxEntry) (x : TxEntry) (wave : List Bool) (w : RecordWrite) (o : OrderNo) (path : Path)
    (e : Entry) (p : Pledge) (cause : Cause),
    s.line.tx = pre ++ x :: post → (∀ y ∈ pre, y.inTransmission = false) →
    x.inTransmission = true → s.sendOutcome wave = some .success → x.frame.payload = .bid o path →
    s.line.pacing = [] ∨ 12 < (pre ++ post).length → s.entry? o = some e →
    e.state = .queued p (.awaited (some cause)) →
    let t : State :=
      { s with
        line := { s.line with tx := pre ++ post, failCount := 0, driving := [] }, tables := s.tables.undo o e.work p }
    (∀ y, cause = .heard y → Ends (exec (.transmitSuccess ⟨wave, w⟩) s) w (t.setEntryState o (.takenOther y))) ∧
    (cause = .remove → Ends (exec (.transmitSuccess ⟨wave, w⟩) s) w (t.dropEntry o)) ∧
    (cause = .void → ∃ u, OwnReleased t e .titleVoid u ∧ Ends (exec (.transmitSuccess ⟨wave, w⟩) s) w u)

/-- The win: the BID's completion creates the loan in CLAIMED under the sequence search's number, the entry goes to
TAKEN(self) naming it, and each part starts with its owner: a job with the bid's m and T0, the issued record with its
FETCH notice, the PICK-SET notice; a COPY win whose title is no longer VALID is released at once with reason TITLE-VOID
(R26, R33, R50, R52, R53, R55, R56, R68, R95). -/
def Obligations.WinCreatesLoan : Prop :=
  ∀ (s : State) (pre post : List TxEntry) (x : TxEntry) (wave : List Bool) (w : RecordWrite) (o : OrderNo) (path : Path)
    (e : Entry) (p : Pledge) (q : PendingWithdrawal),
    s.line.tx = pre ++ x :: post → (∀ y ∈ pre, y.inTransmission = false) →
    x.inTransmission = true → s.sendOutcome wave = some .success → x.frame.payload = .bid o path →
    s.line.pacing = [] ∨ 12 < (pre ++ post).length → s.entry? o = some e → e.state = .queued p q → q = .none ∨ q = .awaited none →
    let seq : LoanSeq := s.freeSeq 32769 s.tables.loanSeq
    let n : LoanNo := makeNumber (s.start.own.getD 0) seq
    s.loan? n = none → (∀ y ∈ s.book.entries, y.state ≠ .takenSelf n) →
    let volumes := ((s.set? e.work).map (·.volumes)).getD 0
    let loan (cart : Option CartPart) (braille : Option BraillePart) (units : Nat) : Loan :=
      { number := n, order := e.order, patron := e.patron, work := e.work, format := e.format, zone := e.zone,
        urgent := e.urgent, claimDay := s.tables.day, state := .claimed, cart := cart, braille := braille,
        mailUnits := units, container := none, tray := none, dispatchDay := none, dueDay := none,
        overdueSent := false, lostSent := false, recovery := .none }
    let won (l : Loan) : State :=
      { s with
        line := { s.line with tx := pre ++ post, failCount := 0, driving := [] }
        tables :=
          { s.tables with
            loans := insertLoan l s.tables.loans
            loanSeq := if seq = 262143 then 1 else seq + 1 }
        book := (s.setEntryState e.order (.takenSelf n)).book }
    let braille : Option BraillePart := if e.format = .both then some ⟨e.work, .pledged⟩ else none
    let units : Nat := if e.format = .both then 1 + 2 * volumes else 1
    let picks (u : State) : State := if e.format = .both then u.raise (.pickSet n e.work volumes) else u
    (∀ d, e.format ≠ .braille → p.path = .copy → s.dir? e.work = some d → d.state = .valid →
      let t := won (loan (some ⟨.copy, .queued, 0⟩) braille units)
      Ends (exec (.transmitSuccess ⟨wave, w⟩) s) w
        (picks { t with
          copy :=
            { s.copy with queue := s.copy.queue ++ [⟨n, e.work, d.start, d.len, p.blockMs, p.baseTime, false⟩] } })) ∧
    (∀ k, e.format ≠ .braille → p.path = .reissue → p.serial = some k →
      Ends (exec (.transmitSuccess ⟨wave, w⟩) s) w
        (picks (((won (loan (some ⟨.reissue, .queued, 0⟩) braille units)).modStock k fun r =>
          { r with state := .issuing n }).raise (.fetch n k ((s.stock? k).bind (·.shelf)))))) ∧
    (e.format = .braille → p.path = .brailleOnly →
      Ends (exec (.transmitSuccess ⟨wave, w⟩) s) w
        ((won (loan none (some ⟨e.work, .pledged⟩) (2 * volumes))).raise (.pickSet n e.work volumes))) ∧
    (e.format = .cartridge → p.path = .copy → (∀ d, s.dir? e.work = some d → d.state ≠ .valid) →
      let t : State :=
        { s with
          line := { s.line with tx := pre ++ post, failCount := 0, driving := [] }
          tables := { s.tables with loanSeq := if seq = 262143 then 1 else seq + 1 } }
      ∃ u, OwnReleased t e .titleVoid u ∧ Ends (exec (.transmitSuccess ⟨wave, w⟩) s) w u)

/-- The two number searches (R53, R155), each from its counter's value and wrapping from its highest number to 1: the loan
search takes the first sequence number whose loan number no record holds, and with at most 32,768 records it always ends
with a free number; the tray search takes the first tray number that no record holds, and always ends. -/
def Obligations.NumberSearchesFindFree : Prop :=
  ∀ s : State,
    (∀ q : LoanSeq, q ≠ 0 → s.tables.loans.length ≤ 32768 →
      ∃ k ≤ 32768, s.freeSeq 32769 q = seqAfter^[k] q ∧ s.freeSeq 32769 q ≠ 0 ∧
        s.loan? (makeNumber s.station (s.freeSeq 32769 q)) = none ∧
        ∀ j < k, (s.loan? (makeNumber s.station (seqAfter^[j] q))).isSome) ∧
    (∀ q : TrayNo, q ≠ 0 →
      ∃ k ≤ 16, s.freeTrayNo 16 q = trayNoAfter^[k] q ∧ s.freeTrayNo 16 q ≠ 0 ∧
        (∀ r x, s.tray r = some x → x.number ≠ s.freeTrayNo 16 q) ∧
        ∀ j < k, ∃ r x, s.tray r = some x ∧ x.number = trayNoAfter^[j] q)

/-- The two admission rules (R15): a BID or HELD is accepted whenever an entry is free; a paced owner is accepted when 4
are free and no other owner is ahead of it, and then leaves the pacing list, and otherwise joins its tail once. -/
def Obligations.AdmissionToTransmitQueue : Prop :=
  ∀ (s : State) (payload : Payload), s.line.tx.length ≤ 16 →
    let queued (rank : BitVec 14) (pacing : List PacedOwner) : State :=
      { s with
        line :=
          { s.line with
            tx := s.line.tx ++ [⟨⟨rank, s.start.own.getD 0, payload⟩, false, false⟩], pacing := pacing } }
    (∀ rank, s.line.tx.length < 16 → s.offerUrgent rank payload = some (queued rank s.line.pacing)) ∧
    (∀ rank, s.line.tx.length = 16 → s.offerUrgent rank payload = none) ∧
    (∀ o, s.line.tx.length ≤ 12 → s.line.pacing = [] → s.offerPaced o payload = (queued 0 [], true)) ∧
    (∀ o rest, s.line.tx.length ≤ 12 → s.line.pacing = o :: rest → o ∉ rest →
      s.offerPaced o payload = (queued 0 rest, true)) ∧
    (∀ o, 12 < s.line.tx.length ∨ (∃ y rest, s.line.pacing = y :: rest ∧ y ≠ o) →
      s.offerPaced o payload =
        ({ s with
          line := { s.line with pacing := if o ∈ s.line.pacing then s.line.pacing else s.line.pacing ++ [o] } }, false))

/-- The room event after a completed frame, with at least 4 entries then free (R15).  Owners with nothing to offer leave the
pacing list one after another; the first that has a frame offers it and leaves the list, the owners behind it staying in
their order.  The Order Book offers the RELEASE at the head of its owed list (R34), the Returns Unit its oldest offerable
RETURNED (R148), the Tray Unit the SHIPPED of the next loan of the dispatch line (R162), the Loan Register the LOANSTATE its
scan owes (R63).  An owner with one more frame offers again, and rejoins the tail of the list where others wait or fewer than
4 entries are then free.  A scan whose owed notice is owed no longer goes on.  With fewer than 4 free at the event, no owner is served.  That an
owner offers again in the same event, and that a RETURNED carries its loan number also out of range, are the model's choices
(log entries 10 and 34). -/
def Obligations.RoomEventServesFirstOwner : Prop :=
  ∀ (s : State) (pre post : List TxEntry) (x : TxEntry) (wave : List Bool) (w : RecordWrite),
    s.line.tx = pre ++ x :: post → (∀ y ∈ pre, y.inTransmission = false) → x.inTransmission = true →
    2 ≤ x.frame.payload.kind → s.sendOutcome wave = some .success →
    let r := exec (.transmitSuccess ⟨wave, w⟩) s
    let paces (pacing : List PacedOwner) : State :=
      { s with line := { s.line with tx := pre ++ post, failCount := 0, driving := [], pacing := pacing } }
    let offers (pacing : List PacedOwner) (p : Payload) : State :=
      { s with
        line :=
          { s.line with
            tx := pre ++ post ++ [⟨⟨0, s.start.own.getD 0, p⟩, false, false⟩], failCount := 0, driving := []
            pacing := pacing } }
    let scanned : DayScan :=
      if s.tables.loans.any (fun y => aboveLast s.scan.last y.number) then { s.scan with owed := none }
      else if s.scan.rescan then { s.scan with last := none, rescan := false, owed := none }
      else { s.scan with last := none, running := false, owed := none }
    let waits (z : OutEntry) : Prop := z.condition = none ∨ z.held = true
    let idles : PacedOwner → Prop
      | .book => s.book.owed = []
      | .returns => ∀ z ∈ s.returns.outbox, waits z
      | .tray => s.tables.dispatchLine = []
      | .register => s.scan.owed = none
    (12 < (pre ++ post).length → (pre ++ post).length ≤ 16 → Ends r w (paces s.line.pacing)) ∧
    ((pre ++ post).length ≤ 12 → s.line.pacing.Nodup →
      ((∀ o ∈ s.line.pacing, idles o) → Ends r w (paces [])) ∧
      (∀ idle n st, s.line.pacing = idle ++ [.register] → (∀ o ∈ idle, idles o) → s.scan.owed = some (n, st) →
        s.loan? n = none → Ends r w { paces [] with scan := scanned }) ∧
      (∀ (idle rest : List PacedOwner) (first : PacedOwner), s.line.pacing = idle ++ first :: rest →
        (∀ o ∈ idle, idles o) →
        let rejoins : Prop := rest ≠ [] ∨ 12 ≤ (pre ++ post).length
        (∀ o e why, first = .book → s.book.owed = [o] → s.entry? o = some e → e.owed = some why →
          (e.releaseCount ≠ 3 →
            Ends r w
              { offers rest (.release o e.releaseCount why) with
                book := ⟨(s.modEntry o fun e => { e with owed := none }).book.entries, []⟩ }) ∧
          (e.releaseCount = 3 →
            Ends r w
              { offers rest (.release o e.releaseCount why) with
                book := ⟨s.book.entries.filter fun y => y.order != o, []⟩ })) ∧
        (∀ o o' more e e' why, first = .book → rejoins → s.book.owed = o :: o' :: more → o ∉ o' :: more →
          s.entry? o = some e → e.owed = some why → e.releaseCount ≠ 3 → s.entry? o' = some e' → e'.owed ≠ none →
          Ends r w
            { offers (rest ++ [.book]) (.release o e.releaseCount why) with
              book := ⟨(s.modEntry o fun e => { e with owed := none }).book.entries, o' :: more⟩ }) ∧
        (∀ before y after c, first = .returns → s.returns.wait = [] → s.returns.outbox = before ++ y :: after →
          (∀ z ∈ before, waits z) → y.condition = some c → y.held = false → (∀ z ∈ before ++ after, z.loan ≠ y.loan) →
          ((∀ z ∈ after, waits z) →
            Ends r w { offers rest (.returned y.loan y.serial y.day c) with returns := ⟨before ++ after, []⟩ }) ∧
          (∀ z ∈ after, rejoins → ¬ waits z →
            Ends r w
              { offers (rest ++ [.returns]) (.returned y.loan y.serial y.day c) with
                returns := ⟨before ++ after, []⟩ })) ∧
        (∀ q line t n more l e, first = .tray → s.line.state ≠ .listen → s.tables.dispatchLine = q :: line →
          s.tray q = some t → t.state = .dispatching → t.loans = n :: more → s.loan? n = some l →
          s.entryOfLoan? n = some e →
          let day := s.tables.day
          let due : Day := BitVec.ofNat 16 (min 65535 (day.toNat + s.cfg.loanPeriod))
          let serial : Serial := match l.cart with
            | some ⟨_, .ready k, _⟩ => k
            | _ => 0
          let ships (pacing : List PacedOwner) (tray : Option Tray) (line : List (Fin 16)) : State :=
            { offers pacing (.shipped l.order n serial day due) with
              tables :=
                { s.tables with
                  loans := s.tables.loans.map fun y =>
                    if y.number = n then
                      { y with state := .shipped, dispatchDay := some day, dueDay := some due, tray := none }
                    else y
                  trays := s.tables.trays.set q.val tray q.isLt, dispatchLine := line }
              book := (s.dropEntry e.order).book }
          (more = [] → line = [] → Ends r w (ships rest none [])) ∧
          (∀ n' more' l', more = n' :: more' → s.loan? n' = some l' → rejoins →
            Ends r w (ships (rest ++ [.tray]) (some { t with loans := more, load := t.load - l.mailUnits }) (q :: line))) ∧
          (∀ q' line' t' n' more' l', more = [] → line = q' :: line' → q ∉ line → s.tray q' = some t' →
            t'.loans = n' :: more' → s.loan? n' = some l' → rejoins → Ends r w (ships (rest ++ [.tray]) none line))) ∧
        (∀ n l, first = .register → s.scan.owed = some (n, .overdue) → s.loan? n = some l → l.overdueSent = false →
          l.recovery ≠ .owed →
          (∃ c, l.cart = some c ∧ c.status ≠ .back) ∨ (∃ b, l.braille = some b ∧ b.status ≠ .back) →
          let notice (pacing : List PacedOwner) : State :=
            { offers pacing (.loanState n l.patron .overdue (l.dueDay.getD 0)) with
              tables :=
                { s.tables with
                  loans := s.tables.loans.map fun y => if y.number = n then { y with overdueSent := true } else y } }
          (l.state = .overdue → Ends r w { notice rest with scan := scanned }) ∧
          (l.state = .lost → l.lostSent = false → l.recovery = .none → rejoins →
            Ends r w { notice (rest ++ [.register]) with scan := { s.scan with owed := some (n, .lost) } }))))

/-! ### The Order Book -/

/-- The filter hit is the lowest-numbered filter that is enabled, whose title bits match wherever the mask holds a one
and whose format set holds the order's format (R18). -/
def Obligations.FilterHitIsLowest : Prop :=
  ∀ (s : State) (t : Title) (f : Format),
    let hits (i : Idx8) : Prop :=
      s.cfg.filters[i].enabled = true ∧
      (∀ b < 20, s.cfg.filters[i].mask.getLsbD b = true → t.getLsbD b = s.cfg.filters[i].value.getLsbD b) ∧
      ((f = .cartridge ∧ s.cfg.filters[i].cartridge = true) ∨ (f = .braille ∧ s.cfg.filters[i].braille = true) ∨
        (f = .both ∧ s.cfg.filters[i].both = true))
    (∀ h, s.filterHit t f = some h ↔ hits h ∧ ∀ i < h, ¬ hits i) ∧ (s.filterHit t f = none ↔ ∀ i, ¬ hits i)

/-- An ORDER taken: one already booked, or without a filter hit, changes nothing but the receive queue; any other is
booked in WINDOW at the end of the booking order, where the book holds fewer than 96 entries (R13, R19, R21). -/
def Obligations.OrderIsBooked : Prop :=
  ∀ (s : State) (rest : List RxEntry) (time : Millis) (rank : BitVec 14) (desk : Station) (o : OrderNo)
    (patron : Patron) (work : Work) (format : Format) (zone : Zone),
    s.line.rx = ⟨⟨rank, desk, .order o patron work format zone⟩, time⟩ :: rest →
    let t : State := { s with line := { s.line with rx := rest, overrun := s.line.overrun && !rest.isEmpty } }
    ((∃ e, s.entry? o = some e) ∨ s.filterHit work.title format = none → exec .order s = .next t) ∧
    (∀ h, s.entry? o = none → s.filterHit work.title format = some h → s.book.entries.length < 96 →
      exec .order s = .next
        { t with
          book :=
            { s.book with
              entries := s.book.entries ++
                [{ order := o, patron := patron, work := work, format := format, zone := zone,
                   urgent := decide (rank = 0), desk := desk, hit := some h, bookedDay := s.tables.day,
                   state := .window (time + BitVec.ofNat 32 (10 * s.cfg.bidWindow)), releaseCount := 0,
                   excluded := false, owed := none, heldQueued := false }] } })

/-- At a full book an ORDER to be booked evicts the oldest entry in TAKEN(other), and else the oldest in UNBID, of those
that owe no RELEASE; with neither the order leaves no trace (R20). -/
def Obligations.FullBookEvicts : Prop :=
  ∀ (s : State) (rest : List RxEntry) (time : Millis) (rank : BitVec 14) (desk : Station) (o : OrderNo)
    (patron : Patron) (work : Work) (format : Format) (zone : Zone) (h : Idx8),
    s.line.rx = ⟨⟨rank, desk, .order o patron work format zone⟩, time⟩ :: rest →
    s.entry? o = none → s.filterHit work.title format = some h → s.book.entries.length = 96 →
    let other (e : Entry) : Prop := e.owed = none ∧ ∃ x, e.state = .takenOther x
    let unbid (e : Entry) : Prop := e.owed = none ∧ e.state = .unbid
    let booked (v : Entry) : Prop := ∃ n : Entry, n.order = o ∧ n.state = .window (time + s.windowMs) ∧
      exec .order s = .next
        { s.popRx with book := ⟨(s.dropEntry v.order).book.entries ++ [n], (s.dropEntry v.order).book.owed⟩ }
    (∀ pre v post, s.book.entries = pre ++ v :: post → other v → (∀ y ∈ pre, ¬ other y) → booked v) ∧
    ((∀ y ∈ s.book.entries, ¬ other y) → ∀ pre v post, s.book.entries = pre ++ v :: post → unbid v →
      (∀ y ∈ pre, ¬ unbid y) → booked v) ∧
    ((∀ y ∈ s.book.entries, ¬ other y ∧ ¬ unbid y) → exec .order s = .next s.popRx)

/-- A BID heard acts on the entry for its order according to the entry's state (R27): from WINDOW or UNBID to TAKEN(s);
from QUEUED by a withdrawal with cause HEARD(s), at once (stated where no owner waits for room, R15) or when a BID in
transmission has its outcome; TAKEN(self) sends a HELD, once, and where an entry of the transmit queue is free (R14, R29; a HELD in the queue, log entry 11);
TAKEN(other), and an order not booked, ignore it. -/
def Obligations.BidHeardByState : Prop :=
  ∀ (s : State) (rest : List RxEntry) (time : Millis) (rank : BitVec 14) (x : Station) (o : OrderNo) (path : Path)
    (w : RecordWrite), s.line.rx = ⟨⟨rank, x, .bid o path⟩, time⟩ :: rest →
    let t := s.popRx
    (s.entry? o = none → Ends (exec (.bidHeard w) s) w t) ∧
    (∀ e, s.entry? o = some e → (∃ d, e.state = .window d) ∨ e.state = .unbid →
      Ends (exec (.bidHeard w) s) w (t.setEntryState o (.takenOther x))) ∧
    (∀ e y, s.entry? o = some e → e.state = .takenOther y → Ends (exec (.bidHeard w) s) w t) ∧
    (∀ e n, s.entry? o = some e → e.state = .takenSelf n → e.heldQueued = false →
      (∀ y ∈ s.line.tx, y.frame.payload ≠ .held o) → s.line.tx.length < 16 →
      Ends (exec (.bidHeard w) s) w
        ((t.modEntry o fun e => { e with heldQueued := true }).pushTx ⟨0, s.start.own.getD 0, .held o⟩)) ∧
    (∀ e n, s.entry? o = some e → e.state = .takenSelf n →
      e.heldQueued = true ∨ (∃ y ∈ s.line.tx, y.frame.payload = .held o) ∨ 16 ≤ s.line.tx.length →
      Ends (exec (.bidHeard w) s) w t) ∧
    (∀ e p c, s.entry? o = some e → e.state = .queued p (.awaited c) →
      Ends (exec (.bidHeard w) s) w
        (t.setEntryState o
          (.queued p (.awaited (if c = none ∨ c = some .void then some (.heard x) else c))))) ∧
    (∀ e p pre b post, s.entry? o = some e → e.state = .queued p .none → s.line.tx = pre ++ b :: post →
      (∀ y ∈ pre, ∀ z, y.frame.payload ≠ .bid o z) → (∃ z, b.frame.payload = .bid o z) →
      (b.inTransmission = false → s.line.pacing = [] →
        Ends (exec (.bidHeard w) s) w
          { t with
            line := { t.line with tx := pre ++ post }, tables := s.tables.undo o e.work p
            book := (s.setEntryState o (.takenOther x)).book }) ∧
      (b.inTransmission = true →
        Ends (exec (.bidHeard w) s) w
          { t with
            line := { t.line with tx := pre ++ { b with withdrawPending := true } :: post }
            book := (s.setEntryState o (.queued p (.awaited (some (.heard x))))).book }))

/-- A HELD for an order that two stations hold: the lower number keeps it (R28, R36).  From a lower station a loan in
CLAIMED or READY, or PACKED in a tray not DISPATCHING, is unwound by the rows of R65 and the entry goes to TAKEN(h), and one
PACKED in a DISPATCHING tray ships (R64); from a higher one this station sends a HELD of its own, once, where an entry of the
transmit queue is free (R29; a HELD in the queue, log entry 11); in every other state the HELD is taken as a BID: WINDOW and
UNBID go to TAKEN(h), a queued BID is withdrawn with cause HEARD(h) (at once, stated where no owner waits for room, R15),
and TAKEN(other) and an order not booked ignore it. -/
def Obligations.HeldHeardByNumber : Prop :=
  ∀ (s : State) (rest : List RxEntry) (time : Millis) (rank : BitVec 14) (x : Station) (o : OrderNo) (w : RecordWrite),
    s.line.rx = ⟨⟨rank, x, .held o⟩, time⟩ :: rest →
    let t := s.popRx
    let own := s.start.own.getD 0
    let r := exec (.heldHeard w) s
    (s.entry? o = none → Ends r w t) ∧
    (∀ e n, s.entry? o = some e → e.state = .takenSelf n → x < own →
      (∀ l, s.loan? n = some l →
        (l.state = .claimed ∨ l.state = .ready ∨
            (l.state = .packed ∧ ∀ k q y, l.tray = some k → s.tray q = some y → y.number = k → y.state ≠ .dispatching) →
          WithdrawalActs t l fun u => Ends r w (u.setEntryState o (.takenOther x))) ∧
        (∀ q y, l.state = .packed → l.tray = some y.number → s.tray q = some y →
          (∀ p z, s.tray p = some z → z.number = y.number → p = q) → y.state = .dispatching → Ends r w t)) ∧
      (s.loan? n = none → Ends r w (t.setEntryState o (.takenOther x)))) ∧
    (∀ e n, s.entry? o = some e → e.state = .takenSelf n → own ≤ x →
      (e.heldQueued = false → (∀ y ∈ s.line.tx, y.frame.payload ≠ .held o) → s.line.tx.length < 16 →
        Ends r w ((t.modEntry o fun e => { e with heldQueued := true }).pushTx ⟨0, own, .held o⟩)) ∧
      (e.heldQueued = true ∨ (∃ y ∈ s.line.tx, y.frame.payload = .held o) ∨ 16 ≤ s.line.tx.length → Ends r w t)) ∧
    (∀ e, s.entry? o = some e → (∃ d, e.state = .window d) ∨ e.state = .unbid →
      Ends r w (t.setEntryState o (.takenOther x))) ∧
    (∀ e y, s.entry? o = some e → e.state = .takenOther y → Ends r w t) ∧
    (∀ e p c, s.entry? o = some e → e.state = .queued p (.awaited c) →
      Ends r w
        (t.setEntryState o
          (.queued p (.awaited (if c = none ∨ c = some .void then some (.heard x) else c))))) ∧
    (∀ e p pre b post, s.entry? o = some e → e.state = .queued p .none → s.line.tx = pre ++ b :: post →
      (∀ y ∈ pre, ∀ z, y.frame.payload ≠ .bid o z) → (∃ z, b.frame.payload = .bid o z) →
      (b.inTransmission = false → s.line.pacing = [] →
        Ends r w
          { t with
            line := { t.line with tx := pre ++ post }, tables := s.tables.undo o e.work p
            book := (s.setEntryState o (.takenOther x)).book }) ∧
      (b.inTransmission = true →
        Ends r w
          { t with
            line := { t.line with tx := pre ++ { b with withdrawPending := true } :: post }
            book := (s.setEntryState o (.queued p (.awaited (some (.heard x))))).book }))

/-- SHIPPED and CANCEL end an order at this station (R30, R32, R36): an entry in WINDOW, UNBID or TAKEN(other) is
removed with any RELEASE it owes; a queued BID is withdrawn with cause REMOVE, at once (stated where no owner waits for room,
R15) or, in transmission, when it has its outcome, and REMOVE stands in place of any cause already pending (R25); a loan in
CLAIMED or READY, or PACKED in a tray not DISPATCHING, is unwound by the rows of R65 and the entry removed, and a loan past
withdrawal keeps its entry (R64).  One for an order not booked, and a CANCEL from a station that is not the entry's desk, are
ignored. -/
def Obligations.ShippedOrCancelEndsOrder : Prop :=
  ∀ (s : State) (rest : List RxEntry) (time : Millis) (rank : BitVec 14) (x : Station) (o : OrderNo)
    (payload : Payload) (w : RecordWrite), s.line.rx = ⟨⟨rank, x, payload⟩, time⟩ :: rest →
    let t := s.popRx
    let ends (c : Instr) (e : Entry) : Prop :=
      ((∃ d, e.state = .window d) ∨ e.state = .unbid ∨ (∃ y, e.state = .takenOther y) →
        Ends (exec c s) w (t.dropEntry o)) ∧
      (∀ p c', e.state = .queued p (.awaited c') →
        Ends (exec c s) w (t.setEntryState o (.queued p (.awaited (some .remove))))) ∧
      (∀ p pre b post, e.state = .queued p .none → s.line.tx = pre ++ b :: post →
        (∀ y ∈ pre, ∀ z, y.frame.payload ≠ .bid o z) → (∃ z, b.frame.payload = .bid o z) →
        (b.inTransmission = false → s.line.pacing = [] →
          Ends (exec c s) w
            ({ t with line := { t.line with tx := pre ++ post }, tables := s.tables.undo o e.work p }.dropEntry o)) ∧
        (b.inTransmission = true →
          Ends (exec c s) w
            { t with
              line := { t.line with tx := pre ++ { b with withdrawPending := true } :: post }
              book := (s.setEntryState o (.queued p (.awaited (some .remove)))).book })) ∧
      (∀ n l, e.state = .takenSelf n → s.loan? n = some l →
        (l.state = .shipped ∨ l.state = .overdue ∨ l.state = .lost → Ends (exec c s) w t) ∧
        (l.state = .claimed ∨ l.state = .ready ∨
            (l.state = .packed ∧ ∀ k q y, l.tray = some k → s.tray q = some y → y.number = k → y.state ≠ .dispatching) →
          WithdrawalActs t l fun u => Ends (exec c s) w (u.dropEntry o)) ∧
        (∀ q y, l.state = .packed → l.tray = some y.number → s.tray q = some y →
          (∀ p z, s.tray p = some z → z.number = y.number → p = q) → y.state = .dispatching → Ends (exec c s) w t)) ∧
      (∀ n, e.state = .takenSelf n → s.loan? n = none → Ends (exec c s) w (t.dropEntry o))
    (∀ n k d u, payload = .shipped o n k d u →
      (s.entry? o = none → Ends (exec (.shippedHeard w) s) w t) ∧
      (∀ e, s.entry? o = some e → ends (.shippedHeard w) e)) ∧
    (payload = .cancel o →
      (s.entry? o = none → Ends (exec (.cancel w) s) w t) ∧
      (∀ e, s.entry? o = some e → (x = e.desk → ends (.cancel w) e) ∧ (x ≠ e.desk → Ends (exec (.cancel w) s) w t)))

/-- A RELEASE with count c acts by the entry's state (R31, R35): one not above the entry's count is ignored; TAKEN(self)
takes the count; a queued BID stands with the count and a HEARD cause cleared, or with count 3 is withdrawn with cause
REMOVE; any other entry enters a new WINDOW from the frame's reception time, or with count 3 is removed with any RELEASE
it owes. -/
def Obligations.ReleaseHeardByCount : Prop :=
  ∀ (s : State) (rest : List RxEntry) (time : Millis) (rank : BitVec 14) (x : Station) (o : OrderNo) (c : BitVec 2)
    (why : Reason) (w : RecordWrite), s.line.rx = ⟨⟨rank, x, .release o c why⟩, time⟩ :: rest →
    let t := s.popRx
    let r := exec (.releaseHeard w) s
    (s.entry? o = none → Ends r w t) ∧
    (∀ e, s.entry? o = some e → c ≤ e.releaseCount → Ends r w t) ∧
    (∀ e, s.entry? o = some e → e.releaseCount < c →
      (∀ n, e.state = .takenSelf n → Ends r w (t.modEntry o fun y => { y with releaseCount := c })) ∧
      ((∃ d, e.state = .window d) ∨ e.state = .unbid ∨ (∃ y, e.state = .takenOther y) →
        (c ≠ 3 → Ends r w (t.modEntry o fun y =>
          { y with releaseCount := c, state := .window (time + BitVec.ofNat 32 (10 * s.cfg.bidWindow)) })) ∧
        (c = 3 → Ends r w (t.dropEntry o))) ∧
      (∀ p, e.state = .queued p .none →
        (c ≠ 3 → Ends r w (t.modEntry o fun y => { y with releaseCount := c, state := .queued p .none })) ∧
        (∀ pre b post, c = 3 → s.line.tx = pre ++ b :: post → (∀ y ∈ pre, ∀ z, y.frame.payload ≠ .bid o z) →
          (∃ z, b.frame.payload = .bid o z) → b.inTransmission = false → s.line.pacing = [] →
          Ends r w
            ({ t with line := { t.line with tx := pre ++ post }, tables := s.tables.undo o e.work p }.dropEntry o)) ∧
        (∀ pre b post, c = 3 → s.line.tx = pre ++ b :: post → (∀ y ∈ pre, ∀ z, y.frame.payload ≠ .bid o z) →
          (∃ z, b.frame.payload = .bid o z) → b.inTransmission = true →
          Ends r w
            { t with
              line := { t.line with tx := pre ++ { b with withdrawPending := true } :: post }
              book :=
                (s.modEntry o fun y =>
                  { y with releaseCount := c, state := .queued p (.awaited (some .remove)) }).book })) ∧
      (∀ p k, e.state = .queued p (.awaited k) →
        Ends r w (t.modEntry o fun y =>
          { y with
            releaseCount := c
            state := .queued p (.awaited (if c = 3 then some .remove
              else match k with
                | some (.heard _) => none
                | k => k)) })))

/-- A DATE of a day later than the held one advances the day, removes the aged entries that owe no RELEASE and requests a
day scan; any other DATE is ignored (R39, R61, R62). -/
def Obligations.DateAdvancesDay : Prop :=
  ∀ (s : State) (rest : List RxEntry) (time : Millis) (rank : BitVec 14) (x : Station) (d : Day) (w : RecordWrite),
    s.line.rx = ⟨⟨rank, x, .date d⟩, time⟩ :: rest →
    let t := s.popRx
    let aged (e : Entry) : Bool := e.owed.isNone && match e.state with
      | .takenOther _ => decide (e.bookedDay.toNat + 5 ≤ d.toNat)
      | .unbid => decide (e.bookedDay.toNat + 14 ≤ d.toNat)
      | _ => false
    (d ≤ s.tables.day → Ends (exec (.date w) s) w t) ∧
    (s.tables.day < d → Ends (exec (.date w) s) w
      { t with
        tables := { s.tables with day := d }
        book := { s.book with entries := s.book.entries.filter fun e => !aged e }
        scan :=
          if s.scan.running then { s.scan with rescan := true } else { s.scan with running := true, last := none } })

/-- A RETURNED for an own loan is a cartridge return (R66, R67, R149): of a loan in SHIPPED, OVERDUE or LOST with this
serial READY the part goes to BACK, a LOST loan's recovery notice becomes OWED with a scan requested, or DONE, and the
record closes when every part is BACK and no RECOVERED is owed; any other return is ignored. -/
def Obligations.ReturnedHeardClosesPart : Prop :=
  ∀ (s : State) (rest : List RxEntry) (time : Millis) (rank : BitVec 14) (x : Station) (n : LoanNo) (k : Serial)
    (day : Day) (c : Condition) (w : RecordWrite), s.line.rx = ⟨⟨rank, x, .returned n k day c⟩, time⟩ :: rest →
    let t := s.popRx
    let applies (l : Loan) : Prop :=
      (l.state = .shipped ∨ l.state = .overdue ∨ l.state = .lost) ∧ ∃ p a, l.cart = some ⟨p, .ready k, a⟩
    (s.start.own ≠ some (n.extractLsb' 18 6) → Ends (exec (.returnedHeard w) s) w t) ∧
    ((∀ l, s.loan? n = some l → ¬ applies l) → Ends (exec (.returnedHeard w) s) w t) ∧
    (∀ l, s.start.own = some (n.extractLsb' 18 6) → s.loan? n = some l → applies l →
      let notice : RecoveryNotice :=
        if l.state = .lost ∧ l.recovery = .none then (if l.lostSent then .owed else .done) else l.recovery
      ((∀ b, l.braille = some b → b.status = .back) → notice ≠ .owed →
        Ends (exec (.returnedHeard w) s) w
          { t with tables := { s.tables with loans := s.tables.loans.filter fun y => y.number != n } }) ∧
      ((∃ b, l.braille = some b ∧ b.status ≠ .back) ∨ notice = .owed →
        Ends (exec (.returnedHeard w) s) w
          { t with
            scan :=
              if l.state = .lost ∧ l.recovery = .none ∧ l.lostSent = true then
                if s.scan.running then { s.scan with rescan := true }
                else { s.scan with running := true, last := none }
              else s.scan
            tables :=
              { s.tables with
                loans := s.tables.loans.map fun y =>
                  if y.number = n then
                    { y with
                      cart := y.cart.map fun c => { c with status := .back }
                      recovery := if l.state = .lost ∧ l.recovery = .none then notice else y.recovery }
                  else y } }))

/-- The window expiry (R22, R23, R24, R50), taken for the first entry in booking order whose deadline has been reached and
for no other: in LISTEN, of an excluded order, at "no bid" or at a full transmit queue the entry goes to UNBID; otherwise
the Bid Unit's choice is pledged, a BID with the cost as rank is queued and the entry goes to QUEUED with its summary.
That due entries expire in booking order, however long ago each fell due, and that an expiry not due changes nothing, is the
model's choice (log entry 5). -/
def Obligations.WindowExpiryDecides : Prop :=
  ∀ (s : State) (w : RecordWrite),
    let due (e : Entry) : Prop := ∃ d, e.state = .window d ∧ (s.time.ms - d).toNat < 2147483648
    (∀ o, (∀ e ∈ s.book.entries, ¬ due e) → exec (.windowExpiry o w) s = .next s) ∧
    (∀ pre e post, s.book.entries = pre ++ e :: post → due e → (∀ y ∈ pre, ¬ due y) →
      let r := exec (.windowExpiry e.order w) s
      let passed := s.setEntryState e.order .unbid
      (∀ o, o ≠ e.order → exec (.windowExpiry o w) s = .next s) ∧
      (s.line.state = .listen ∨ e.excluded = true → Ends r w passed) ∧
      (s.bid e.work e.format e.hit = none → Ends r w passed) ∧
      (16 ≤ s.line.tx.length → Ends r w passed) ∧
      (∀ a, s.line.state ≠ .listen → e.excluded = false → s.bid e.work e.format e.hit = some a →
        s.line.tx.length < 16 →
        Ends r w
          { s with
            line :=
              { s.line with
                tx := s.line.tx ++
                  [⟨⟨BitVec.ofNat 14 a.cost, s.start.own.getD 0, .bid e.order a.path⟩, false, false⟩] }
            tables :=
              { s.tables with
                stock := s.tables.stock.map fun x =>
                  if a.serial = some x.serial then { x with state := .pledged e.order } else x
                sets := s.tables.sets.map fun x =>
                  if a.set = true ∧ x.work = e.work then { x with pledged := x.pledged + 1 } else x }
            book :=
              (s.setEntryState e.order
                (.queued ⟨a.serial, a.set, a.copySlot, a.path, a.cost, a.blockMs, a.baseTime⟩ .none)).book }))

/-! ### The Bid Unit -/

/-- The Bid Unit's answer (R44 to R49): "no bid" exactly in the four cases of R44; REISSUE with the least used FREE
record, the lowest serial among equals; COPY with T0 + W over the blanks A, the clean ones C, the waiting jobs Q and the
backlog B; the base of the format, the hit's penalty and 4 for each open loan; and the total brought to 1 to 16,382. -/
def Obligations.BidAnswerByPath : Prop :=
  ∀ (s : State) (w : Work) (f : Format) (hit : Option Idx8),
    let free (r : StockRec) : Prop := r ∈ s.tables.stock ∧ r.work = w ∧ r.state = .free
    let valid (len : Nat) : Prop := ∃ d, s.dir? w = some d ∧ d.state = .valid ∧ d.len = len
    let queued : Nat := s.book.entries.countP fun e => e.state.pledge?.isSome
    let copyBids : Nat := s.book.entries.countP fun e => e.state.pledge?.any (·.copySlot)
    let jobs : Nat := s.copy.queue.length
    let noBid : Prop :=
      hit = none ∨ 32768 ≤ s.tables.loans.length + queued ∨
      (f ≠ .braille ∧ (∀ r, ¬ free r) ∧
        ((∀ len, ¬ valid len) ∨ (∀ n : Idx8, s.cfg.roles[n] ≠ .copy) ∨ 24 ≤ jobs + copyBids)) ∨
      (f ≠ .cartridge ∧ ∀ r, s.set? w = some r → r.onShelf < r.pledged + 1)
    let nOpen : Nat := s.tables.loans.countP fun l => l.state == .claimed || l.state == .ready
    let cost (h : Idx8) (cartTime : Nat) : Nat :=
      let base := match f with
        | .cartridge => cartTime
        | .braille => s.cfg.pick
        | .both => max cartTime s.cfg.pick
      max 1 (min 16382 (base + s.cfg.filters[h].penalty + 4 * nOpen))
    (s.bid w f hit = none ↔ noBid) ∧
    (∀ len n c, s.fittingBlank len n = some c ↔
      s.role n = .copy ∧ (s.socket n).state = .blank c ∧
        ∃ v, (s.socket n).view = some v ∧ len + 1 ≤ v.capacity.blocks) ∧
    (∀ h, hit = some h → ¬ noBid →
      (f = .braille → s.bid w f hit = some ⟨.brailleOnly, none, true, false, cost h 0, 0, 0⟩) ∧
      (f ≠ .braille → (∃ r, free r) →
        ∃ r, free r ∧ (∀ q, free q → r.used < q.used ∨ (r.used = q.used ∧ r.serial ≤ q.serial)) ∧
          s.bid w f hit = some ⟨.reissue, some r.serial, decide (f = .both), false, cost h s.cfg.reissue, 0, 0⟩) ∧
      (∀ len, f ≠ .braille → (∀ r, ¬ free r) → valid len →
        let a : Nat := (List.finRange 8).countP fun n => (s.fittingBlank len n).isSome
        let c : Nat := (List.finRange 8).countP fun n => s.fittingBlank len n == some true
        let m : Nat := if jobs < a ∧ jobs < c then s.cfg.program else s.cfg.program + s.cfg.erase
        let t0 : Nat := (len * m + 999) / 1000
        let sockets : Nat := (List.finRange 8).countP fun n => s.cfg.roles[n] == .copy
        let backlog : Nat :=
          (s.copy.queue.map (·.estimate)).sum +
            (s.members.map fun p => ((p.2.job.len - s.blocksDone p.2) * p.2.job.blockMs + 999) / 1000).sum
        let wait : Nat := if jobs < a then 0 else (backlog + sockets - 1) / sockets + s.cfg.blankWait
        s.bid w f hit = some ⟨.copy, none, decide (f = .both), true, cost h (t0 + wait), m, t0⟩))

/-! ### The day scan -/

/-- A visit of the day scan (R62, R63, R67): the next record above the last visited is brought up to date; one that owes
nothing ends the visit, and the pass with it where no record remains above, a rescan then starting over; an owed notice is
queued as a LOANSTATE and its flag set, or waits with the register on the pacing list.  With room for them, all that the
record owes go out in turn, OVERDUE before LOST or RECOVERED; a record whose parts are all BACK is removed as its RECOVERED
is accepted.  A pass that ends within the visit's event is the model's order (log entry 17), and a visit of a scan that
does not run or that waits changes nothing (log entry 4). -/
def Obligations.DayScanVisitsNext : Prop :=
  ∀ (s : State) (w : RecordWrite),
    let r := exec (.dayScanVisit w) s
    let rest (u : State) (last : Option LoanNo) : State :=
      { u with
        scan :=
          if s.tables.loans.any (fun y => aboveLast last y.number) then { s.scan with last := last, owed := none }
          else if s.scan.rescan then { s.scan with last := none, rescan := false, owed := none }
          else { s.scan with last := none, running := false, owed := none } }
    (s.scan.running = false ∨ s.scan.owed ≠ none → r = .next s) ∧
    (s.scan.running = true → s.scan.owed = none →
      ((∀ y ∈ s.tables.loans, aboveLast s.scan.last y.number = false) → Ends r w (rest s s.scan.last)) ∧
      (∀ pre l post, s.tables.loans = pre ++ l :: post → aboveLast s.scan.last l.number = true →
        (∀ y ∈ pre, aboveLast s.scan.last y.number = false) →
        let late (y : Loan) : Bool := y.state == .shipped && y.dueDay.any fun u => decide (u < s.tables.day)
        let lost (y : Loan) : Bool := (y.state == .overdue || late y) && y.dueDay.any fun u =>
          decide (u.toNat + s.cfg.lostInterval ≤ 65535) && decide (u.toNat + s.cfg.lostInterval ≤ s.tables.day.toNat)
        let stepped (y : Loan) : Loan :=
          { y with state := if lost y then .lost else if late y then .overdue else y.state }
        let seen : State :=
          { s with
            tables := { s.tables with loans := s.tables.loans.map fun y => if y.number = l.number then stepped y else y } }
        let state := (stepped l).state
        let due : Day := l.dueDay.getD 0
        let owes : Option LoanStatus :=
          if (state = .overdue ∨ state = .lost) ∧ l.overdueSent = false then some .overdue
          else if state = .lost ∧ l.lostSent = false ∧ l.recovery = .none then some .lost
          else if l.recovery = .owed then some .recovered
          else none
        (owes = none → Ends r w (rest seen (some l.number))) ∧
        (let owedNow : List LoanStatus :=
          (if (state = .overdue ∨ state = .lost) ∧ l.overdueSent = false then [.overdue] else []) ++
            (if state = .lost ∧ l.lostSent = false ∧ l.recovery = .none then [.lost] else []) ++
            (if l.recovery = .owed then [.recovered] else [])
          let queued : Line :=
            { s.line with
              tx := s.line.tx ++ owedNow.map fun st =>
                ⟨⟨0, s.start.own.getD 0, .loanState l.number l.patron st due⟩, false, false⟩ }
          owedNow ≠ [] → s.line.tx.length ≤ 11 → s.line.pacing = [] →
          ((∃ c, l.cart = some c ∧ c.status ≠ .back) ∨ (∃ b, l.braille = some b ∧ b.status ≠ .back) →
            Ends r w
              (rest
                { seen with
                  line := queued
                  tables :=
                    { s.tables with
                      loans := s.tables.loans.map fun y =>
                        if y.number = l.number then
                          { stepped y with
                            overdueSent := y.overdueSent || decide (LoanStatus.overdue ∈ owedNow)
                            lostSent := y.lostSent || decide (LoanStatus.lost ∈ owedNow)
                            recovery := if LoanStatus.recovered ∈ owedNow then .done else y.recovery }
                        else y } }
                (some l.number))) ∧
          ((∀ c, l.cart = some c → c.status = .back) → (∀ b, l.braille = some b → b.status = .back) →
            l.recovery = .owed →
            Ends r w
              (rest
                { seen with
                  line := queued
                  tables := { s.tables with loans := s.tables.loans.filter fun y => y.number != l.number } }
                (some l.number)))) ∧
        (∀ st, owes = some st →
          (12 < s.line.tx.length → PacedOwner.register ∉ s.line.pacing →
            Ends r w
              { seen with
                scan := { s.scan with last := some l.number, owed := some (l.number, st) }
                line := { s.line with pacing := s.line.pacing ++ [.register] } }) ∧
          (state = .overdue → st = .overdue → s.line.tx.length ≤ 12 → s.line.pacing = [] → l.recovery ≠ .owed →
            (∃ c, l.cart = some c ∧ c.status ≠ .back) ∨ (∃ b, l.braille = some b ∧ b.status ≠ .back) →
            Ends r w
              (rest
                { seen with
                  line :=
                    { s.line with
                      tx := s.line.tx ++
                        [⟨⟨0, s.start.own.getD 0, .loanState l.number l.patron .overdue due⟩, false, false⟩] }
                  tables :=
                    { s.tables with
                      loans := s.tables.loans.map fun y =>
                        if y.number = l.number then { stepped y with overdueSent := true } else y } }
                (some l.number))))))

/-! ### The sockets -/

/-- An insertion (R75, R85, R87, R94): once start has ended, an EMPTY socket of role COPY or INTAKE outside LISTEN goes to
IDENTIFYING with a limit of 3,000 ms; before that, and in any other socket, the presence line rises alone.  At the limit
the socket goes to FAULT with its notice.  The link of a cartridge just powered is log entry 15's; an insertion where one is
seated and a limit not reached change nothing (the model's choice, log entry 4). -/
def Obligations.InsertionStartsIdentification : Prop :=
  ∀ (s : State) (n : Idx8),
    let k := s.socket n
    let seated : Socket := { k with present := true, link := ⟨false, false, false⟩ }
    let acts : Prop :=
      s.start.phase = .running ∧ s.line.state ≠ .listen ∧ s.cfg.roles[n] ≠ .off ∧ k.state = .empty
    let due (limit : Millis) : Prop := (s.time.ms - limit).toNat < 2147483648
    (k.present = true → exec (.cartridgeInsertion n) s = .next s) ∧
    (k.present = false → ¬ acts → exec (.cartridgeInsertion n) s = .next (s.setSocket n seated)) ∧
    (k.present = false → acts →
      exec (.cartridgeInsertion n) s = .next
        (s.setSocket n
          { seated with
            state := .identifying none, view := none, op := some (.awaitReady (s.time.ms + 3000)), hold := none })) ∧
    (∀ limit, k.op = some (.awaitReady limit) → due limit →
      exec (.identifyLimitExpiry n) s = .next
        ((s.setSocket n { k with state := .fault, op := none, hold := none }).raise
          (.socketFault n ((k.view.map (·.serial)).getD 0)))) ∧
    ((∀ limit, k.op = some (.awaitReady limit) → ¬ due limit) → exec (.identifyLimitExpiry n) s = .next s)

/-- A removal empties the socket, ends its operation and its owner's work, as the table of R92 gives for each state (R84,
R91, R92, R99, R107, R124, R137, R138, R146): a member's job goes back to the front of the queue, a TAGGING part back to
QUEUED, an ingest's entry goes, and a check or an erase of another station's loan fills its outbox entry. -/
def Obligations.RemovalEmptiesSocket : Prop :=
  ∀ (s : State) (n : Idx8) (w : RecordWrite),
    let k := s.socket n
    let r := exec (.cartridgeRemoval n w) s
    let t : State := s.setSocket n ⟨false, .empty, none, none, none, ⟨false, false, false⟩⟩
    let partBack (u : State) (loan : LoanNo) (path : CartPath) : State :=
      { u with
        tables :=
          { u.tables with
            loans := u.tables.loans.map fun l =>
              if l.number = loan ∧ l.cart.any (fun c => c.path == path && c.status == .copying) then
                { l with cart := l.cart.map fun c => { c with status := .queued } }
              else l } }
    let filled (l : LoanNo) (c : Condition) : State :=
      { t with
        returns :=
          { s.returns with
            outbox := s.returns.outbox.map fun e =>
              if e.loan = l then { e with condition := some c, held := false, socket := none } else e } }
    (k.present = false → r = .next s) ∧
    (k.present = true →
      (k.state = .empty ∨ (∃ z, k.state = .identifying z) ∨ (∃ y, k.state = .rejected y) ∨ k.state = .fault ∨
          (∃ b, k.state = .blank b) ∨ (∃ e, k.state = .cleaning e) ∨ k.state = .aborting ∨ (∃ l, k.state = .done l) ∨
          (∃ l, k.state = .tagging l true) ∨ (∃ c, k.state = .kept c) → Ends r w t) ∧
      (∀ loan, k.state = .tagging loan false → Ends r w (partBack t loan .reissue)) ∧
      (∀ m, k.state = .copying m ∨ k.state = .finishing m →
        let back (u : State) : State :=
          partBack { u with copy := { u.copy with queue := { m.job with cleanNeeded := false } :: s.copy.queue } }
            m.job.loan .copy
        ((∃ p ∈ s.membersOf m.gang, p.1 ≠ n ∧ p.2.progress ≠ .finished) → Ends r w (back t)) ∧
        (∀ g b, s.membersOf m.gang = [(n, m)] → s.gang? m.gang = some g → g.buffer = some b →
          (∀ q, s.copy.current = some q → q.1 ≠ b) →
          Ends r w
            (back
              { t with
                copy :=
                  { s.copy with
                    gangs := s.copy.gangs.filter fun x => x.id != m.gang
                    buffers := (s.setBuffer b ⟨.free, [], none⟩).copy.buffers } }))) ∧
      (∀ i, k.state = .ingesting i →
        let gone : State :=
          { t with
            tables := { s.tables with directory := s.tables.directory.filter fun d => d.work != i.work }
            copy := { s.copy with ingestWait := s.copy.ingestWait.filter fun q => q != n } }
        (i.buffer = none → Ends r w gone) ∧
        (∀ b, i.buffer = some b →
          ((∀ q, s.copy.current = some q → q.1 ≠ b) → Ends r w (gone.setBuffer b ⟨.free, [], none⟩)) ∧
          (∀ q, s.copy.current = some (b, q) →
            Ends r w (gone.setBuffer b { s.buffer b with owner := .draining, request := none })))) ∧
      (∀ c, k.state = .checking c →
        (c.phase = .waitRoom →
          Ends r w { t with returns := { s.returns with wait := s.returns.wait.filter fun q => q != n } }) ∧
        (∀ i acc, c.phase = .verify i acc →
          (c.mode ≠ .foreignReturn → Ends r w t) ∧
          (∀ l, c.mode = .foreignReturn → c.loan = some l → .returns ∈ s.line.pacing → Ends r w (filled l .unchecked))) ∧
        (c.phase = .closing →
          (c.mode = .noLoan → Ends r w t) ∧
          (∀ l, c.mode = .foreignReturn → c.loan = some l → .returns ∈ s.line.pacing → Ends r w (filled l .unchecked)) ∧
          (∀ l, c.mode = .ownReturn → c.loan = some l →
            Ends r w { s.cartReturn l ((k.view.map (·.serial)).getD 0) with sockets := t.sockets }))) ∧
      (∀ c last e, k.state = .erasing c last e →
        (c.mode ≠ .foreignReturn → Ends r w t) ∧
        (∀ l, c.mode = .foreignReturn → c.loan = some l → .returns ∈ s.line.pacing → Ends r w (filled l .erased))))

/-- The ends of a READ.  Identification (R76, R82, R87, R88): STATE until the cartridge is not busy, LOCK, which a hold may
pause (LimitsAndHoldsFailOperation), then the reads of sector 0 and sector 1; at the end of the second the view is built and
the cartridge classified, or, without a valid identity record, rejected as FOREIGN.  A member's compare (R102, R104)
finishes its block, or repeats its work once, and a second difference is its fault; an ingest adds the bytes and asks for
their write (R122); a check adds them, reads on, and after block L keeps or erases the cartridge (R141 to R144).  Answers
and READs that end while the ready line is held, or with another number of bytes, are no events (the model's choice, log
entry 14); a keep is stated for a serial without a record, and for one that has a record as log entry 27 chooses, the erase
of a set marker as log entry 28 does, and a content record of title 0 as log entry 35 does. -/
def Obligations.IdentificationReadsRecords : Prop :=
  ∀ (s : State) (n : Idx8) (w : RecordWrite),
    let k := s.socket n
    (∀ limit a, k.op = some (.awaitReady limit) → k.hold = none →
      (a.busy = true → ∀ held,
        Ends (exec (.stateCompletion n a ⟨held, w⟩) s) w (s.setSocket n { k with link := ⟨true, a.latch, a.fault⟩ })) ∧
      (a.busy = false →
        Ends (exec (.stateCompletion n a ⟨false, w⟩) s) w
          (s.setSocket n { k with link := ⟨false, false, a.fault⟩, op := some (.read 0 4096) }) ∧
        Ends (exec (.stateCompletion n a ⟨true, w⟩) s) w
          (s.setSocket n
            { k with link := ⟨false, a.latch, a.fault⟩, op := some (.locking false), hold := none }))) ∧
    (∀ bytes, k.op = some (.read 0 4096) → k.hold = none → k.state = .identifying none → bytes.length = 4096 →
      Ends (exec (.readCompletion n bytes w) s) w
        (s.setSocket n { k with state := .identifying (some bytes), op := some (.read 4096 4096) })) ∧
    (∀ sector0 sector1, k.op = some (.read 4096 4096) → k.hold = none → k.state = .identifying (some sector0) →
      sector1.length = 4096 →
      (parseIdentity sector0 = none → k.view = none →
        Ends (exec (.readCompletion n sector1 w) s) w
          ((s.setSocket n { k with state := .rejected .foreign, op := none }).raise (.rejected n 0 .foreign))) ∧
      (∀ id, parseIdentity sector0 = some id →
        let v := View.build id sector0 sector1
        Ends (exec (.readCompletion n sector1 w) s) w
          ((s.setSocket n { k with view := some v, op := none }).classify n v))) ∧
    (∀ bytes, k.hold ≠ none ∨ (∀ a c, k.op = some (.read a c) → bytes.length ≠ c) →
      exec (.readCompletion n bytes w) s = .next s) ∧
    (∀ b : List Byte, b.length = 4096 → ∀ id, parseIdentity b = some id ↔
      b.take 4 = [84, 66, 75, 67] ∧ id.1.toNat = numOfBytes ((b.drop 4).take 4) ∧ id.1 ≠ 0 ∧
      (∃ c, b[8]? = some c ∧ (id.2.1 = .small ∧ c = 1 ∨ id.2.1 = .medium ∧ c = 2 ∨ id.2.1 = .large ∧ c = 3)) ∧
      (∃ c, b[9]? = some c ∧ (id.2.2 = .stock ∧ c = 1 ∨ id.2.2 = .master ∧ c = 2)) ∧
      (b.drop 12).take 2 = [(crc16Bytes (b.take 12)).extractLsb' 8 8, (crc16Bytes (b.take 12)).extractLsb' 0 8]) ∧
    (∀ bytes a c, k.op = some (.read a c) → k.hold = none → bytes.length = c →
      let r := exec (.readCompletion n bytes w) s
      let u : State := s.setSocket n { k with op := none }
      (∀ m again g b, k.state = .copying m → m.progress = .working .reading again → s.gang? m.gang = some g →
        g.buffer = some b →
        let done : Member := { m with progress := .finished }
        (bytes = (s.buffer b).data →
          ((∃ p ∈ s.membersOf m.gang, p.1 ≠ n ∧ p.2.progress ≠ .finished) →
            Ends r w (s.setSocket n { k with state := .copying done, op := none })) ∧
          (s.membersOf m.gang = [(n, m)] → g.loaded = true → s.copy.current = none → (∀ q, (s.buffer q).request = none) →
            (g.index < g.len →
              Ends r w
                { s.setSocket n { k with state := .copying { m with progress := .waiting }, op := none } with
                  copy :=
                    { s.copy with
                      gangs := s.copy.gangs.map fun y =>
                        if y.id = m.gang then { g with index := g.index + 1, loaded := false, done := g.index } else y
                      current := some (b, .read g.work g.start (g.start + g.index)), pointer := b } }) ∧
            (∀ v, g.len ≤ g.index → k.view = some v → v.kind = .stock →
              Ends r w
                { s.setSocket n
                    { k with
                      state := .finishing { m with progress := .finishing false }
                      op := some (.guarded
                        (contentWrite m.job.work m.job.len (((s.dir? m.job.work).map (·.check)).getD 0)
                          (s.start.own.getD 0) s.tables.day) (.beforeCommand (some k.link)))
                      hold := none, link := k.link.unlock } with
                  copy :=
                    { s.copy with
                      gangs := s.copy.gangs.map fun y =>
                        if y.id = m.gang then { y with done := y.len, buffer := none } else y
                      buffers := (s.setBuffer b ⟨.free, [], none⟩).copy.buffers } }))) ∧
        (bytes ≠ (s.buffer b).data →
          (∀ v, again = false → k.view = some v → v.kind = .stock → 1 ≤ g.index → g.index < v.capacity.blocks →
            Ends r w
              (s.setSocket n
                { k with
                  state := .copying { m with progress := .working .clearing true }
                  op := some (.guarded (.blockClear g.index) (.beforeCommand (some k.link)))
                  hold := none, link := k.link.unlock })) ∧
          (again = true → Ends r w (u.opFailed n)))) ∧
      (∀ i b d, k.state = .ingesting i → i.buffer = some b → s.dir? i.work = some d →
        let added : State := s.setSocket n { k with state := .ingesting { i with acc := imageAdd i.acc bytes }, op := none }
        let write : StoreReq := .write (d.start + i.index - 1)
        (s.copy.current = none → (∀ q, (s.buffer q).request = none) →
          Ends r w
            { added with
              copy :=
                { s.copy with
                  buffers := (s.setBuffer b ⟨(s.buffer b).owner, bytes, none⟩).copy.buffers
                  current := some (b, write), pointer := b } }) ∧
        (s.copy.current ≠ none → Ends r w (added.setBuffer b ⟨(s.buffer b).owner, bytes, some write⟩))) ∧
      (∀ check i acc v, k.state = .checking check → check.phase = .verify i acc → k.view = some v →
        let sum := imageAdd acc bytes
        let matched : Prop := ~~~sum = v.check
        let wanted : Prop := s.tables.stock.length < 256 ∧
          ((s.tables.stock.countP fun y => y.work == v.work) < s.cfg.keepLimit ∨
            ∃ e ∈ s.book.entries, e.work = v.work ∧ e.format ≠ .braille ∧ ((∃ d, e.state = .window d) ∨ e.state = .unbid))
        let fills (t : State) (cond : Condition) (held : Bool) : State :=
          match check.mode, check.loan with
          | .foreignReturn, some l =>
            { t with
              returns :=
                { t.returns with
                  outbox := t.returns.outbox.map fun e =>
                    if e.loan = l then
                      { e with condition := some cond, held := held, socket := if held then e.socket else none }
                    else e } }
          | _, _ => t
        let erases (last : Nat) : State :=
          fills
            (s.setSocket n
              { k with
                state := .erasing check last .sector, op := some (.guarded (.sectorClear 1) (.beforeCommand (some k.link)))
                hold := none, link := k.link.unlock }) .erased true
        let kept (stock : List StockRec) : State :=
          fills
            ((State.cartridgeGain
              { s.setSocket n { k with state := .kept check, op := none } with
                tables := { s.tables with stock := stock } } v.work).raise (.kept n v.serial v.work v.used)) .kept false
        (i < v.len → (i + 2) ≤ v.capacity.blocks →
          Ends r w
            (s.setSocket n
              { k with
                state := .checking { check with phase := .verify (i + 1) sum }
                op := some (.read ((i + 1) * 65536) 65536), hold := none })) ∧
        (v.len ≤ i →
          (matched → wanted → check.mode ≠ .foreignReturn ∨ .returns ∈ s.line.pacing →
            (s.stock? v.serial = none → Ends r w (kept (s.tables.stock ++ [⟨v.serial, v.work, v.used, .free, none⟩]))) ∧
            ((s.stock? v.serial).isSome →
              Ends r w
                (kept
                  (s.tables.stock.map fun y =>
                    if y.serial = v.serial then { y with work := v.work, used := v.used } else y)))) ∧
          (v.kind = .stock →
            (matched → ¬ wanted →
              Ends r w (erases (if v.marker = .spent then v.len else v.capacity.blocks - 1))) ∧
            (¬ matched → Ends r w (erases (v.capacity.blocks - 1)))))))

/-- The classification of an identified cartridge (R88, R89, R113, R120, R121, R136, R137, R141): the first of the ten cases
that applies, each with what it begins.  A master whose entry is VOID reloads it, in its own extent where the image fits
(R120, R121); a stale own tag of a loan in READY or PACKED with this serial returns the loan to CLAIMED, out of its tray,
with a copy job or a release (R69, R71); a closed slot of an own loan that is out hands its return over late (R147).  That a
master of title 0 is taken like any other is the model's choice (log entry 35). -/
def Obligations.ClassificationTakesFirstCase : Prop :=
  ∀ (s : State) (n : Idx8) (v : View), (s.socket n).view = some v → v.slots.length = 64 →
    let k := s.socket n
    let r := s.classify n v
    let own : Station := s.start.own.getD 0
    let rejected (why : RejectReason) : State :=
      (s.setSocket n { k with state := .rejected why, op := none, hold := none }).raise (.rejected n v.serial why)
    let closingOn (u : State) (c : Check) (slot : Nat) : State :=
      u.setSocket n
        { k with
          state := .checking c, op := some (.guarded (closeWrite slot s.tables.day own) (.beforeCommand (some k.link)))
          hold := none, link := k.link.unlock }
    let closing (c : Check) (slot : Nat) : State := closingOn s c slot
    let loads (directory : List DirEntry) : Prop :=
      let loading : State := { s with tables := { s.tables with directory := directory } }
      ((∀ b, (s.buffer b).owner ≠ .free) →
        r = { (loading.setSocket n { k with state := .ingesting ⟨v.work, none, 1, imagePreset⟩, op := none }) with
              copy := { s.copy with ingestWait := s.copy.ingestWait ++ [n] } }) ∧
      (∀ b, (s.buffer b).owner = .free → (∀ q < b, (s.buffer q).owner ≠ .free) →
        r = (loading.setSocket n
              { k with
                state := .ingesting ⟨v.work, some b, 1, imagePreset⟩, op := some (.read 65536 65536)
                hold := none }).setBuffer b ⟨.ingest n, [], none⟩)
    let elsewhere : Prop := ∃ q, q ≠ n ∧ ∃ u, (s.socket q).view = some u ∧ u.serial = v.serial
    (elsewhere → r = rejected .foreign) ∧
    (¬ elsewhere → v.serial ∈ s.quarantine → r = rejected .quarantined) ∧
    (¬ elsewhere → v.serial ∉ s.quarantine → v.kind = .master →
      (v.contentPresent = false → r = rejected .badMaster) ∧
      (v.contentPresent = true →
        (∀ d, s.dir? v.work = some d → d.state ≠ .void → r = rejected .masterNotNeeded) ∧
        (∀ d, s.dir? v.work = some d → d.state = .void → 0 < s.users v.work → r = rejected .titleInUse) ∧
        (s.dir? v.work = none → 512 ≤ s.tables.directory.length → r = rejected .directoryFull) ∧
        (s.dir? v.work = none → s.tables.directory.length < 512 →
          (firstFit s.tables.directory s.start.storeSize v.len = none → r = rejected .storeFull) ∧
          (∀ start, firstFit s.tables.directory s.start.storeSize v.len = some start →
            loads (s.tables.directory ++ [⟨v.work, start, v.len, v.check, .loading⟩]))) ∧
        (∀ d, s.dir? v.work = some d → d.state = .void → s.users v.work = 0 →
          let reload (start : Nat) : List DirEntry :=
            s.tables.directory.map fun y => if y.work = v.work then ⟨v.work, start, v.len, v.check, .loading⟩ else y
          let others := s.tables.directory.filter fun y => y.work != v.work
          (v.len ≤ d.len → loads (reload d.start)) ∧
          (d.len < v.len → firstFit others s.start.storeSize v.len = none → r = rejected .storeFull) ∧
          (∀ start, d.len < v.len → firstFit others s.start.storeSize v.len = some start → loads (reload start))))) ∧
    (¬ elsewhere → v.serial ∉ s.quarantine → v.kind = .stock →
      (∀ x loan, s.stock? v.serial = some x → x.state = .issuing loan →
        (∀ slot, v.alreadyTagged loan = false → v.nextFree = some slot →
          r = { (s.setSocket n
                  { k with
                    state := .tagging loan false
                    op := some (.guarded (tagWrite slot loan own s.tables.day) (.beforeCommand (some k.link)))
                    hold := none, link := k.link.unlock }) with
                tables :=
                  { s.tables with
                    loans := s.tables.loans.map fun l =>
                      if l.number = loan ∧ l.cart.any (fun c => c.path == .reissue && c.status == .queued) then
                        { l with cart := l.cart.map fun c => { c with status := .copying } }
                      else l } }) ∧
        (v.alreadyTagged loan = true →
          (∀ l ∈ s.tables.loans, l.number = loan →
            l.state = .claimed ∧ l.braille = none ∧ ∃ a, l.cart = some ⟨.reissue, .queued, a⟩) →
          let tagged : State :=
            { s.setSocket n { k with state := .done loan, op := none } with
              tables :=
                { s.tables with
                  stock := s.tables.stock.filter fun y => y.serial != v.serial
                  loans := s.tables.loans.map fun l =>
                    if l.number = loan then
                      { l with state := .ready, cart := l.cart.map fun c => { c with status := .ready v.serial } }
                    else l } }
          r = tagged.raise (.copyReady n loan v.serial))) ∧
      ((∀ x loan, s.stock? v.serial = some x → x.state ≠ .issuing loan) →
        (∀ slot, v.openSlot = some slot →
          let loan : LoanNo := slotLoan (v.slot slot)
          let issued : Prop := ∃ x, s.start.own = some x ∧ x.toNat = slotIssuer (v.slot slot)
          let out : Prop :=
            ∃ l, s.loan? loan = some l ∧ (l.state = .shipped ∨ l.state = .overdue ∨ l.state = .lost)
          (issued → out → r = closing ⟨.ownReturn, some slot, some loan, .closing⟩ slot) ∧
          (issued → s.loan? loan = none → r = closing ⟨.noLoan, some slot, some loan, .closing⟩ slot) ∧
          (∀ l, issued → s.loan? loan = some l →
            let stale : Check := ⟨.noLoan, some slot, some loan, .closing⟩
            (l.state = .claimed ∨
                ((l.state = .ready ∨ l.state = .packed) ∧ ∀ p a, l.cart ≠ some ⟨p, .ready v.serial, a⟩) →
              r = closing stale slot) ∧
            (∀ p a u, l.state = .ready ∨ l.state = .packed → l.cart = some ⟨p, .ready v.serial, a⟩ → TrayRow s l u →
              (∀ d, s.dir? l.work = some d → d.state = .valid → s.copyLoad ≤ 23 →
                let m := s.cfg.program + s.cfg.erase
                r = closingOn
                  { u with
                    tables :=
                      { u.tables with
                        loans := u.tables.loans.map fun y =>
                          if y.number = loan then { y with state := .claimed, cart := some ⟨.copy, .queued, a⟩ } else y }
                    copy :=
                      { s.copy with
                        queue := s.copy.queue ++
                          [⟨loan, l.work, d.start, d.len, m, (d.len * m + 999) / 1000, false⟩] } } stale slot) ∧
              (∀ e b, (∀ d, s.dir? l.work = some d → d.state = .valid → 23 < s.copyLoad) → BrailleRow u l b →
                s.entryOfLoan? loan = some e → s.entry? e.order = some e →
                ∃ z,
                  OwnReleased { b with tables := { b.tables with loans := b.tables.loans.filter fun y => y.number != loan } }
                    e .stockMissing z ∧
                  r = closingOn z stale slot))) ∧
          (¬ issued → s.returns.outbox.length < 16 → (∀ e ∈ s.returns.outbox, e.loan ≠ loan) →
            r = { (closing ⟨.foreignReturn, some slot, some loan, .closing⟩ slot) with
                  returns :=
                    { s.returns with
                      outbox := s.returns.outbox ++ [⟨loan, v.serial, s.tables.day, none, false, some n⟩] } }) ∧
          (¬ issued → 16 ≤ s.returns.outbox.length ∨ (∃ e ∈ s.returns.outbox, e.loan = loan) →
            r = { (s.setSocket n
                    { k with state := .checking ⟨.foreignReturn, some slot, some loan, .waitRoom⟩, op := none }) with
                  returns := { s.returns with wait := s.returns.wait ++ [n] } })) ∧
        (v.openSlot = none →
          ((s.stock? v.serial).isSome →
            r = s.setSocket n { k with state := .kept ⟨.noLoan, none, none, .closing⟩ }) ∧
          (s.stock? v.serial = none → v.worn = true → r = rejected .worn) ∧
          (s.stock? v.serial = none → v.worn = false → v.contentPresent = true →
            let verifying (u : State) : State :=
              u.setSocket n
                { k with
                  state := .checking ⟨.noLoan, none, none, .verify 1 imagePreset⟩, op := some (.read 65536 65536)
                  hold := none }
            let closedOwn (slot : Nat) : Prop := slotClass (v.slot slot) = .closed ∧
              ∃ x, s.start.own = some x ∧ x.toNat = slotIssuer (v.slot slot)
            (s.lateSlot v = none → r = verifying s) ∧
            (s.lateSlot v = none ↔ ∀ slot, 1 ≤ slot → slot ≤ 64 → ¬ closedOwn slot) ∧
            (∀ slot, 1 ≤ slot → slot ≤ 64 → closedOwn slot → (∀ q, slot < q → q ≤ 64 → ¬ closedOwn q) →
              let late : LoanNo := slotLoan (v.slot slot)
              let returns (l : Loan) : Prop :=
                (l.state = .shipped ∨ l.state = .overdue ∨ l.state = .lost) ∧ ∃ p a, l.cart = some ⟨p, .ready v.serial, a⟩
              ((∀ l, s.loan? late = some l → ¬ returns l) → r = verifying s) ∧
              (∀ l, s.loan? late = some l → returns l → l.state ≠ .lost → l.recovery ≠ .owed →
                ((∀ b, l.braille = some b → b.status = .back) →
                  r = verifying
                    { s with
                      tables := { s.tables with loans := s.tables.loans.filter fun y => y.number != late } }) ∧
                ((∃ b, l.braille = some b ∧ b.status ≠ .back) →
                  r = verifying
                    { s with
                      tables :=
                        { s.tables with
                          loans := s.tables.loans.map fun y =>
                            if y.number = late then { y with cart := y.cart.map fun c => { c with status := .back } }
                            else y } })))) ∧
          (s.stock? v.serial = none → v.worn = false → v.contentPresent = false →
            r = s.setSocket n { k with state := .blank (decide (v.marker = .set)) }))))

/-- The steps of a guarded operation (R82, R86): the command follows an answer not busy with its latch set, its poll limit
counted from the end of its transfer, which takes no time but for holds (log entry 14); a busy answer goes on polling; the
first that is not busy fails the operation if it shows fault or latch, and else it succeeds, the view as written.  LOCK
follows a failure.  What each owner then does is stated of any state: a member's preparation, pages, read back and tag
(R103, R104, R108), a tagging (R113, R115), a check's disposition and an erase (R138 to R140, R144, R145), CLEANING (R111) and
ABORTING (R109); and of a failure a member's fault (R68, R105), the tagging fault (R114), the failed close (R139) and erase
(R145), each with the serial on the quarantine list (R93).  A member that ends by its tag or its fault leaves its gang, which
goes on, or ends with its buffer freed (`GangLeft`: R98, R102); the second fault of a loan is an own release (R33, R34). -/
def Obligations.GuardedOperationSteps : Prop :=
  (∀ (s : State) (n : Idx8) (w : RecordWrite) (g : Guarded) (a : StateAnswer),
    let k := s.socket n
    let r (held : Bool) := exec (.stateCompletion n a ⟨held, w⟩) s
    let limit : BitVec 32 := match g with
      | .page _ _ _ => 10
      | .sectorClear _ => 400
      | .blockClear _ => 3000
    let failed : Socket :=
      { k with op := none, hold := none, link := ⟨a.busy, a.busy && a.latch, a.fault⟩ }
    let fails : Prop :=
      Ends (r false) w ((s.setSocket n failed).opFailed n) ∧
      Ends (r true) w
        (s.setSocket n
          { k with op := some (.locking true), hold := none, link := ⟨a.busy, a.latch, a.fault⟩ })
    k.hold = none →
    (∀ p, k.op = some (.guarded g (.beforeCommand p)) →
      (a.busy = false → a.latch = true → ∀ held,
        Ends (r held) w
          (s.setSocket n
            { k with
              op := some (.guarded g (.command (s.time.ms + limit) ⟨false, true, a.fault⟩))
              link := ⟨true, true, false⟩ })) ∧
      (a.busy = true ∨ a.latch = false → fails)) ∧
    (∀ d, k.op = some (.guarded g (.polling d)) ∨ (∃ p, k.op = some (.guarded g (.command d p))) →
      (a.busy = true → ∀ held,
        Ends (r held) w
          (s.setSocket n { k with op := some (.guarded g (.polling d)), link := ⟨true, a.latch, a.fault⟩ })) ∧
      (a.busy = false → a.fault = true ∨ a.latch = true → fails) ∧
      (a.busy = false → a.fault = false → a.latch = false → ∀ held,
        Ends (r held) w
          ((s.setSocket n
            { k with op := none, hold := none, link := ⟨false, false, false⟩, view := k.view.map (·.apply g) }).opSucceeded
              n)))) ∧
  (∀ (u : State) (n : Idx8),
    let k := u.socket n
    let own : Station := u.start.own.getD 0
    let serial : Serial := (k.view.map (·.serial)).getD 0
    let asks (t : State) (st : SockState) (g : Guarded) : State :=
      t.setSocket n
        { k with
          state := st, op := some (.guarded g (.beforeCommand (some k.link))), hold := none, link := k.link.unlock }
    let reads (t : State) (st : SockState) (b : Nat) : State :=
      t.setSocket n { k with state := st, op := some (.read (b * 65536) 65536), hold := none }
    let quarantined (t : State) : State :=
      { t with
        quarantine :=
          if serial ∈ t.quarantine then t.quarantine
          else if t.quarantine.length < 32 then t.quarantine ++ [serial]
          else t.quarantine.tail ++ [serial] }
    let fault : State :=
      (u.setSocket n { k with state := .fault, op := none, hold := none }).raise (.socketFault n serial)
    let fills (c : Check) (t : State) (cond : Condition) : State :=
      match c.mode, c.loan with
      | .foreignReturn, some l =>
        { t with
          returns :=
            { t.returns with
              outbox := t.returns.outbox.map fun e =>
                if e.loan = l then { e with condition := some cond, held := false, socket := none } else e } }
      | _, _ => t
    let quietly (c : Check) : Prop := c.mode ≠ .foreignReturn ∨ .returns ∈ u.line.pacing
    ((∃ z, k.state = .identifying z) ∨ (∃ e, k.state = .cleaning e) → u.opFailed n = fault) ∧
    (∀ v, k.view = some v → v.kind = .stock →
      let last := v.capacity.blocks - 1
      (k.state = .cleaning .sector → u.opSucceeded n = asks u (.cleaning (.block 1)) (.blockClear 1)) ∧
      (∀ b, k.state = .cleaning (.block b) → b < last →
        u.opSucceeded n = asks u (.cleaning (.block (b + 1))) (.blockClear (b + 1))) ∧
      (∀ b, k.state = .cleaning (.block b) → last ≤ b → u.opSucceeded n = asks u (.cleaning .marker) (markerWrite 165)) ∧
      (k.state = .cleaning .marker → u.opSucceeded n = u.setSocket n { k with state := .blank true }) ∧
      (∀ m g, k.state = .copying m → u.gang? m.gang = some g → 1 ≤ g.index → g.index < v.capacity.blocks →
        let at' (p : Progress) : SockState := .copying { m with progress := p }
        let page (i : Nat) : Guarded := .page (g.index * 65536 + 256 * i) (((u.gangData g).drop (256 * i)).take 256) .other
        (m.progress = .preparing →
          (g.loaded = false → u.opSucceeded n = u.setSocket n { k with state := at' .waiting }) ∧
          (g.loaded = true → m.job.cleanNeeded = false →
            u.opSucceeded n = asks u (at' (.working (.page 0) false)) (page 0)) ∧
          (g.loaded = true → m.job.cleanNeeded = true →
            u.opSucceeded n = asks u (at' (.working .clearing false)) (.blockClear g.index))) ∧
        (∀ again, m.progress = .working .clearing again →
          u.opSucceeded n = asks u (at' (.working (.page 0) again)) (page 0)) ∧
        (∀ again i, m.progress = .working (.page i) again →
          (i < 255 → u.opSucceeded n = asks u (at' (.working (.page (i + 1)) again)) (page (i + 1))) ∧
          (255 ≤ i → u.opSucceeded n = reads u (at' (.working .reading again)) g.index))) ∧
      (∀ m slot, k.state = .finishing m → m.progress = .finishing false → v.slots.length = 64 → v.nextFree = some slot →
        u.opSucceeded n =
          asks u (.finishing { m with progress := .finishing true }) (tagWrite slot m.job.loan own u.tables.day)) ∧
      (∀ m l a t, k.state = .finishing m → m.progress = .finishing true →
        GangLeft (u.setSocket n { k with state := .done m.job.loan, op := none }) m.gang t →
        (∀ y ∈ u.tables.loans, y.number = m.job.loan → y = l) → l.state = .claimed → l.cart = some ⟨.copy, .copying, a⟩ →
        u.opSucceeded n =
          State.raise
            { t with
            tables :=
              { t.tables with
                loans := t.tables.loans.map fun y =>
                  if y.number = m.job.loan then
                    { y with
                      cart := some ⟨.copy, .ready v.serial, a⟩
                      state := if y.braille.all (fun b => b.status == .picked) then .ready else .claimed }
                  else y } }
            (.copyReady n m.job.loan v.serial)) ∧
      (∀ loan l a, k.state = .tagging loan false → (∀ y ∈ u.tables.loans, y.number = loan → y = l) →
        l.state = .claimed → l.cart = some ⟨.reissue, .copying, a⟩ →
        u.opSucceeded n =
          State.raise
            { u.setSocket n { k with state := .done loan, op := none } with
            tables :=
              { u.tables with
                stock := u.tables.stock.filter fun y => y.serial != v.serial
                loans := u.tables.loans.map fun y =>
                  if y.number = loan then
                    { y with
                      cart := some ⟨.reissue, .ready v.serial, a⟩
                      state := if y.braille.all (fun b => b.status == .picked) then .ready else .claimed }
                  else y } }
            (.copyReady n loan v.serial)) ∧
      (∀ loan slot, k.state = .tagging loan true → v.slots.length = 64 → v.latestUsed = some slot →
        slotClass (v.slot slot) = .open →
        u.opSucceeded n =
          asks u (.checking ⟨.noLoan, some slot, some (slotLoan (v.slot slot)), .closing⟩)
            (closeWrite slot u.tables.day own)) ∧
      (∀ c, k.state = .checking c → c.mode ≠ .ownReturn →
        (v.worn = true → quietly c →
          u.opSucceeded n =
            fills c
              ((u.setSocket n { k with state := .rejected .worn, op := none, hold := none }).raise
                (.rejected n v.serial .worn)) .retired) ∧
        (v.worn = false → v.contentPresent = true →
          u.opSucceeded n = reads u (.checking { c with phase := .verify 1 imagePreset }) 1)) ∧
      (∀ c, k.state = .checking c → c.mode = .noLoan → v.worn = false → v.contentPresent = false →
        u.opSucceeded n = asks u (.erasing c last .sector) (.sectorClear 1)) ∧
      (∀ c loan, k.state = .checking c → c.mode = .ownReturn → c.loan = some loan → v.worn = false →
        v.contentPresent = true →
        (u.opSucceeded n = reads (u.cartReturn loan v.serial) (.checking { c with phase := .verify 1 imagePreset }) 1) ∧
        ((∀ l, u.loan? loan = some l → ¬ ((l.state = .shipped ∨ l.state = .overdue ∨ l.state = .lost) ∧
            ∃ p a, l.cart = some ⟨p, .ready v.serial, a⟩)) → u.cartReturn loan v.serial = u)) ∧
      (∀ c stop, k.state = .erasing c stop .sector → 1 ≤ stop →
        u.opSucceeded n = asks u (.erasing c stop (.block 1)) (.blockClear 1)) ∧
      (∀ c stop b, k.state = .erasing c stop (.block b) →
        (b < stop → b + 1 < v.capacity.blocks →
          u.opSucceeded n = asks u (.erasing c stop (.block (b + 1))) (.blockClear (b + 1))) ∧
        (stop ≤ b → u.opSucceeded n = asks u (.erasing c stop .marker) (markerWrite 165))) ∧
      (∀ c stop, k.state = .erasing c stop .marker → quietly c →
        u.opSucceeded n =
          fills c ((u.setSocket n { k with state := .blank true, op := none }).raise (.erased n v.serial)) .erased) ∧
      (k.state = .aborting →
        let leaves (t : State) : Prop := u.opSucceeded n = t ∧ u.opFailed n = t
        ((∀ slot, v.openSlot = some slot → ∀ x, u.start.own = some x → x.toNat ≠ slotIssuer (v.slot slot)) →
          leaves (u.setSocket n { k with state := .blank false, op := none, hold := none })) ∧
        (∀ slot x, v.slots.length = 64 → v.openSlot = some slot → u.start.own = some x →
          x.toNat = slotIssuer (v.slot slot) →
          leaves
            (asks u (.checking ⟨.noLoan, some slot, some (slotLoan (v.slot slot)), .closing⟩)
              (closeWrite slot u.tables.day own))))) ∧
    (∀ m l t, k.state = .copying m ∨ k.state = .finishing m → GangLeft fault m.gang t → u.loan? m.job.loan = some l →
      (l.cart = some ⟨.copy, .copying, 0⟩ →
        u.opFailed n =
          { quarantined t with
            tables :=
              { t.tables with
                loans := t.tables.loans.map fun y =>
                  if y.number = m.job.loan then { y with cart := some ⟨.copy, .queued, 1⟩ } else y }
            copy := { t.copy with queue := { m.job with cleanNeeded := false } :: t.copy.queue } }) ∧
      ((∀ a, l.cart ≠ some ⟨.copy, .copying, a⟩) → u.opFailed n = quarantined t) ∧
      (∀ a e b, l.cart = some ⟨.copy, .copying, a⟩ → a ≠ 0 → l.state = .claimed → BrailleRow (quarantined t) l b →
        u.entryOfLoan? m.job.loan = some e → u.entry? e.order = some e →
        OwnReleased { b with tables := { b.tables with loans := b.tables.loans.filter fun y => y.number != m.job.loan } } e
          .copyFailed (u.opFailed n))) ∧
    (∀ loan x withdrawn, k.state = .tagging loan withdrawn →
      (u.issuing? loan = none → u.loan? loan = none → u.opFailed n = quarantined fault) ∧
      (∀ l a d, u.issuing? loan = some x → u.loan? loan = some l → l.cart = some ⟨.reissue, .copying, a⟩ →
        u.dir? l.work = some d → d.state = .valid → u.copyLoad ≤ 23 →
        let m := u.cfg.program + u.cfg.erase
        u.opFailed n =
          { quarantined fault with
            tables :=
              { u.tables with
                stock := u.tables.stock.filter fun y => y.serial != x.serial
                loans := u.tables.loans.map fun y =>
                  if y.number = loan then { y with cart := y.cart.map fun c => ⟨.copy, .queued, c.attempts⟩ } else y }
            copy :=
              { u.copy with
                queue := u.copy.queue ++ [⟨loan, l.work, d.start, d.len, m, (d.len * m + 999) / 1000, false⟩] } })) ∧
    (∀ c, k.state = .checking c → (∀ i acc, c.phase ≠ .verify i acc) → quietly c →
      (c.mode ≠ .ownReturn → u.opFailed n = fills c (quarantined fault) .quarantined) ∧
      (∀ loan, c.mode = .ownReturn → c.loan = some loan →
        u.opFailed n = quarantined (fault.cartReturn loan serial))) ∧
    (∀ c i acc v, k.state = .checking c → c.phase = .verify i acc → k.view = some v → v.kind = .stock →
      c.mode = .noLoan → u.opFailed n = asks u (.erasing c (v.capacity.blocks - 1) .sector) (.sectorClear 1)) ∧
    (∀ c stop e, k.state = .erasing c stop e → quietly c → u.opFailed n = fills c (quarantined fault) .quarantined))

/-- The limits of an operation (R81, R82, R87): a poll limit reached, and a hold of 50 ms, fail the operation, with LOCK
after a guarded one, and the owner takes the failure, identification and CLEANING as a FAULT with its notice.  The ready
line's fall in a transfer in progress starts a hold of 50 ms, whether it is the transfer's first or a later one, and its
release ends it and lets the transfer go on.  A hold in the transfer of a LOCK puts off what follows it: after its release a
further hold may fall in the same transfer, and be timed anew, or the LOCK clears the latch of a cartridge that is not busy,
and the failure is reported or identification reads sector 0; at 50 ms the LOCK is abandoned, the latch as it stands, and the
failure is reported.  The UNLOCK or the command held reaches the cartridge at the release alone, and until then the cartridge
reports what it did before that command (R75); a hold in the command's own transfer stops the poll limit, which starts anew
from the release.  Which transfer a hold falls in, and that a command which sends LOCK says whether a hold falls in it, are as
log entry 14 gives; a limit not reached, a fall in a transfer that is not in progress and a line that does not change are no
events (log entry 4). -/
def Obligations.LimitsAndHoldsFailOperation : Prop :=
  ∀ (s : State) (n : Idx8) (w : RecordWrite),
    let k := s.socket n
    let due (d : Millis) : Prop := (s.time.ms - d).toNat < 2147483648
    let ended : State := s.setSocket n { k with op := none, hold := none }
    let latched : CartLink := if k.link.busy then k.link else { k.link with latch := false }
    let locked : State := s.setSocket n { k with op := none, hold := none, link := latched }
    let locking (failed : Bool) : State := s.setSocket n { k with op := some (.locking failed), hold := none }
    let fails (r : OpEnd → Host.Outcome State Fault Refusal) : Prop :=
      Ends (r ⟨false, w⟩) w (locked.opFailed n) ∧ Ends (r ⟨true, w⟩) w (locking true)
    let runs (d : Millis) : Prop :=
      ∃ g, k.op = some (.guarded g (.polling d)) ∨ ∃ p, k.op = some (.guarded g (.command d p))
    let falls (t : HeldTransfer) (u : State) : Prop := exec (.readyLineHold n (.low t)) s = .next u
    let held (op : Op) (link : CartLink) : State :=
      s.setSocket n { k with op := some op, hold := some (s.time.ms + 50), link := link }
    (∀ d, runs d →
      (due d → fails fun e => exec (.pollLimitExpiry n e) s) ∧
      (¬ due d → ∀ e, exec (.pollLimitExpiry n e) s = .next s)) ∧
    ((∀ d, ¬ runs d) → ∀ e, exec (.pollLimitExpiry n e) s = .next s) ∧
    (∀ d, k.hold = some d → due d →
      (∀ g st, k.op = some (.guarded g st) → fails fun e => exec (.holdTimeout n e) s) ∧
      (∀ op b, k.op = some op → (∀ g st, op ≠ .guarded g st) →
        Ends (exec (.holdTimeout n ⟨b, w⟩) s) w (ended.opFailed n))) ∧
    ((k.op = none ∨ k.hold = none ∨ ∃ d, k.hold = some d ∧ ¬ due d) → ∀ e, exec (.holdTimeout n e) s = .next s) ∧
    ((∃ z, k.state = .identifying z) ∨ (∃ e, k.state = .cleaning e) →
      ended.opFailed n =
        (s.setSocket n { k with state := .fault, op := none, hold := none }).raise
          (.socketFault n ((k.view.map (·.serial)).getD 0))) ∧
    (k.op = none → ∀ line, exec (.readyLineHold n line) s = .next s) ∧
    (k.hold ≠ none → ∀ t, falls t s) ∧
    (k.hold = none →
      (∀ g p, k.op = some (.guarded g (.beforeCommand (some p))) →
        falls .unlock (held (.guarded g .unlocking) p) ∧ falls .other (held (.guarded g (.beforeCommand none)) k.link)) ∧
      (∀ g d p, k.op = some (.guarded g (.command d p)) →
        falls .command (held (.guarded g .commanding) p) ∧ falls .other (held (.guarded g (.polling d)) k.link)) ∧
      (∀ b, k.op = some (.locking b) → falls .lock (held (.locking b) k.link)) ∧
      (∀ op, k.op = some op →
        (∃ d, op = .awaitReady d) ∨ (∃ a c, op = .read a c) ∨
          (∃ g, op = .guarded g (.beforeCommand none) ∨ ∃ d, op = .guarded g (.polling d)) →
        falls .other (held op k.link)) ∧
      ((∀ g p, k.op ≠ some (.guarded g (.beforeCommand (some p)))) → falls .unlock s) ∧
      ((∀ g d p, k.op ≠ some (.guarded g (.command d p))) → falls .command s) ∧
      ((∀ b, k.op ≠ some (.locking b)) → falls .lock s) ∧
      (k.op = some .refused ∨ (∃ b, k.op = some (.locking b)) ∨
          (∃ g, k.op = some (.guarded g .unlocking) ∨ k.op = some (.guarded g .commanding)) →
        falls .other s)) ∧
    (k.hold = none → ∀ e, exec (.readyLineHold n (.released e)) s = .next s) ∧
    (∀ h, k.hold = some h →
      (∀ op e, k.op = some op → (∀ g, op ≠ .guarded g .unlocking ∧ op ≠ .guarded g .commanding) →
        (∀ b, op ≠ .locking b) →
        exec (.readyLineHold n (.released e)) s = .next (s.setSocket n { k with hold := none })) ∧
      (∀ g e, k.op = some (.guarded g .unlocking) →
        exec (.readyLineHold n (.released e)) s = .next
          (s.setSocket n
            { k with
              hold := none, op := some (.guarded g (.beforeCommand (some k.link)))
              link := if k.link.busy then k.link else { k.link with latch := true } })) ∧
      (∀ g e, k.op = some (.guarded g .commanding) →
        let limit : BitVec 32 := match g with
          | .page _ _ _ => 10
          | .sectorClear _ => 400
          | .blockClear _ => 3000
        exec (.readyLineHold n (.released e)) s = .next
          (s.setSocket n
            { k with
              hold := none, op := some (.guarded g (.command (s.time.ms + limit) k.link))
              link :=
                if k.link.latch = true ∧ k.link.busy = false then { k.link with busy := true, fault := false }
                else k.link })) ∧
      (k.op = some (.locking true) →
        Ends (exec (.readyLineHold n (.released ⟨false, w⟩)) s) w (locked.opFailed n)) ∧
      (k.op = some (.locking false) →
        Ends (exec (.readyLineHold n (.released ⟨false, w⟩)) s) w
          (s.setSocket n { k with op := some (.read 0 4096), hold := none, link := latched })) ∧
      (∀ b, k.op = some (.locking b) → Ends (exec (.readyLineHold n (.released ⟨true, w⟩)) s) w (locking b)))

/-- The tests before a write or clear (R78, R80, R83): refused, with nothing sent, are any on a MASTER cartridge, any
beyond the capacity, a page write that is not aligned, a clear of sector 0 or block 0, and a page write into sector 0
other than a tag write into the next free slot or the close of an open slot; any other request sends UNLOCK. -/
def Obligations.GuardRefusesWrites : Prop :=
  ∀ (k : Socket) (v : View) (g : Guarded), k.view = some v →
    let size := v.capacity.blocks * 65536
    let refused : Prop := v.kind = .master ∨
      match g with
      | .page a _ use =>
        a % 256 ≠ 0 ∨ size < a + 256 ∨
          (a < 4096 ∧ match use with
            | .tag i => ¬ (a = slotPage i ∧ v.nextFree = some i)
            | .close i => ¬ (a = slotPage i ∧ slotClass (v.slot i) = .open)
            | .other => True)
      | .sectorClear c => c = 0 ∨ size < (c + 1) * 4096
      | .blockClear b => b = 0 ∨ v.capacity.blocks ≤ b
    (refused → k.startGuarded g = { k with op := some .refused, hold := none }) ∧
    (¬ refused →
      k.startGuarded g =
        { k with
          op := some (.guarded g (.beforeCommand (some k.link))), hold := none
          link := if k.link.busy then k.link else { k.link with latch := true } })

/-- A tag written into an unprogrammed slot makes it open with the loan number and issuing station given, a close then
makes it closed with the same tag, and neither changes another slot or the content record (R74, R77, R78, R182). -/
def Obligations.TagAndCloseWriteSlot : Prop :=
  ∀ (v : View) (k : Nat) (loan : LoanNo) (issuer station : Station) (day back : Day),
    v.slots.length = 64 → (∀ b ∈ v.slots, b.length = 16) → 1 ≤ k → k ≤ 64 → v.slot k = List.replicate 16 255 →
    let u := v.apply (tagWrite k loan issuer day)
    let c := u.apply (closeWrite k back station)
    slotClass (u.slot k) = .open ∧ slotLoan (u.slot k) = loan ∧ slotIssuer (u.slot k) = issuer.toNat ∧
    slotClass (c.slot k) = .closed ∧ slotLoan (c.slot k) = loan ∧ slotIssuer (c.slot k) = issuer.toNat ∧
    (∀ j, 1 ≤ j → j ≤ 64 → j ≠ k → u.slot j = v.slot j ∧ c.slot j = v.slot j) ∧
    u.content = v.content ∧ c.content = v.content

/-- A marked check exposes a write cut short (R74, R185): of up to 31 covered bytes and their two check bytes, any of
whose intended zeros may be missing, the check as it reads matches only if no bit is missing. -/
def Obligations.MarkedCheckExposesCutWrite : Prop :=
  ∀ (want got check : List Byte), want.length ≤ 31 →
    List.Forall₂ (fun x y : Byte => y &&& x = x) want got →
    List.Forall₂ (fun x y : Byte => y &&& x = x) (markedCheck want) check →
    markedCheck got = check → got = want ∧ check = markedCheck want

/-! ### The master store and the copy gangs -/

/-- The Store Arbiter and the ends of its operations (R100 to R102, R104, R106, R122, R123, R125): with the store free the
first pending request in rotation after the pointer is granted; a good read loads its gang's buffer, and every member that
waits starts the block, with a clear where its clean-needed flag is set; a failed one voids the title with its notice, the
queued BIDs on its COPY path are withdrawn with cause VOID (R38), its members abort and its jobs leave the queue, and their
loans are released with reason TITLE-VOID (R68, R109); a block written takes its ingest to the next block or to its end; a
failed one drops the ingest; a buffer whose owner has gone is freed, and a failed read for it voids its title as for another
(R101); and an end of no operation changes nothing (the model's choice, log entry 4).  That the aborted member's loan is
released before the waiting job's is R106's order of its steps 3 and 4. -/
def Obligations.StoreBlockEnds : Prop :=
  ∀ (s : State) (w : RecordWrite) (b : Fin 4),
    let idle : Prop := ∀ q, (s.buffer q).request = none
    let buffers (x : Buffer) : Vector Buffer 4 := (s.setBuffer b x).copy.buffers
    let drained : Vector Buffer 4 := if (s.buffer b).owner = .draining then buffers ⟨.free, [], none⟩ else s.copy.buffers
    (s.copy.current ≠ none ∨ idle → s.grant = s) ∧
    (∀ x, s.copy.current = none → (s.buffer b).request = some x →
      (∀ q, q ≠ b → (s.buffer q).request ≠ none → b - s.copy.pointer - 1 < q - s.copy.pointer - 1) →
      s.grant =
        { s with
          copy :=
            { s.copy with
              buffers := buffers { s.buffer b with request := none }, current := some (b, x), pointer := b } }) ∧
    (∀ block good, (∀ q k a x, s.copy.current ≠ some (q, .read k a x)) →
      exec (.storeBlockReadEnd block good w) s = .next s) ∧
    (∀ written, (∀ q x, s.copy.current ≠ some (q, .write x)) → exec (.storeBlockWriteEnd written w) s = .next s) ∧
    (∀ k a x block, s.copy.current = some (b, .read k a x) → idle →
      let r := exec (.storeBlockReadEnd block true w) s
      (∀ id g, (s.buffer b).owner = .gang id → s.gang? id = some g →
        let loaded : State :=
          { s with
            copy :=
              { s.copy with
                current := none, buffers := buffers { s.buffer b with data := block }
                gangs := s.copy.gangs.map fun y => if y.id = id then { y with loaded := true } else y } }
        ((∀ p ∈ s.membersOf id, p.2.progress ≠ .waiting) → Ends r w loaded) ∧
        (∀ n m v, s.membersOf id = [(n, m)] → m.progress = .waiting → m.job.cleanNeeded = false → g.buffer = some b →
          (s.socket n).view = some v → v.kind = .stock → 1 ≤ g.index → g.index < v.capacity.blocks →
          Ends r w
            (loaded.setSocket n
              { s.socket n with
                state := .copying { m with progress := .working (.page 0) false }
                op := some (.guarded (.page (g.index * 65536) (block.take 256) .other)
                  (.beforeCommand (some (s.socket n).link)))
                hold := none, link := (s.socket n).link.unlock })) ∧
        (g.buffer = some b → 1 ≤ g.index →
          (∀ n m, (n, m) ∈ s.membersOf id → m.progress = .waiting →
            ∃ v, (s.socket n).view = some v ∧ v.kind = .stock ∧ g.index < v.capacity.blocks) →
          (∀ n m, (s.socket n).state = .finishing m → m.gang = id → m.progress ≠ .waiting) →
          ∃ sockets : Vector Socket 8,
            (∀ n : Idx8, sockets[n] =
              match (s.socket n).state with
              | .copying m =>
                if m.gang = id ∧ m.progress = .waiting then
                  { s.socket n with
                    state :=
                      .copying
                        { m with
                          progress := .working (if m.job.cleanNeeded then .clearing else .page 0) false }
                    op := some (.guarded
                      (if m.job.cleanNeeded then .blockClear g.index
                        else .page (g.index * 65536) (block.take 256) .other) (.beforeCommand (some (s.socket n).link)))
                    hold := none, link := (s.socket n).link.unlock }
                else s.socket n
              | _ => s.socket n) ∧
            Ends r w { loaded with sockets := sockets })) ∧
      ((s.buffer b).owner = .draining →
        Ends r w { s with copy := { s.copy with current := none, buffers := buffers ⟨.free, [], none⟩ } })) ∧
    (∀ k a x block, s.copy.current = some (b, .read k a x) → idle →
      (∀ p ∈ s.members, p.2.job.work ≠ k) → (∀ j ∈ s.copy.queue, j.work ≠ k) → (∀ e ∈ s.book.entries, e.work ≠ k) →
      let r := exec (.storeBlockReadEnd block false w) s
      let free : State := { s with copy := { s.copy with current := none, buffers := drained } }
      (∀ d, s.dir? k = some d → d.state = .valid → d.start = a →
        let void : State :=
          { free with
            tables :=
              { s.tables with
                directory := s.tables.directory.map fun y => if y.work = k then { y with state := .void } else y } }
        Ends r w (void.raise (.titleVoid k))) ∧
      ((∀ d, s.dir? k = some d → d.state ≠ .valid ∨ d.start ≠ a) → Ends r w (free.raise (.titleVoid k)))) ∧
    (∀ k a x block d, s.copy.current = some (b, .read k a x) → idle → s.dir? k = some d → d.state = .valid → d.start = a →
      let r := exec (.storeBlockReadEnd block false w) s
      let void : State :=
        State.raise
          { s with
            copy := { s.copy with current := none }
            tables :=
              { s.tables with
                directory := s.tables.directory.map fun y => if y.work = k then { y with state := .void } else y } }
          (.titleVoid k)
      let unbid (e : Entry) : Prop := e.work = k → e.state.pledge?.map (·.path) ≠ some .copy
      let released (u : State) (loan : LoanNo) (e : Entry) (z : State) : Prop :=
        OwnReleased { u with tables := { u.tables with loans := u.tables.loans.filter fun y => y.number != loan } } e
          .titleVoid z
      let releases (loan : LoanNo) (st : CartStatus) (e : Entry) : Prop :=
        (∃ l t, s.loan? loan = some l ∧ l.state = .claimed ∧ l.braille = none ∧ l.cart = some ⟨.copy, st, t⟩) ∧
          s.entryOfLoan? loan = some e ∧ s.entry? e.order = some e
      let bidWaits (e : Entry) (p : Pledge) (pre : List TxEntry) (y : TxEntry) (post : List TxEntry) : Prop :=
        s.entry? e.order = some e ∧ e.work = k ∧ e.state = .queued p .none ∧ p.path = .copy ∧
          (∀ z ∈ s.book.entries, z.order ≠ e.order → unbid z) ∧
          (s.book.entries.filter fun z => z.order == e.order) = [e] ∧ s.line.tx = pre ++ y :: post ∧
          (∀ z ∈ pre, ∀ q, z.frame.payload ≠ .bid e.order q) ∧ (∃ q, y.frame.payload = .bid e.order q) ∧
          y.inTransmission = false ∧ s.line.pacing = []
      let withdrawn (u : State) (e : Entry) (p : Pledge) (tx : List TxEntry) : State :=
        { u with
          line := { s.line with tx := tx }, tables := void.tables.undo e.order k p
          book := (s.setEntryState e.order .unbid).book }
      (∀ pre j post e, (∀ e ∈ s.book.entries, unbid e) → (∀ p ∈ s.members, p.2.job.work ≠ k) →
        s.copy.queue = pre ++ j :: post → j.work = k → (∀ i ∈ pre ++ post, i.work ≠ k) → releases j.loan .queued e →
        ∃ z, released { void with copy := { void.copy with queue := pre ++ post, buffers := drained } } j.loan e z ∧
          Ends r w z) ∧
      (∀ e p pre y post, (∀ q ∈ s.members, q.2.job.work ≠ k) → (∀ i ∈ s.copy.queue, i.work ≠ k) →
        bidWaits e p pre y post →
        Ends r w (withdrawn { void with copy := { void.copy with buffers := drained } } e p (pre ++ post))) ∧
      (∀ n m g e, s.members.filter (fun p => p.2.job.work == k) = [(n, m)] → s.membersOf m.gang = [(n, m)] →
        s.gang? m.gang = some g → g.buffer = some b → (s.buffer b).owner = .gang m.gang → g.done < g.len →
        (s.socket n).op ≠ none → releases m.job.loan .copying e →
        let aborted (jobs : List Job) : State :=
          { void.setSocket n { s.socket n with state := .aborting } with
            copy :=
              { void.copy with
                queue := jobs, gangs := s.copy.gangs.filter fun y => y.id != m.gang
                buffers := buffers ⟨.free, [], none⟩ } }
        ((∀ e ∈ s.book.entries, unbid e) → (∀ i ∈ s.copy.queue, i.work ≠ k) →
          ∃ z, released (aborted s.copy.queue) m.job.loan e z ∧ Ends r w z) ∧
        (∀ pre j post e', (∀ e ∈ s.book.entries, unbid e) → s.copy.queue = pre ++ j :: post → j.work = k →
          (∀ i ∈ pre ++ post, i.work ≠ k) → releases j.loan .queued e' → j.loan ≠ m.job.loan → e'.order ≠ e.order →
          ∃ y z, released (aborted (pre ++ post)) m.job.loan e y ∧ released y j.loan e' z ∧ Ends r w z) ∧
        (∀ e' p pre y post, (∀ i ∈ s.copy.queue, i.work ≠ k) → bidWaits e' p pre y post → e'.order ≠ e.order →
          ∃ z, released (withdrawn (aborted s.copy.queue) e' p (pre ++ post)) m.job.loan e z ∧ Ends r w z))) ∧
    (∀ x n i d v, s.copy.current = some (b, .write x) → idle → (s.buffer b).owner = .ingest n →
      (s.socket n).state = .ingesting i → i.buffer = some b → s.dir? i.work = some d → (s.socket n).view = some v →
      let k := s.socket n
      let freed : State :=
        { s with
          copy :=
            { s.copy with
              current := none, buffers := buffers ⟨.free, [], none⟩
              ingestWait := s.copy.ingestWait.filter fun q => q != n } }
      let failed : State :=
        { freed with tables := { s.tables with directory := s.tables.directory.filter fun y => y.work != i.work } }
      let rejected (u : State) (why : RejectReason) : State :=
        (u.setSocket n { k with state := .rejected why, op := none, hold := none }).raise (.rejected n v.serial why)
      (i.index < d.len → i.index + 1 < v.capacity.blocks →
        Ends (exec (.storeBlockWriteEnd true w) s) w
          ({ s with copy := { s.copy with current := none } }.setSocket n
            { k with
              state := .ingesting { i with index := i.index + 1 }, op := some (.read ((i.index + 1) * 65536) 65536)
              hold := none })) ∧
      (d.len ≤ i.index → imageFinish i.acc = d.check →
        let valid : State :=
          { freed with
            tables :=
              { s.tables with
                directory := s.tables.directory.map fun y =>
                  if y.work = i.work then { y with state := .valid } else y } }
        Ends (exec (.storeBlockWriteEnd true w) s) w
          (rejected ((valid.raise (.ingested i.work d.len)).cartridgeGain i.work) .masterNotNeeded)) ∧
      (d.len ≤ i.index → imageFinish i.acc ≠ d.check →
        Ends (exec (.storeBlockWriteEnd true w) s) w (rejected failed .badMaster)) ∧
      Ends (exec (.storeBlockWriteEnd false w) s) w (rejected failed .badMaster)) ∧
    (∀ x written, s.copy.current = some (b, .write x) → idle → (s.buffer b).owner = .draining →
      Ends (exec (.storeBlockWriteEnd written w) s) w
        { s with copy := { s.copy with current := none, buffers := buffers ⟨.free, [], none⟩ } })

/-- The dispatch test (R97, R98, R100, R102, R103): with no job, no fitting blank or no free buffer nothing is dispatched;
otherwise a gang forms around the head job, with the jobs behind it while each is for the same title and edition, a further
fitting blank exists and the gang has fewer than 8 members; each takes the lowest clean fitting blank left, or else the
lowest dirty one, the gang the lowest free buffer; each member spends the marker or clears sector 1, and block 1 is asked
for.  The end of every event takes the test, and again after each dispatch: an event that has brought a state with a head job
to dispatch ends as one that has brought the state after that dispatch.  That the gang takes the lowest of several buffers
that one event has freed is log entry 32's choice. -/
def Obligations.GangFormsAroundHead : Prop :=
  ∀ s : State,
    (s.copy.queue = [] → s.dispatchHead = none) ∧
    (∀ j rest, s.copy.queue = j :: rest →
      (∀ n, s.fittingBlank j.len n = none) ∨ (∀ b, (s.buffer b).owner ≠ .free) → s.dispatchHead = none) ∧
    (∀ j n b v clean, s.copy.queue = [j] → s.fittingBlank j.len n = some clean →
      (∀ q c, s.fittingBlank j.len q = some c → (c = clean → n ≤ q) ∧ (c = true → clean = true)) →
      (s.socket n).view = some v → v.kind = .stock → (s.buffer b).owner = .free →
      (∀ q < b, (s.buffer q).owner ≠ .free) → s.copy.current = none → (∀ q, (s.buffer q).request = none) →
      let k := s.socket n
      let id := s.copy.nextGang
      s.dispatchHead = some
        { (s.setSocket n
            { k with
              state := .copying ⟨id, { j with cleanNeeded := !clean }, .preparing⟩, hold := none
              op := some (.guarded (if clean then markerWrite 0 else .sectorClear 1) (.beforeCommand (some k.link)))
              link := k.link.unlock }) with
          copy :=
            { s.copy with
              queue := [], gangs := s.copy.gangs ++ [⟨id, j.work, j.start, j.len, some b, 1, false, 0⟩]
              nextGang := id + 1, buffers := (s.setBuffer b ⟨.gang id, [], none⟩).copy.buffers
              current := some (b, .read j.work j.start j.start), pointer := b }
          tables :=
            { s.tables with
              loans := s.tables.loans.map fun l =>
                if l.number = j.loan ∧ l.cart.any (fun c => c.path == .copy && c.status == .queued) then
                  { l with cart := l.cart.map fun c => { c with status := .copying } }
                else l } }) ∧
    (∀ (js rest : List Job) (ns : List Idx8) (b : Fin 4), s.copy.queue = js ++ rest → js ≠ [] → js.length ≤ 8 → ns.length = js.length →
      let first := (js.headD ⟨0, ⟨0, 0⟩, 0, 0, 0, 0, false⟩)
      (∀ j ∈ js, j.work = first.work) →
      (∀ i j n, js[i]? = some j → ns[i]? = some n → n ∉ ns.take i ∧ ∃ clean, s.fittingBlank j.len n = some clean ∧
        ∀ q c, q ∉ ns.take i → s.fittingBlank j.len q = some c → (c = clean → n ≤ q) ∧ (c = true → clean = true)) →
      (∀ j, rest.head? = some j →
        j.work ≠ first.work ∨ 8 ≤ js.length ∨ ∀ q, q ∉ ns → s.fittingBlank j.len q = none) →
      (∀ n ∈ ns, ∃ v, (s.socket n).view = some v ∧ v.kind = .stock) → (s.buffer b).owner = .free →
      (∀ q < b, (s.buffer q).owner ≠ .free) → s.copy.current = none → (∀ q, (s.buffer q).request = none) →
      let id := s.copy.nextGang
      ∃ sockets : Vector Socket 8,
        (∀ q : Idx8, q ∉ ns → sockets[q] = s.socket q) ∧
        (∀ (i : Nat) (j : Job) (n : Idx8), js[i]? = some j → ns[i]? = some n →
          let clean := s.fittingBlank j.len n == some true
          sockets[n] =
            { s.socket n with
              state := .copying ⟨id, { j with cleanNeeded := !clean }, .preparing⟩, hold := none
              op := some (.guarded (if clean then markerWrite 0 else .sectorClear 1) (.beforeCommand (some (s.socket n).link)))
              link := (s.socket n).link.unlock }) ∧
        s.dispatchHead = some
          { s with
            sockets := sockets
            copy :=
              { s.copy with
                queue := rest, gangs := s.copy.gangs ++ [⟨id, first.work, first.start, first.len, some b, 1, false, 0⟩]
                nextGang := id + 1, buffers := (s.setBuffer b ⟨.gang id, [], none⟩).copy.buffers
                current := some (b, .read first.work first.start first.start), pointer := b }
            tables :=
              { s.tables with
                loans := s.tables.loans.map fun l =>
                  if l.number ∈ js.map (·.loan) ∧ l.cart.any (fun c => c.path == .copy && c.status == .queued) then
                    { l with cart := l.cart.map fun c => { c with status := .copying } }
                  else l } }) ∧
    (∀ w t, (∀ n, (s.socket n).op ≠ some .refused) → s.dispatchHead = some t → (∀ n, (t.socket n).op ≠ some .refused) →
      finish w s = finish w t)

/-- First-fit allocation (R118): the block answered is the lowest at which an extent of `n` blocks lies below the store
size and meets no entry's extent, and no block is answered exactly when there is none. -/
def Obligations.FirstFitIsLowest : Prop :=
  ∀ (dir : List DirEntry) (size n : Nat), 1 ≤ n →
    let fits (b : Nat) : Prop := b + n ≤ size ∧ ∀ d ∈ dir, b + n ≤ d.start ∨ d.start + d.len ≤ b
    (∀ b, firstFit dir size n = some b ↔ fits b ∧ ∀ a < b, ¬ fits a) ∧
    (firstFit dir size n = none ↔ ∀ b, ¬ fits b) ∧
    (∀ b, firstFit dir size n = some b → ∀ i < n, blockFree dir (b + i) = true)

/-! ### The bench -/

/-- PACK (R156 to R158): a loan not held, a container of 0 or above 65,535 and a loan not READY are refused; a READY loan
joins its group's FILLING tray and goes to PACKED; a tray that cannot take it and holds a loan closes with its notice;
where no tray is FILLING the lowest FREE record opens, and where none is FREE the PACK is refused. -/
def Obligations.PackPlacesLoan : Prop :=
  ∀ (s : State) (loan : BenchLoan) (c : Nat) (w : RecordWrite),
    s.start.phase = .running → s.line.state ≠ .listen →
    let b : State := { s with bench := { s.bench with buffer := [], extra := 0, bad := false } }
    let r := exec (.pack loan c w) s
    let refused (u : State) (why : RefuseReason) : State := u.raise (.refused why "PACK")
    let named : Prop := 1 ≤ loan.station ∧ loan.station ≤ 63 ∧ 1 ≤ loan.sequence ∧ loan.sequence ≤ 262143
    let n : LoanNo := makeNumber (BitVec.ofNat 6 loan.station) (BitVec.ofNat 18 loan.sequence)
    ((named → s.loan? n = none) → Ends r w (refused b .noLoan)) ∧
    (∀ l, named → s.loan? n = some l →
      (c = 0 ∨ 65535 < c → Ends r w (refused b .range)) ∧
      (1 ≤ c → c ≤ 65535 → l.state ≠ .ready → Ends r w (refused b .state)) ∧
      (1 ≤ c → c ≤ 65535 → l.state = .ready →
        let g : Idx8 := s.cfg.zoneMap[l.zone.toFin]
        let filling (x : Tray) : Prop := x.group = g ∧ x.state = .filling
        let full (x : Tray) : Prop := x.capacity < x.load + l.mailUnits ∨ 48 ≤ x.loans.length
        let packed (t : TrayNo) : List Loan :=
          s.tables.loans.map fun y =>
            if y.number = n then
              { y with state := .packed, container := some (BitVec.ofNat 16 c), tray := some t }
            else y
        let joins (u : State) (q : Fin 16) (x : Tray) : State :=
          State.setTray { u with tables := { u.tables with loans := packed x.number } } q
            (some
              { x with
                loans := x.loans ++ [n], load := x.load + l.mailUnits, urgent := x.urgent || l.urgent })
        let opens (u : State) (q : Fin 16) : State :=
          let t := s.freeTrayNo 16 s.tables.nextTray
          let p := s.cfg.groups[g]
          joins { u with tables := { u.tables with nextTray := if t = 65535 then 1 else t + 1 } } q
            ⟨t, g, p.capacity, p.threshold, p.maxAge, 0, [], s.time.sec, false, .filling⟩
        (∀ q x, s.tray q = some x → filling x → (∀ p y, s.tray p = some y → filling y → q ≤ p) →
          ¬ full x ∨ x.loans = [] → Ends r w (joins b q x)) ∧
        ((∀ p y, s.tray p = some y → ¬ filling y) →
          (∀ q, s.tray q = none → (∀ p < q, s.tray p ≠ none) → Ends r w (opens b q)) ∧
          ((∀ q, s.tray q ≠ none) → Ends r w (refused b .traysFull))) ∧
        (∀ q x, s.tray q = some x → filling x → (∀ p y, s.tray p = some y → filling y → p = q) → full x →
          x.loans ≠ [] →
          let closed : State :=
            (b.setTray q (some { x with state := .closed })).raise
              (.trayClosed x.number x.group x.load x.loans.length)
          (∀ p, s.tray p = none → (∀ o < p, s.tray o ≠ none) → Ends r w (opens closed p)) ∧
          ((∀ p, s.tray p ≠ none) → Ends r w (refused closed .traysFull)))))

/-- DISPATCH and the age of a tray (R60, R159 to R162): on day 0 NO-DATE; otherwise every tray with loans that is CLOSED,
or FILLING and urgent or at its threshold, goes to DISPATCHING at the tail of the dispatch line, with its notice, in
record order, or one notice says NONE; the first tray on an empty line offers its SHIPPED, whose acceptance ships the
loan.  Once start has ended, a FILLING tray at its maximum age closes, or is freed when it is empty (R174).  That NO-DATE is
the only notice on day 0 is log entry 23's choice, that the offer is made in the DISPATCH's own event log entry 10's, and
that an age not reached is no event, while one reached is one however late, log entries 4 and 5's. -/
def Obligations.DispatchTakesReadyTrays : Prop :=
  ∀ (s : State) (w : RecordWrite),
    let b : State := { s with bench := { s.bench with buffer := [], extra := 0, bad := false } }
    let r := exec (.dispatch w) s
    let ready (x : Tray) : Bool :=
      !x.loans.isEmpty && (x.state == .closed || (x.state == .filling && (x.urgent || decide (x.threshold ≤ x.load))))
    let day := s.tables.day
    (s.start.phase = .running → s.line.state ≠ .listen →
      (day = 0 → Ends r w (b.raise .noDate)) ∧
      (day ≠ 0 → (∀ q x, s.tray q = some x → ready x = false) → Ends r w (b.raise (.dispatched none 0 0))) ∧
      (day ≠ 0 → s.tables.dispatchLine ≠ [] → (∃ q x, s.tray q = some x ∧ ready x = true) →
        s.bench.notices.length ≤ 48 →
        ∃ trays : Vector (Option Tray) 16,
          (∀ q : Fin 16, trays[q] = (s.tray q).map fun x => if ready x then { x with state := .dispatching } else x) ∧
          Ends r w
            { b with
              tables :=
                { s.tables with
                  trays := trays
                  dispatchLine := s.tables.dispatchLine ++ (List.finRange 16).filter fun q => (s.tray q).any ready }
              bench :=
                { b.bench with
                  notices := s.bench.notices ++ (List.finRange 16).filterMap fun q =>
                    ((s.tray q).filter ready).map fun x =>
                      Notice.dispatched (some x.number) x.group.val x.loans.length } }) ∧
      (∀ q x n l e, day ≠ 0 → s.tables.dispatchLine = [] → s.tray q = some x → ready x = true →
        (∀ p y, s.tray p = some y → ready y = true → p = q) → x.loans = [n] → s.loan? n = some l →
        s.entryOfLoan? n = some e → s.line.pacing = [] → s.line.tx.length ≤ 12 →
        let due : Day := BitVec.ofNat 16 (min 65535 (day.toNat + s.cfg.loanPeriod))
        let serial : Serial := match l.cart with
          | some ⟨_, .ready k, _⟩ => k
          | _ => 0
        let shipped : State :=
          { b with
            line :=
              { s.line with
                tx := s.line.tx ++
                  [⟨⟨0, s.start.own.getD 0, .shipped l.order n serial day due⟩, false, false⟩] }
            tables :=
              { s.tables with
                loans := s.tables.loans.map fun y =>
                  if y.number = n then
                    { y with state := .shipped, dispatchDay := some day, dueDay := some due, tray := none }
                  else y
                trays := s.tables.trays.set q.val none q.isLt }
            book := (s.dropEntry e.order).book }
        Ends r w (shipped.raise (.dispatched (some x.number) x.group.val 1)))) ∧
    (∀ q, let age := exec (.trayAgeExpiry q w) s
      let old (x : Tray) : Prop :=
        s.start.phase = .running ∧ x.state = .filling ∧ x.maxAge * 3600 ≤ (s.time.sec - x.opened).toNat
      (∀ x, s.tray q = some x → old x → x.loans = [] → Ends age w (s.setTray q none)) ∧
      (∀ x, s.tray q = some x → old x → x.loans ≠ [] →
        Ends age w
          ((s.setTray q (some { x with state := .closed })).raise
            (.trayClosed x.number x.group x.load x.loans.length))) ∧
      ((∀ x, s.tray q = some x → ¬ old x) → age = .next s))

/-- PICK, BACK, NOSET and NOCART (R58, R66, R67, R69, R70, R150): each refusal by its reason; a PICK takes the set and
tests the loan for READY; a BACK returns it, with the recovery notice, the braille gain and the close; NOSET and NOCART
take the missing stock from its table and release the loan with STOCK-MISSING, NOCART where no copy job can be made, its
other part unwound by the rows of R65 and its RELEASE queued or owed (R33, R34). -/
def Obligations.LoanCommandsAtBench : Prop :=
  ∀ (s : State) (loan : BenchLoan) (w : RecordWrite), s.start.phase = .running → s.line.state ≠ .listen →
    let b : State := { s with bench := { s.bench with buffer := [], extra := 0, bad := false } }
    let named : Prop := 1 ≤ loan.station ∧ loan.station ≤ 63 ∧ 1 ≤ loan.sequence ∧ loan.sequence ≤ 262143
    let n : LoanNo := makeNumber (BitVec.ofNat 6 loan.station) (BitVec.ofNat 18 loan.sequence)
    let refused (c : Instr) (why : RefuseReason) (word : String) : Prop := Ends (exec c s) w (b.raise (.refused why word))
    let ours : Prop := ∃ x, s.start.own = some x ∧ x.toNat = loan.station
    let pledged (l : Loan) : Prop := l.state = .claimed ∧ ∃ k, l.braille = some ⟨k, .pledged⟩
    let out (l : Loan) : Prop := l.state = .shipped ∨ l.state = .overdue ∨ l.state = .lost
    let shelved (l : Loan) : Prop := l.state = .claimed ∧ ∃ a, l.cart = some ⟨.reissue, .queued, a⟩
    let releases (u : State) (c : Instr) : Prop :=
      ∀ e, s.entryOfLoan? n = some e → s.entry? e.order = some e →
        ∃ z,
          OwnReleased { u with tables := { u.tables with loans := u.tables.loans.filter fun y => y.number != n } } e
            .stockMissing z ∧
          Ends (exec c s) w z
    let gone : List Loan := s.tables.loans.filter fun y => y.number != n
    ((named → s.loan? n = none) →
      refused (.pick loan w) .noLoan "PICK" ∧ refused (.noset loan w) .noLoan "NOSET" ∧
      refused (.nocart loan w) .noLoan "NOCART" ∧ (ours → refused (.back loan w) .noLoan "BACK")) ∧
    (¬ ours → refused (.back loan w) .notOwn "BACK") ∧
    (∀ l, named → s.loan? n = some l →
      (¬ pledged l → refused (.pick loan w) .state "PICK" ∧ refused (.noset loan w) .state "NOSET") ∧
      (¬ shelved l → refused (.nocart loan w) .state "NOCART") ∧
      (ours → ¬ (out l ∧ ∃ k, l.braille = some ⟨k, .picked⟩) → refused (.back loan w) .state "BACK") ∧
      (∀ k, l.state = .claimed → l.braille = some ⟨k, .pledged⟩ →
        Ends (exec (.pick loan w) s) w
          { b with
            tables :=
              { s.tables with
                loans := s.tables.loans.map fun y =>
                  if y.number = n then
                    { y with
                      braille := some ⟨k, .picked⟩
                      state := if y.state = .claimed ∧ y.cart.all (·.isReady) then .ready else y.state }
                  else y
                sets := s.tables.sets.map fun y =>
                  if y.work = k then { y with onShelf := y.onShelf - 1, pledged := y.pledged - 1 } else y } } ∧
        (∀ u,
          CartRow
            { b with
              tables :=
                { s.tables with
                  sets :=
                    (s.tables.sets.map fun y =>
                      if y.work = k then
                        { y with held := y.held - 1, onShelf := y.onShelf - 1, pledged := y.pledged - 1 }
                      else y).filter fun y => !(y.work == k && y.held == 0) } } l u →
          releases u (.noset loan w))) ∧
      (∀ k, ours → out l → l.braille = some ⟨k, .picked⟩ →
        let notice : RecoveryNotice :=
          if l.state = .lost ∧ l.recovery = .none then (if l.lostSent then .owed else .done) else l.recovery
        let closes : Prop := (∀ c, l.cart = some c → c.status = .back) ∧ notice ≠ .owed
        let back (loans : List Loan) : State :=
          { b with
            tables :=
              { s.tables with
                loans := loans
                sets := s.tables.sets.map fun y => if y.work = k then { y with onShelf := y.onShelf + 1 } else y }
            scan :=
              if l.state = .lost ∧ l.recovery = .none ∧ l.lostSent = true then
                if s.scan.running then { s.scan with rescan := true }
                else { s.scan with running := true, last := none }
              else s.scan }
        (closes → Ends (exec (.back loan w) s) w ((back gone).brailleGain k)) ∧
        (¬ closes →
          Ends (exec (.back loan w) s) w
            ((back
              (s.tables.loans.map fun y =>
                if y.number = n then
                  { y with
                    braille := some ⟨k, .back⟩
                    recovery := if l.state = .lost ∧ l.recovery = .none then notice else y.recovery }
                else y)).brailleGain k))) ∧
      (∀ a x, l.state = .claimed → l.cart = some ⟨.reissue, .queued, a⟩ → s.issuing? n = some x →
        let stock : List StockRec := s.tables.stock.filter fun y => y.serial != x.serial
        (∀ d, s.dir? l.work = some d → d.state = .valid → s.copyLoad ≤ 23 →
          let m := s.cfg.program + s.cfg.erase
          Ends (exec (.nocart loan w) s) w
            { b with
              tables :=
                { s.tables with
                  stock := stock
                  loans := s.tables.loans.map fun y =>
                    if y.number = n then
                      { y with cart := y.cart.map fun c => { c with path := .copy, status := .queued } }
                    else y }
              copy :=
                { s.copy with
                  queue := s.copy.queue ++ [⟨n, l.work, d.start, d.len, m, (d.len * m + 999) / 1000, false⟩] } }) ∧
        (∀ u, (∀ d, s.dir? l.work = some d → d.state = .valid → 23 < s.copyLoad) →
          BrailleRow { b with tables := { s.tables with stock := stock } } l u → releases u (.nocart loan w))))

/-- SHELVE, DROP and SET (R126, R129, R132): each refusal by its reason, in order; a SHELVE records the shelf code; a DROP
removes the entry and, of a VALID one, reports the title void; a SET adds copies to its record or makes one, and is a
braille gain.  That a DROP of a title or edition beyond its range answers NO-TITLE is the model's choice (log entry 23). -/
def Obligations.StockCommandsAtBench : Prop :=
  ∀ (s : State) (w : RecordWrite), s.start.phase = .running → s.line.state ≠ .listen →
    let b : State := { s with bench := { s.bench with buffer := [], extra := 0, bad := false } }
    let ends (c : Instr) (t : State) : Prop := Ends (exec c s) w t
    (∀ serial shelf, serial ≤ 4294967295 →
      (shelf = 0 ∨ 65535 < shelf → ends (.shelve serial shelf w) (b.raise (.refused .range "SHELVE"))) ∧
      (1 ≤ shelf → shelf ≤ 65535 →
        (s.stock? (BitVec.ofNat 32 serial) = none → ends (.shelve serial shelf w) (b.raise (.refused .noStock "SHELVE"))) ∧
        (∀ x, s.stock? (BitVec.ofNat 32 serial) = some x →
          ends (.shelve serial shelf w)
            { b with
              tables :=
                { s.tables with
                  stock := s.tables.stock.map fun y =>
                    if y.serial.toNat = serial then { y with shelf := some (BitVec.ofNat 16 shelf) } else y } }))) ∧
    (∀ title edition,
      let k : Work := ⟨BitVec.ofNat 20 title, BitVec.ofNat 4 edition⟩
      let named : Prop := title ≤ 1048575 ∧ edition ≤ 15
      let u : State :=
        { b with tables := { s.tables with directory := s.tables.directory.filter fun d => d.work != k } }
      ((named → s.dir? k = none) → ends (.drop title edition w) (b.raise (.refused .noTitle "DROP"))) ∧
      (∀ d, named → s.dir? k = some d →
        (d.state = .loading ∨ 0 < s.users k → ends (.drop title edition w) (b.raise (.refused .inUse "DROP"))) ∧
        (d.state = .void → s.users k = 0 → ends (.drop title edition w) u) ∧
        (d.state = .valid → s.users k = 0 → ends (.drop title edition w) (u.titleVoid k)))) ∧
    (∀ title edition volumes copies, title ≤ 1048575 →
      let k : Work := ⟨BitVec.ofNat 20 title, BitVec.ofNat 4 edition⟩
      let r (t : State) : Prop := ends (.set title edition volumes copies w) t
      let gained (sets : List SetRec) : State :=
        { b with
          tables := { s.tables with sets := sets }
          book :=
            { s.book with
              entries := s.book.entries.map fun e =>
                if e.state = .unbid ∧ e.work = k ∧ e.format ≠ .cartridge ∧ e.excluded = false then
                  { e with state := .window (s.time.ms + BitVec.ofNat 32 (10 * s.cfg.bidWindow)) }
                else e } }
      let bad : Prop := title = 0 ∨ 15 < edition ∨ volumes = 0 ∨ 40 < volumes ∨ copies = 0 ∨ 15 < copies
      (bad → r (b.raise (.refused .range "SET"))) ∧
      (¬ bad →
        (∀ x, s.set? k = some x →
          (volumes ≠ x.volumes → r (b.raise (.refused .mismatch "SET"))) ∧
          (volumes = x.volumes → 15 < x.held + copies → r (b.raise (.refused .range "SET"))) ∧
          (volumes = x.volumes → x.held + copies ≤ 15 →
            r (gained (s.tables.sets.map fun y =>
              if y.work = k then { y with held := y.held + copies, onShelf := y.onShelf + copies } else y)))) ∧
        (s.set? k = none →
          (128 ≤ s.tables.sets.length → r (b.raise (.refused .tableFull "SET"))) ∧
          (s.tables.sets.length < 128 → r (gained (s.tables.sets ++ [⟨k, volumes, copies, copies, 0⟩]))))))

/-- The bench line (R167, R168, R169, R173): before start ends and in LISTEN a command is refused before its owner takes
it; a character joins the buffer, is counted beyond 40, or marks the line bad; a carriage return refuses a long or a bad
line and ignores an empty one; and the head notice is sent with its LOST mark.  A line neither long nor bad is tested in
R169's order: STARTING for any command but RESET, UNKNOWN for a word that is no command, LISTEN for any command but the SHOW
commands and RESET, FORM for fields that are not those of the command, each after one space, and otherwise the command goes
to its owner with its fields: loans as two groups of digits joined by a full stop, numbers as one, each of 1 to 10 digits and
at most 4,294,967,295.  The model's choices: the command word of a bad line's refusal, that a line with stray spaces is
tested by its words like any other, SHOW before a second or a last space with an empty second word, and a BENCH_LINE_REFUSED on a line that would run, which changes nothing (log entry 24);
NOTICE_SEND on an empty queue, which changes nothing, and at any time (log entries 4 and 25); and a carriage return or line
feed received with a framing error, which marks the line bad alone (log entry 29). -/
def Obligations.BenchLineTests : Prop :=
  ∀ (s : State) (w : RecordWrite),
    let b : State := { s with bench := { s.bench with buffer := [], extra := 0, bad := false } }
    let char (c : Byte) (framing : Bool) := exec (.benchCharacterReceived c framing w) s
    (∀ (c : Instr) (word : String),
      (∃ l k, c = .pack l k w ∧ word = "PACK") ∨ (∃ l, c = .pick l w ∧ word = "PICK") ∨
        (∃ l, c = .back l w ∧ word = "BACK") ∨ (∃ x k, c = .shelve x k w ∧ word = "SHELVE") ∨
        (∃ l, c = .nocart l w ∧ word = "NOCART") ∨ (∃ l, c = .noset l w ∧ word = "NOSET") ∨
        (c = .dispatch w ∧ word = "DISPATCH") ∨ (∃ t e, c = .drop t e w ∧ word = "DROP") ∨
        (∃ t e v k, c = .set t e v k w ∧ word = "SET") →
      (s.start.phase ≠ .running → exec c s = .next (b.raise (.refused .starting word))) ∧
      (s.start.phase = .running → s.line.state = .listen → exec c s = .next (b.raise (.refused .listen word)))) ∧
    (s.start.phase ≠ .running →
      exec .showSockets s = .next (b.raise (.refused .starting "SHOW SOCKETS")) ∧
      exec .showTrays s = .next (b.raise (.refused .starting "SHOW TRAYS")) ∧
      ∀ l, exec (.showLoan l) s = .next (b.raise (.refused .starting "SHOW LOAN"))) ∧
    (s.bench.notices = [] → exec .noticeSend s = .next s) ∧
    (∀ x xs, s.bench.notices = x :: xs →
      exec .noticeSend s = .next
        { s with
          bench :=
            { s.bench with
              notices := xs, lost := false
              sent := (if s.bench.lost then [76, 79, 83, 84, 32] else []) ++ ascii x.text ++ [13] } }) ∧
    (∀ c : Byte, 32 ≤ c.toNat → c.toNat ≤ 126 →
      (s.bench.buffer.length < 40 → char c false = .next { s with bench := { s.bench with buffer := s.bench.buffer ++ [c] } }) ∧
      (40 ≤ s.bench.buffer.length → char c false = .next { s with bench := { s.bench with extra := s.bench.extra + 1 } })) ∧
    (char 10 false = .next s) ∧
    (∀ (c : Byte) (framing : Bool),
      framing = true ∨ (c ≠ 13 ∧ c ≠ 10 ∧ (c.toNat < 32 ∨ 126 < c.toNat)) →
      char c framing = .next { s with bench := { s.bench with bad := true } }) ∧
    (0 < s.bench.extra →
      char 13 false = .next (b.raise (.refused .long "")) ∧
      exec .benchLineRefused s = .next (b.raise (.refused .long ""))) ∧
    (s.bench.extra = 0 → s.bench.bad = false → s.bench.buffer = [] →
      char 13 false = .next s ∧ exec .benchLineRefused s = .next s) ∧
    let refuses (why : RefuseReason) (word : String) : Prop :=
      char 13 false = .next (b.raise (.refused why word)) ∧
        exec .benchLineRefused s = .next (b.raise (.refused why word))
    let text (bs : List Byte) : String := String.ofList (bs.map fun c => Char.ofNat c.toNat)
    let names (line : List Byte) (word : String) : Prop :=
      ∃ u v tail : List Byte, 32 ∉ u ∧ 32 ∉ v ∧ (tail = [] ∨ tail.head? = some 32) ∧
        ((line = u ++ tail ∧ (u = ascii "SHOW" → tail = []) ∧ word = text u) ∨
          (line = ascii "SHOW" ++ 32 :: v ++ tail ∧ word = "SHOW " ++ text v))
    (∀ word, s.bench.extra = 0 → s.bench.bad = true → names s.bench.buffer word → refuses .form word) ∧
    (s.bench.extra = 0 → s.bench.bad = false →
      let number (bs : List Byte) (k : Nat) : Prop :=
        1 ≤ bs.length ∧ bs.length ≤ 10 ∧ (∀ c ∈ bs, 48 ≤ c.toNat ∧ c.toNat ≤ 57) ∧
          bs.foldl (fun a c => 10 * a + (c.toNat - 48)) 0 = k ∧ k ≤ 4294967295
      let loan (bs : List Byte) (l : BenchLoan) : Prop :=
        ∃ x y, bs = x ++ 46 :: y ∧ number x l.station ∧ number y l.sequence
      let command (word : String) (fs : List (List Byte)) (c : Instr) : Prop :=
        (word = "PACK" ∧ ∃ x y l k, fs = [x, y] ∧ loan x l ∧ number y k ∧ c = .pack l k w) ∨
        (word = "PICK" ∧ ∃ x l, fs = [x] ∧ loan x l ∧ c = .pick l w) ∨
        (word = "BACK" ∧ ∃ x l, fs = [x] ∧ loan x l ∧ c = .back l w) ∨
        (word = "SHELVE" ∧ ∃ x y k z, fs = [x, y] ∧ number x k ∧ number y z ∧ c = .shelve k z w) ∨
        (word = "NOCART" ∧ ∃ x l, fs = [x] ∧ loan x l ∧ c = .nocart l w) ∨
        (word = "NOSET" ∧ ∃ x l, fs = [x] ∧ loan x l ∧ c = .noset l w) ∨
        (word = "DISPATCH" ∧ fs = [] ∧ c = .dispatch w) ∨
        (word = "DROP" ∧ ∃ x y t e, fs = [x, y] ∧ number x t ∧ number y e ∧ c = .drop t e w) ∨
        (word = "SET" ∧ ∃ x y z q t e v k, fs = [x, y, z, q] ∧ number x t ∧ number y e ∧ number z v ∧ number q k ∧
          c = .set t e v k w) ∨
        (word = "SHOW SOCKETS" ∧ fs = [] ∧ c = .showSockets) ∨ (word = "SHOW TRAYS" ∧ fs = [] ∧ c = .showTrays) ∨
        (word = "SHOW LOAN" ∧ ∃ x l, fs = [x] ∧ loan x l ∧ c = .showLoan l) ∨
        (word = "RESET" ∧ fs = [] ∧ c = .reset)
      let words : List String :=
        ["PACK", "PICK", "BACK", "SHELVE", "NOCART", "NOSET", "DISPATCH", "DROP", "SET", "SHOW SOCKETS", "SHOW TRAYS",
          "SHOW LOAN", "RESET"]
      let taken (word : String) : Prop :=
        (s.start.phase = .running ∨ word = "RESET") ∧
          (s.line.state ≠ .listen ∨ word ∈ ["SHOW SOCKETS", "SHOW TRAYS", "SHOW LOAN", "RESET"])
      (∀ word fs c, command word fs c → s.bench.buffer = ascii word ++ fs.flatMap (fun f => 32 :: f) →
        char 13 false = exec c s ∧ (taken word → exec .benchLineRefused s = .next s)) ∧
      (∀ word, s.bench.buffer ≠ [] → names s.bench.buffer word →
        (s.start.phase ≠ .running → word ≠ "RESET" → refuses .starting word) ∧
        (s.start.phase = .running → word ∉ words → refuses .unknown word) ∧
        (s.start.phase = .running → word ∈ words → ¬ taken word → refuses .listen word) ∧
        (word ∈ words → taken word →
          (∀ fs c, command word fs c → s.bench.buffer ≠ ascii word ++ fs.flatMap (fun f => 32 :: f)) →
          refuses .form word)))

/-- The SHOW commands (R170 to R172), taken in LISTEN as elsewhere once start has ended: one SOCKET line for each socket,
with the detail its state calls for, a TRAYS line and a TRAY line for each record not FREE, and a LOAN line, raised in
order; a loan with no record is refused, and in LISTEN every socket shows OFF and EMPTY.  That a DONE socket shows its loan,
and never 0, is log entry 31's choice.  The order of a line's fields where
the manual lists them without one is the model's choice (log entry 23). -/
def Obligations.ShowCommandsRaiseLines : Prop :=
  ∀ s : State, s.start.phase = .running →
    let b : State := { s with bench := { s.bench with buffer := [], extra := 0, bad := false } }
    let lines (xs : List Notice) : State := { b with bench := { b.bench with notices := s.bench.notices ++ xs } }
    (s.bench.notices.length ≤ 56 → exec .showSockets s = .next (lines ((List.finRange 8).map s.socketLine))) ∧
    (∀ n : Idx8, s.line.state = .listen → s.socketLine n = .line "SOCKET" [.num n.val, .word "OFF", .word "EMPTY", .num 0]) ∧
    (∀ n : Idx8, s.line.state ≠ .listen → ∃ (role : String) (detail : List Field),
      (role = match s.cfg.roles[n] with
        | .off => "OFF"
        | .copy => "COPY"
        | .intake => "INTAKE") ∧
      s.socketLine n = .line "SOCKET"
        ([.num n.val, .word role, .word (s.socket n).state.word,
          .num (s.serialAt n).toNat] ++ detail) ∧
      (∀ y, (s.socket n).state = .rejected y → detail = [.word y.word]) ∧
      (∀ m, (s.socket n).state = .copying m →
        detail = [.loan m.job.loan, .num (s.blocksDone m), .num m.job.len]) ∧
      (∀ l, (s.socket n).state = .done l → detail = [.loan l]) ∧
      (∀ m, (s.socket n).state = .finishing m → detail = [.loan m.job.loan]) ∧
      (∀ l x, (s.socket n).state = .tagging l x → detail = [.loan l]) ∧
      ((s.socket n).state = .empty ∨ (∃ z, (s.socket n).state = .identifying z) ∨ (s.socket n).state = .fault ∨
          (s.socket n).state = .aborting → detail = []) ∧
      (∀ v, (s.socket n).view = some v →
        let cleared (last : Nat) : EraseStep → Nat
          | .sector => 0
          | .block b => b - 1
          | .marker => last
        (∀ c, (s.socket n).state = .blank c →
          detail = [.word (if c then "CLEAN" else "DIRTY"), .num v.capacity.blocks]) ∧
        (∀ e, (s.socket n).state = .cleaning e →
          detail = [.num (cleared (v.capacity.blocks - 1) e), .num (v.capacity.blocks - 1)]) ∧
        (∀ c last e, (s.socket n).state = .erasing c last e → detail = [.num (cleared last e), .num last]) ∧
        (∀ c, (s.socket n).state = .kept c → detail = [.num v.work.title.toNat, .num v.work.edition.toNat])) ∧
      (∀ c, (s.socket n).state = .checking c →
        detail =
          [.word (if c.mode = .noLoan then "NO-LOAN" else "RETURN"),
            match c.loan with
            | some l => .loan l
            | none => .num 0,
            .num (match c.phase with
              | .verify i _ => i - 1
              | _ => 0)]) ∧
      (∀ i d, (s.socket n).state = .ingesting i → s.dir? i.work = some d →
        detail = [.num i.work.title.toNat, .num i.work.edition.toNat, .num (i.index - 1), .num d.len])) ∧
    (s.bench.notices.length ≤ 47 →
      exec .showTrays s = .next
        (lines
          (.line "TRAYS"
              [.num s.tables.day.toNat, .num ((List.finRange 16).countP fun q => (s.tray q).isNone),
                .num s.tables.nextTray.toNat] ::
            (List.finRange 16).filterMap fun q => (s.tray q).map fun x =>
              .line "TRAY"
                [.num q.val, .num x.number.toNat, .num x.group.val,
                  .word (match x.state with
                    | .filling => "FILLING"
                    | .closed => "CLOSED"
                    | .dispatching => "DISPATCHING"),
                  .num x.load, .num x.loans.length,
                  .num (if x.state = .filling then (s.time.sec - x.opened).toNat else 0),
                  .num (if x.urgent then 1 else 0),
                  .num (if x.state = .dispatching ∧ q ∈ s.tables.dispatchLine then s.tables.dispatchLine.idxOf q + 1
                    else 0)]))) ∧
    (∀ loan : BenchLoan,
      let named : Prop := 1 ≤ loan.station ∧ loan.station ≤ 63 ∧ 1 ≤ loan.sequence ∧ loan.sequence ≤ 262143
      let n : LoanNo := makeNumber (BitVec.ofNat 6 loan.station) (BitVec.ofNat 18 loan.sequence)
      ((named → s.loan? n = none) → exec (.showLoan loan) s = .next (b.raise (.refused .noLoan "SHOW LOAN"))) ∧
      (∀ l, named → s.loan? n = some l → s.bench.notices.length < 64 →
        ∃ serial shelf : Field,
          exec (.showLoan loan) s = .next
            (lines
              [.line "LOAN"
                [.loan n, .num l.order.toNat, .word l.state.word, .word l.format.word,
                  optField (fun c => .word c.path.word) l.cart, optField (fun c => .word c.status.word) l.cart,
                  serial, shelf, optField (fun p => .word p.status.word) l.braille,
                  optField (fun t => .num t.toNat) l.tray, optField (fun d => .num d.toNat) l.dueDay]]) ∧
          (∀ p k a, l.cart = some ⟨p, .ready k, a⟩ → serial = .num k.toNat ∧ shelf = .hyphen) ∧
          (l.cart = none → serial = .hyphen ∧ shelf = .hyphen) ∧
          (∀ a x, l.cart = some ⟨.reissue, .queued, a⟩ → s.issuing? n = some x →
            serial = .num x.serial.toNat ∧
            shelf = match x.shelf with
              | some y => .num y.toNat
              | none => .word "NONE")))
end

