-- ==== Sys2Proof/Laws/State.lean ====
section
/-! SUPPORT. The field lemmas of State's updates: one lemma for each field an update leaves alone, true by `rfl`, and the
reads of what it writes. -/

namespace Sys2Proof.Machine

variable (s : State)

@[simp] theorem State.setSocket_pending (n : Idx8) (k : Socket) : (s.setSocket n k).pending = s.pending := rfl
@[simp] theorem State.setSocket_time (n : Idx8) (k : Socket) : (s.setSocket n k).time = s.time := rfl
@[simp] theorem State.setSocket_start (n : Idx8) (k : Socket) : (s.setSocket n k).start = s.start := rfl
@[simp] theorem State.setSocket_cfg (n : Idx8) (k : Socket) : (s.setSocket n k).cfg = s.cfg := rfl
@[simp] theorem State.setSocket_line (n : Idx8) (k : Socket) : (s.setSocket n k).line = s.line := rfl
@[simp] theorem State.setSocket_book (n : Idx8) (k : Socket) : (s.setSocket n k).book = s.book := rfl
@[simp] theorem State.setSocket_tables (n : Idx8) (k : Socket) : (s.setSocket n k).tables = s.tables := rfl
@[simp] theorem State.setSocket_scan (n : Idx8) (k : Socket) : (s.setSocket n k).scan = s.scan := rfl
@[simp] theorem State.setSocket_quarantine (n : Idx8) (k : Socket) : (s.setSocket n k).quarantine = s.quarantine := rfl
@[simp] theorem State.setSocket_copy (n : Idx8) (k : Socket) : (s.setSocket n k).copy = s.copy := rfl
@[simp] theorem State.setSocket_returns (n : Idx8) (k : Socket) : (s.setSocket n k).returns = s.returns := rfl
@[simp] theorem State.setSocket_bench (n : Idx8) (k : Socket) : (s.setSocket n k).bench = s.bench := rfl
@[simp] theorem State.setSocket_nv (n : Idx8) (k : Socket) : (s.setSocket n k).nv = s.nv := rfl

@[simp] theorem State.modSocket_pending (n : Idx8) (f : Socket → Socket) : (s.modSocket n f).pending = s.pending := rfl
@[simp] theorem State.modSocket_time (n : Idx8) (f : Socket → Socket) : (s.modSocket n f).time = s.time := rfl
@[simp] theorem State.modSocket_start (n : Idx8) (f : Socket → Socket) : (s.modSocket n f).start = s.start := rfl
@[simp] theorem State.modSocket_cfg (n : Idx8) (f : Socket → Socket) : (s.modSocket n f).cfg = s.cfg := rfl
@[simp] theorem State.modSocket_line (n : Idx8) (f : Socket → Socket) : (s.modSocket n f).line = s.line := rfl
@[simp] theorem State.modSocket_book (n : Idx8) (f : Socket → Socket) : (s.modSocket n f).book = s.book := rfl
@[simp] theorem State.modSocket_tables (n : Idx8) (f : Socket → Socket) : (s.modSocket n f).tables = s.tables := rfl
@[simp] theorem State.modSocket_scan (n : Idx8) (f : Socket → Socket) : (s.modSocket n f).scan = s.scan := rfl
@[simp] theorem State.modSocket_quarantine (n : Idx8) (f : Socket → Socket) : (s.modSocket n f).quarantine = s.quarantine := rfl
@[simp] theorem State.modSocket_copy (n : Idx8) (f : Socket → Socket) : (s.modSocket n f).copy = s.copy := rfl
@[simp] theorem State.modSocket_returns (n : Idx8) (f : Socket → Socket) : (s.modSocket n f).returns = s.returns := rfl
@[simp] theorem State.modSocket_bench (n : Idx8) (f : Socket → Socket) : (s.modSocket n f).bench = s.bench := rfl
@[simp] theorem State.modSocket_nv (n : Idx8) (f : Socket → Socket) : (s.modSocket n f).nv = s.nv := rfl

@[simp] theorem State.putSock_pending (n : Idx8) (st : SockState) : (s.putSock n st).pending = s.pending := rfl
@[simp] theorem State.putSock_time (n : Idx8) (st : SockState) : (s.putSock n st).time = s.time := rfl
@[simp] theorem State.putSock_start (n : Idx8) (st : SockState) : (s.putSock n st).start = s.start := rfl
@[simp] theorem State.putSock_cfg (n : Idx8) (st : SockState) : (s.putSock n st).cfg = s.cfg := rfl
@[simp] theorem State.putSock_line (n : Idx8) (st : SockState) : (s.putSock n st).line = s.line := rfl
@[simp] theorem State.putSock_book (n : Idx8) (st : SockState) : (s.putSock n st).book = s.book := rfl
@[simp] theorem State.putSock_tables (n : Idx8) (st : SockState) : (s.putSock n st).tables = s.tables := rfl
@[simp] theorem State.putSock_scan (n : Idx8) (st : SockState) : (s.putSock n st).scan = s.scan := rfl
@[simp] theorem State.putSock_quarantine (n : Idx8) (st : SockState) : (s.putSock n st).quarantine = s.quarantine := rfl
@[simp] theorem State.putSock_copy (n : Idx8) (st : SockState) : (s.putSock n st).copy = s.copy := rfl
@[simp] theorem State.putSock_returns (n : Idx8) (st : SockState) : (s.putSock n st).returns = s.returns := rfl
@[simp] theorem State.putSock_bench (n : Idx8) (st : SockState) : (s.putSock n st).bench = s.bench := rfl
@[simp] theorem State.putSock_nv (n : Idx8) (st : SockState) : (s.putSock n st).nv = s.nv := rfl

@[simp] theorem State.clearOp_pending (n : Idx8) : (s.clearOp n).pending = s.pending := rfl
@[simp] theorem State.clearOp_time (n : Idx8) : (s.clearOp n).time = s.time := rfl
@[simp] theorem State.clearOp_start (n : Idx8) : (s.clearOp n).start = s.start := rfl
@[simp] theorem State.clearOp_cfg (n : Idx8) : (s.clearOp n).cfg = s.cfg := rfl
@[simp] theorem State.clearOp_line (n : Idx8) : (s.clearOp n).line = s.line := rfl
@[simp] theorem State.clearOp_book (n : Idx8) : (s.clearOp n).book = s.book := rfl
@[simp] theorem State.clearOp_tables (n : Idx8) : (s.clearOp n).tables = s.tables := rfl
@[simp] theorem State.clearOp_scan (n : Idx8) : (s.clearOp n).scan = s.scan := rfl
@[simp] theorem State.clearOp_quarantine (n : Idx8) : (s.clearOp n).quarantine = s.quarantine := rfl
@[simp] theorem State.clearOp_copy (n : Idx8) : (s.clearOp n).copy = s.copy := rfl
@[simp] theorem State.clearOp_returns (n : Idx8) : (s.clearOp n).returns = s.returns := rfl
@[simp] theorem State.clearOp_bench (n : Idx8) : (s.clearOp n).bench = s.bench := rfl
@[simp] theorem State.clearOp_nv (n : Idx8) : (s.clearOp n).nv = s.nv := rfl

@[simp] theorem State.setBuffer_pending (b : Fin 4) (x : Buffer) : (s.setBuffer b x).pending = s.pending := rfl
@[simp] theorem State.setBuffer_time (b : Fin 4) (x : Buffer) : (s.setBuffer b x).time = s.time := rfl
@[simp] theorem State.setBuffer_start (b : Fin 4) (x : Buffer) : (s.setBuffer b x).start = s.start := rfl
@[simp] theorem State.setBuffer_cfg (b : Fin 4) (x : Buffer) : (s.setBuffer b x).cfg = s.cfg := rfl
@[simp] theorem State.setBuffer_line (b : Fin 4) (x : Buffer) : (s.setBuffer b x).line = s.line := rfl
@[simp] theorem State.setBuffer_book (b : Fin 4) (x : Buffer) : (s.setBuffer b x).book = s.book := rfl
@[simp] theorem State.setBuffer_tables (b : Fin 4) (x : Buffer) : (s.setBuffer b x).tables = s.tables := rfl
@[simp] theorem State.setBuffer_scan (b : Fin 4) (x : Buffer) : (s.setBuffer b x).scan = s.scan := rfl
@[simp] theorem State.setBuffer_sockets (b : Fin 4) (x : Buffer) : (s.setBuffer b x).sockets = s.sockets := rfl
@[simp] theorem State.setBuffer_quarantine (b : Fin 4) (x : Buffer) : (s.setBuffer b x).quarantine = s.quarantine := rfl
@[simp] theorem State.setBuffer_returns (b : Fin 4) (x : Buffer) : (s.setBuffer b x).returns = s.returns := rfl
@[simp] theorem State.setBuffer_bench (b : Fin 4) (x : Buffer) : (s.setBuffer b x).bench = s.bench := rfl
@[simp] theorem State.setBuffer_nv (b : Fin 4) (x : Buffer) : (s.setBuffer b x).nv = s.nv := rfl

@[simp] theorem State.modGang_pending (g : Nat) (f : Gang → Gang) : (s.modGang g f).pending = s.pending := rfl
@[simp] theorem State.modGang_time (g : Nat) (f : Gang → Gang) : (s.modGang g f).time = s.time := rfl
@[simp] theorem State.modGang_start (g : Nat) (f : Gang → Gang) : (s.modGang g f).start = s.start := rfl
@[simp] theorem State.modGang_cfg (g : Nat) (f : Gang → Gang) : (s.modGang g f).cfg = s.cfg := rfl
@[simp] theorem State.modGang_line (g : Nat) (f : Gang → Gang) : (s.modGang g f).line = s.line := rfl
@[simp] theorem State.modGang_book (g : Nat) (f : Gang → Gang) : (s.modGang g f).book = s.book := rfl
@[simp] theorem State.modGang_tables (g : Nat) (f : Gang → Gang) : (s.modGang g f).tables = s.tables := rfl
@[simp] theorem State.modGang_scan (g : Nat) (f : Gang → Gang) : (s.modGang g f).scan = s.scan := rfl
@[simp] theorem State.modGang_sockets (g : Nat) (f : Gang → Gang) : (s.modGang g f).sockets = s.sockets := rfl
@[simp] theorem State.modGang_quarantine (g : Nat) (f : Gang → Gang) : (s.modGang g f).quarantine = s.quarantine := rfl
@[simp] theorem State.modGang_returns (g : Nat) (f : Gang → Gang) : (s.modGang g f).returns = s.returns := rfl
@[simp] theorem State.modGang_bench (g : Nat) (f : Gang → Gang) : (s.modGang g f).bench = s.bench := rfl
@[simp] theorem State.modGang_nv (g : Nat) (f : Gang → Gang) : (s.modGang g f).nv = s.nv := rfl

@[simp] theorem State.requeueJob_pending (j : Job) : (s.requeueJob j).pending = s.pending := rfl
@[simp] theorem State.requeueJob_time (j : Job) : (s.requeueJob j).time = s.time := rfl
@[simp] theorem State.requeueJob_start (j : Job) : (s.requeueJob j).start = s.start := rfl
@[simp] theorem State.requeueJob_cfg (j : Job) : (s.requeueJob j).cfg = s.cfg := rfl
@[simp] theorem State.requeueJob_line (j : Job) : (s.requeueJob j).line = s.line := rfl
@[simp] theorem State.requeueJob_book (j : Job) : (s.requeueJob j).book = s.book := rfl
@[simp] theorem State.requeueJob_tables (j : Job) : (s.requeueJob j).tables = s.tables := rfl
@[simp] theorem State.requeueJob_scan (j : Job) : (s.requeueJob j).scan = s.scan := rfl
@[simp] theorem State.requeueJob_sockets (j : Job) : (s.requeueJob j).sockets = s.sockets := rfl
@[simp] theorem State.requeueJob_quarantine (j : Job) : (s.requeueJob j).quarantine = s.quarantine := rfl
@[simp] theorem State.requeueJob_returns (j : Job) : (s.requeueJob j).returns = s.returns := rfl
@[simp] theorem State.requeueJob_bench (j : Job) : (s.requeueJob j).bench = s.bench := rfl
@[simp] theorem State.requeueJob_nv (j : Job) : (s.requeueJob j).nv = s.nv := rfl

@[simp] theorem State.dropJob_pending (n : LoanNo) : (s.dropJob n).pending = s.pending := rfl
@[simp] theorem State.dropJob_time (n : LoanNo) : (s.dropJob n).time = s.time := rfl
@[simp] theorem State.dropJob_start (n : LoanNo) : (s.dropJob n).start = s.start := rfl
@[simp] theorem State.dropJob_cfg (n : LoanNo) : (s.dropJob n).cfg = s.cfg := rfl
@[simp] theorem State.dropJob_line (n : LoanNo) : (s.dropJob n).line = s.line := rfl
@[simp] theorem State.dropJob_book (n : LoanNo) : (s.dropJob n).book = s.book := rfl
@[simp] theorem State.dropJob_tables (n : LoanNo) : (s.dropJob n).tables = s.tables := rfl
@[simp] theorem State.dropJob_scan (n : LoanNo) : (s.dropJob n).scan = s.scan := rfl
@[simp] theorem State.dropJob_sockets (n : LoanNo) : (s.dropJob n).sockets = s.sockets := rfl
@[simp] theorem State.dropJob_quarantine (n : LoanNo) : (s.dropJob n).quarantine = s.quarantine := rfl
@[simp] theorem State.dropJob_returns (n : LoanNo) : (s.dropJob n).returns = s.returns := rfl
@[simp] theorem State.dropJob_bench (n : LoanNo) : (s.dropJob n).bench = s.bench := rfl
@[simp] theorem State.dropJob_nv (n : LoanNo) : (s.dropJob n).nv = s.nv := rfl

@[simp] theorem State.storeFree_pending : (s.storeFree).pending = s.pending := rfl
@[simp] theorem State.storeFree_time : (s.storeFree).time = s.time := rfl
@[simp] theorem State.storeFree_start : (s.storeFree).start = s.start := rfl
@[simp] theorem State.storeFree_cfg : (s.storeFree).cfg = s.cfg := rfl
@[simp] theorem State.storeFree_line : (s.storeFree).line = s.line := rfl
@[simp] theorem State.storeFree_book : (s.storeFree).book = s.book := rfl
@[simp] theorem State.storeFree_tables : (s.storeFree).tables = s.tables := rfl
@[simp] theorem State.storeFree_scan : (s.storeFree).scan = s.scan := rfl
@[simp] theorem State.storeFree_sockets : (s.storeFree).sockets = s.sockets := rfl
@[simp] theorem State.storeFree_quarantine : (s.storeFree).quarantine = s.quarantine := rfl
@[simp] theorem State.storeFree_returns : (s.storeFree).returns = s.returns := rfl
@[simp] theorem State.storeFree_bench : (s.storeFree).bench = s.bench := rfl
@[simp] theorem State.storeFree_nv : (s.storeFree).nv = s.nv := rfl

@[simp] theorem State.modLoan_pending (n : LoanNo) (f : Loan → Loan) : (s.modLoan n f).pending = s.pending := rfl
@[simp] theorem State.modLoan_time (n : LoanNo) (f : Loan → Loan) : (s.modLoan n f).time = s.time := rfl
@[simp] theorem State.modLoan_start (n : LoanNo) (f : Loan → Loan) : (s.modLoan n f).start = s.start := rfl
@[simp] theorem State.modLoan_cfg (n : LoanNo) (f : Loan → Loan) : (s.modLoan n f).cfg = s.cfg := rfl
@[simp] theorem State.modLoan_line (n : LoanNo) (f : Loan → Loan) : (s.modLoan n f).line = s.line := rfl
@[simp] theorem State.modLoan_book (n : LoanNo) (f : Loan → Loan) : (s.modLoan n f).book = s.book := rfl
@[simp] theorem State.modLoan_scan (n : LoanNo) (f : Loan → Loan) : (s.modLoan n f).scan = s.scan := rfl
@[simp] theorem State.modLoan_sockets (n : LoanNo) (f : Loan → Loan) : (s.modLoan n f).sockets = s.sockets := rfl
@[simp] theorem State.modLoan_quarantine (n : LoanNo) (f : Loan → Loan) : (s.modLoan n f).quarantine = s.quarantine := rfl
@[simp] theorem State.modLoan_copy (n : LoanNo) (f : Loan → Loan) : (s.modLoan n f).copy = s.copy := rfl
@[simp] theorem State.modLoan_returns (n : LoanNo) (f : Loan → Loan) : (s.modLoan n f).returns = s.returns := rfl
@[simp] theorem State.modLoan_bench (n : LoanNo) (f : Loan → Loan) : (s.modLoan n f).bench = s.bench := rfl
@[simp] theorem State.modLoan_nv (n : LoanNo) (f : Loan → Loan) : (s.modLoan n f).nv = s.nv := rfl

@[simp] theorem State.addLoan_pending (l : Loan) : (s.addLoan l).pending = s.pending := rfl
@[simp] theorem State.addLoan_time (l : Loan) : (s.addLoan l).time = s.time := rfl
@[simp] theorem State.addLoan_start (l : Loan) : (s.addLoan l).start = s.start := rfl
@[simp] theorem State.addLoan_cfg (l : Loan) : (s.addLoan l).cfg = s.cfg := rfl
@[simp] theorem State.addLoan_line (l : Loan) : (s.addLoan l).line = s.line := rfl
@[simp] theorem State.addLoan_book (l : Loan) : (s.addLoan l).book = s.book := rfl
@[simp] theorem State.addLoan_scan (l : Loan) : (s.addLoan l).scan = s.scan := rfl
@[simp] theorem State.addLoan_sockets (l : Loan) : (s.addLoan l).sockets = s.sockets := rfl
@[simp] theorem State.addLoan_quarantine (l : Loan) : (s.addLoan l).quarantine = s.quarantine := rfl
@[simp] theorem State.addLoan_copy (l : Loan) : (s.addLoan l).copy = s.copy := rfl
@[simp] theorem State.addLoan_returns (l : Loan) : (s.addLoan l).returns = s.returns := rfl
@[simp] theorem State.addLoan_bench (l : Loan) : (s.addLoan l).bench = s.bench := rfl
@[simp] theorem State.addLoan_nv (l : Loan) : (s.addLoan l).nv = s.nv := rfl

@[simp] theorem State.dropLoan_pending (n : LoanNo) : (s.dropLoan n).pending = s.pending := rfl
@[simp] theorem State.dropLoan_time (n : LoanNo) : (s.dropLoan n).time = s.time := rfl
@[simp] theorem State.dropLoan_start (n : LoanNo) : (s.dropLoan n).start = s.start := rfl
@[simp] theorem State.dropLoan_cfg (n : LoanNo) : (s.dropLoan n).cfg = s.cfg := rfl
@[simp] theorem State.dropLoan_line (n : LoanNo) : (s.dropLoan n).line = s.line := rfl
@[simp] theorem State.dropLoan_book (n : LoanNo) : (s.dropLoan n).book = s.book := rfl
@[simp] theorem State.dropLoan_scan (n : LoanNo) : (s.dropLoan n).scan = s.scan := rfl
@[simp] theorem State.dropLoan_sockets (n : LoanNo) : (s.dropLoan n).sockets = s.sockets := rfl
@[simp] theorem State.dropLoan_quarantine (n : LoanNo) : (s.dropLoan n).quarantine = s.quarantine := rfl
@[simp] theorem State.dropLoan_copy (n : LoanNo) : (s.dropLoan n).copy = s.copy := rfl
@[simp] theorem State.dropLoan_returns (n : LoanNo) : (s.dropLoan n).returns = s.returns := rfl
@[simp] theorem State.dropLoan_bench (n : LoanNo) : (s.dropLoan n).bench = s.bench := rfl
@[simp] theorem State.dropLoan_nv (n : LoanNo) : (s.dropLoan n).nv = s.nv := rfl

@[simp] theorem State.modDir_pending (w : Work) (f : DirEntry → DirEntry) : (s.modDir w f).pending = s.pending := rfl
@[simp] theorem State.modDir_time (w : Work) (f : DirEntry → DirEntry) : (s.modDir w f).time = s.time := rfl
@[simp] theorem State.modDir_start (w : Work) (f : DirEntry → DirEntry) : (s.modDir w f).start = s.start := rfl
@[simp] theorem State.modDir_cfg (w : Work) (f : DirEntry → DirEntry) : (s.modDir w f).cfg = s.cfg := rfl
@[simp] theorem State.modDir_line (w : Work) (f : DirEntry → DirEntry) : (s.modDir w f).line = s.line := rfl
@[simp] theorem State.modDir_book (w : Work) (f : DirEntry → DirEntry) : (s.modDir w f).book = s.book := rfl
@[simp] theorem State.modDir_scan (w : Work) (f : DirEntry → DirEntry) : (s.modDir w f).scan = s.scan := rfl
@[simp] theorem State.modDir_sockets (w : Work) (f : DirEntry → DirEntry) : (s.modDir w f).sockets = s.sockets := rfl
@[simp] theorem State.modDir_quarantine (w : Work) (f : DirEntry → DirEntry) : (s.modDir w f).quarantine = s.quarantine := rfl
@[simp] theorem State.modDir_copy (w : Work) (f : DirEntry → DirEntry) : (s.modDir w f).copy = s.copy := rfl
@[simp] theorem State.modDir_returns (w : Work) (f : DirEntry → DirEntry) : (s.modDir w f).returns = s.returns := rfl
@[simp] theorem State.modDir_bench (w : Work) (f : DirEntry → DirEntry) : (s.modDir w f).bench = s.bench := rfl
@[simp] theorem State.modDir_nv (w : Work) (f : DirEntry → DirEntry) : (s.modDir w f).nv = s.nv := rfl

@[simp] theorem State.dropDir_pending (w : Work) : (s.dropDir w).pending = s.pending := rfl
@[simp] theorem State.dropDir_time (w : Work) : (s.dropDir w).time = s.time := rfl
@[simp] theorem State.dropDir_start (w : Work) : (s.dropDir w).start = s.start := rfl
@[simp] theorem State.dropDir_cfg (w : Work) : (s.dropDir w).cfg = s.cfg := rfl
@[simp] theorem State.dropDir_line (w : Work) : (s.dropDir w).line = s.line := rfl
@[simp] theorem State.dropDir_book (w : Work) : (s.dropDir w).book = s.book := rfl
@[simp] theorem State.dropDir_scan (w : Work) : (s.dropDir w).scan = s.scan := rfl
@[simp] theorem State.dropDir_sockets (w : Work) : (s.dropDir w).sockets = s.sockets := rfl
@[simp] theorem State.dropDir_quarantine (w : Work) : (s.dropDir w).quarantine = s.quarantine := rfl
@[simp] theorem State.dropDir_copy (w : Work) : (s.dropDir w).copy = s.copy := rfl
@[simp] theorem State.dropDir_returns (w : Work) : (s.dropDir w).returns = s.returns := rfl
@[simp] theorem State.dropDir_bench (w : Work) : (s.dropDir w).bench = s.bench := rfl
@[simp] theorem State.dropDir_nv (w : Work) : (s.dropDir w).nv = s.nv := rfl

@[simp] theorem State.modStock_pending (x : Serial) (f : StockRec → StockRec) : (s.modStock x f).pending = s.pending := rfl
@[simp] theorem State.modStock_time (x : Serial) (f : StockRec → StockRec) : (s.modStock x f).time = s.time := rfl
@[simp] theorem State.modStock_start (x : Serial) (f : StockRec → StockRec) : (s.modStock x f).start = s.start := rfl
@[simp] theorem State.modStock_cfg (x : Serial) (f : StockRec → StockRec) : (s.modStock x f).cfg = s.cfg := rfl
@[simp] theorem State.modStock_line (x : Serial) (f : StockRec → StockRec) : (s.modStock x f).line = s.line := rfl
@[simp] theorem State.modStock_book (x : Serial) (f : StockRec → StockRec) : (s.modStock x f).book = s.book := rfl
@[simp] theorem State.modStock_scan (x : Serial) (f : StockRec → StockRec) : (s.modStock x f).scan = s.scan := rfl
@[simp] theorem State.modStock_sockets (x : Serial) (f : StockRec → StockRec) : (s.modStock x f).sockets = s.sockets := rfl
@[simp] theorem State.modStock_quarantine (x : Serial) (f : StockRec → StockRec) : (s.modStock x f).quarantine = s.quarantine := rfl
@[simp] theorem State.modStock_copy (x : Serial) (f : StockRec → StockRec) : (s.modStock x f).copy = s.copy := rfl
@[simp] theorem State.modStock_returns (x : Serial) (f : StockRec → StockRec) : (s.modStock x f).returns = s.returns := rfl
@[simp] theorem State.modStock_bench (x : Serial) (f : StockRec → StockRec) : (s.modStock x f).bench = s.bench := rfl
@[simp] theorem State.modStock_nv (x : Serial) (f : StockRec → StockRec) : (s.modStock x f).nv = s.nv := rfl

@[simp] theorem State.dropStock_pending (x : Serial) : (s.dropStock x).pending = s.pending := rfl
@[simp] theorem State.dropStock_time (x : Serial) : (s.dropStock x).time = s.time := rfl
@[simp] theorem State.dropStock_start (x : Serial) : (s.dropStock x).start = s.start := rfl
@[simp] theorem State.dropStock_cfg (x : Serial) : (s.dropStock x).cfg = s.cfg := rfl
@[simp] theorem State.dropStock_line (x : Serial) : (s.dropStock x).line = s.line := rfl
@[simp] theorem State.dropStock_book (x : Serial) : (s.dropStock x).book = s.book := rfl
@[simp] theorem State.dropStock_scan (x : Serial) : (s.dropStock x).scan = s.scan := rfl
@[simp] theorem State.dropStock_sockets (x : Serial) : (s.dropStock x).sockets = s.sockets := rfl
@[simp] theorem State.dropStock_quarantine (x : Serial) : (s.dropStock x).quarantine = s.quarantine := rfl
@[simp] theorem State.dropStock_copy (x : Serial) : (s.dropStock x).copy = s.copy := rfl
@[simp] theorem State.dropStock_returns (x : Serial) : (s.dropStock x).returns = s.returns := rfl
@[simp] theorem State.dropStock_bench (x : Serial) : (s.dropStock x).bench = s.bench := rfl
@[simp] theorem State.dropStock_nv (x : Serial) : (s.dropStock x).nv = s.nv := rfl

@[simp] theorem State.modSet_pending (w : Work) (f : SetRec → SetRec) : (s.modSet w f).pending = s.pending := rfl
@[simp] theorem State.modSet_time (w : Work) (f : SetRec → SetRec) : (s.modSet w f).time = s.time := rfl
@[simp] theorem State.modSet_start (w : Work) (f : SetRec → SetRec) : (s.modSet w f).start = s.start := rfl
@[simp] theorem State.modSet_cfg (w : Work) (f : SetRec → SetRec) : (s.modSet w f).cfg = s.cfg := rfl
@[simp] theorem State.modSet_line (w : Work) (f : SetRec → SetRec) : (s.modSet w f).line = s.line := rfl
@[simp] theorem State.modSet_book (w : Work) (f : SetRec → SetRec) : (s.modSet w f).book = s.book := rfl
@[simp] theorem State.modSet_scan (w : Work) (f : SetRec → SetRec) : (s.modSet w f).scan = s.scan := rfl
@[simp] theorem State.modSet_sockets (w : Work) (f : SetRec → SetRec) : (s.modSet w f).sockets = s.sockets := rfl
@[simp] theorem State.modSet_quarantine (w : Work) (f : SetRec → SetRec) : (s.modSet w f).quarantine = s.quarantine := rfl
@[simp] theorem State.modSet_copy (w : Work) (f : SetRec → SetRec) : (s.modSet w f).copy = s.copy := rfl
@[simp] theorem State.modSet_returns (w : Work) (f : SetRec → SetRec) : (s.modSet w f).returns = s.returns := rfl
@[simp] theorem State.modSet_bench (w : Work) (f : SetRec → SetRec) : (s.modSet w f).bench = s.bench := rfl
@[simp] theorem State.modSet_nv (w : Work) (f : SetRec → SetRec) : (s.modSet w f).nv = s.nv := rfl

@[simp] theorem State.loseSet_pending (w : Work) : (s.loseSet w).pending = s.pending := rfl
@[simp] theorem State.loseSet_time (w : Work) : (s.loseSet w).time = s.time := rfl
@[simp] theorem State.loseSet_start (w : Work) : (s.loseSet w).start = s.start := rfl
@[simp] theorem State.loseSet_cfg (w : Work) : (s.loseSet w).cfg = s.cfg := rfl
@[simp] theorem State.loseSet_line (w : Work) : (s.loseSet w).line = s.line := rfl
@[simp] theorem State.loseSet_book (w : Work) : (s.loseSet w).book = s.book := rfl
@[simp] theorem State.loseSet_scan (w : Work) : (s.loseSet w).scan = s.scan := rfl
@[simp] theorem State.loseSet_sockets (w : Work) : (s.loseSet w).sockets = s.sockets := rfl
@[simp] theorem State.loseSet_quarantine (w : Work) : (s.loseSet w).quarantine = s.quarantine := rfl
@[simp] theorem State.loseSet_copy (w : Work) : (s.loseSet w).copy = s.copy := rfl
@[simp] theorem State.loseSet_returns (w : Work) : (s.loseSet w).returns = s.returns := rfl
@[simp] theorem State.loseSet_bench (w : Work) : (s.loseSet w).bench = s.bench := rfl
@[simp] theorem State.loseSet_nv (w : Work) : (s.loseSet w).nv = s.nv := rfl

@[simp] theorem State.setTray_pending (r : Fin 16) (t : Option Tray) : (s.setTray r t).pending = s.pending := rfl
@[simp] theorem State.setTray_time (r : Fin 16) (t : Option Tray) : (s.setTray r t).time = s.time := rfl
@[simp] theorem State.setTray_start (r : Fin 16) (t : Option Tray) : (s.setTray r t).start = s.start := rfl
@[simp] theorem State.setTray_cfg (r : Fin 16) (t : Option Tray) : (s.setTray r t).cfg = s.cfg := rfl
@[simp] theorem State.setTray_line (r : Fin 16) (t : Option Tray) : (s.setTray r t).line = s.line := rfl
@[simp] theorem State.setTray_book (r : Fin 16) (t : Option Tray) : (s.setTray r t).book = s.book := rfl
@[simp] theorem State.setTray_scan (r : Fin 16) (t : Option Tray) : (s.setTray r t).scan = s.scan := rfl
@[simp] theorem State.setTray_sockets (r : Fin 16) (t : Option Tray) : (s.setTray r t).sockets = s.sockets := rfl
@[simp] theorem State.setTray_quarantine (r : Fin 16) (t : Option Tray) : (s.setTray r t).quarantine = s.quarantine := rfl
@[simp] theorem State.setTray_copy (r : Fin 16) (t : Option Tray) : (s.setTray r t).copy = s.copy := rfl
@[simp] theorem State.setTray_returns (r : Fin 16) (t : Option Tray) : (s.setTray r t).returns = s.returns := rfl
@[simp] theorem State.setTray_bench (r : Fin 16) (t : Option Tray) : (s.setTray r t).bench = s.bench := rfl
@[simp] theorem State.setTray_nv (r : Fin 16) (t : Option Tray) : (s.setTray r t).nv = s.nv := rfl

@[simp] theorem State.readinessTest_pending (n : LoanNo) : (s.readinessTest n).pending = s.pending := rfl
@[simp] theorem State.readinessTest_time (n : LoanNo) : (s.readinessTest n).time = s.time := rfl
@[simp] theorem State.readinessTest_start (n : LoanNo) : (s.readinessTest n).start = s.start := rfl
@[simp] theorem State.readinessTest_cfg (n : LoanNo) : (s.readinessTest n).cfg = s.cfg := rfl
@[simp] theorem State.readinessTest_line (n : LoanNo) : (s.readinessTest n).line = s.line := rfl
@[simp] theorem State.readinessTest_book (n : LoanNo) : (s.readinessTest n).book = s.book := rfl
@[simp] theorem State.readinessTest_scan (n : LoanNo) : (s.readinessTest n).scan = s.scan := rfl
@[simp] theorem State.readinessTest_sockets (n : LoanNo) : (s.readinessTest n).sockets = s.sockets := rfl
@[simp] theorem State.readinessTest_quarantine (n : LoanNo) : (s.readinessTest n).quarantine = s.quarantine := rfl
@[simp] theorem State.readinessTest_copy (n : LoanNo) : (s.readinessTest n).copy = s.copy := rfl
@[simp] theorem State.readinessTest_returns (n : LoanNo) : (s.readinessTest n).returns = s.returns := rfl
@[simp] theorem State.readinessTest_bench (n : LoanNo) : (s.readinessTest n).bench = s.bench := rfl
@[simp] theorem State.readinessTest_nv (n : LoanNo) : (s.readinessTest n).nv = s.nv := rfl

@[simp] theorem State.cartReport_pending (n : LoanNo) (p : CartPath) (a b : CartStatus) : (s.cartReport n p a b).pending = s.pending := rfl
@[simp] theorem State.cartReport_time (n : LoanNo) (p : CartPath) (a b : CartStatus) : (s.cartReport n p a b).time = s.time := rfl
@[simp] theorem State.cartReport_start (n : LoanNo) (p : CartPath) (a b : CartStatus) : (s.cartReport n p a b).start = s.start := rfl
@[simp] theorem State.cartReport_cfg (n : LoanNo) (p : CartPath) (a b : CartStatus) : (s.cartReport n p a b).cfg = s.cfg := rfl
@[simp] theorem State.cartReport_line (n : LoanNo) (p : CartPath) (a b : CartStatus) : (s.cartReport n p a b).line = s.line := rfl
@[simp] theorem State.cartReport_book (n : LoanNo) (p : CartPath) (a b : CartStatus) : (s.cartReport n p a b).book = s.book := rfl
@[simp] theorem State.cartReport_scan (n : LoanNo) (p : CartPath) (a b : CartStatus) : (s.cartReport n p a b).scan = s.scan := rfl
@[simp] theorem State.cartReport_sockets (n : LoanNo) (p : CartPath) (a b : CartStatus) : (s.cartReport n p a b).sockets = s.sockets := rfl
@[simp] theorem State.cartReport_quarantine (n : LoanNo) (p : CartPath) (a b : CartStatus) : (s.cartReport n p a b).quarantine = s.quarantine := rfl
@[simp] theorem State.cartReport_copy (n : LoanNo) (p : CartPath) (a b : CartStatus) : (s.cartReport n p a b).copy = s.copy := rfl
@[simp] theorem State.cartReport_returns (n : LoanNo) (p : CartPath) (a b : CartStatus) : (s.cartReport n p a b).returns = s.returns := rfl
@[simp] theorem State.cartReport_bench (n : LoanNo) (p : CartPath) (a b : CartStatus) : (s.cartReport n p a b).bench = s.bench := rfl
@[simp] theorem State.cartReport_nv (n : LoanNo) (p : CartPath) (a b : CartStatus) : (s.cartReport n p a b).nv = s.nv := rfl

@[simp] theorem State.modEntry_pending (o : OrderNo) (f : Entry → Entry) : (s.modEntry o f).pending = s.pending := rfl
@[simp] theorem State.modEntry_time (o : OrderNo) (f : Entry → Entry) : (s.modEntry o f).time = s.time := rfl
@[simp] theorem State.modEntry_start (o : OrderNo) (f : Entry → Entry) : (s.modEntry o f).start = s.start := rfl
@[simp] theorem State.modEntry_cfg (o : OrderNo) (f : Entry → Entry) : (s.modEntry o f).cfg = s.cfg := rfl
@[simp] theorem State.modEntry_line (o : OrderNo) (f : Entry → Entry) : (s.modEntry o f).line = s.line := rfl
@[simp] theorem State.modEntry_tables (o : OrderNo) (f : Entry → Entry) : (s.modEntry o f).tables = s.tables := rfl
@[simp] theorem State.modEntry_scan (o : OrderNo) (f : Entry → Entry) : (s.modEntry o f).scan = s.scan := rfl
@[simp] theorem State.modEntry_sockets (o : OrderNo) (f : Entry → Entry) : (s.modEntry o f).sockets = s.sockets := rfl
@[simp] theorem State.modEntry_quarantine (o : OrderNo) (f : Entry → Entry) : (s.modEntry o f).quarantine = s.quarantine := rfl
@[simp] theorem State.modEntry_copy (o : OrderNo) (f : Entry → Entry) : (s.modEntry o f).copy = s.copy := rfl
@[simp] theorem State.modEntry_returns (o : OrderNo) (f : Entry → Entry) : (s.modEntry o f).returns = s.returns := rfl
@[simp] theorem State.modEntry_bench (o : OrderNo) (f : Entry → Entry) : (s.modEntry o f).bench = s.bench := rfl
@[simp] theorem State.modEntry_nv (o : OrderNo) (f : Entry → Entry) : (s.modEntry o f).nv = s.nv := rfl

@[simp] theorem State.setEntryState_pending (o : OrderNo) (st : EntryState) : (s.setEntryState o st).pending = s.pending := rfl
@[simp] theorem State.setEntryState_time (o : OrderNo) (st : EntryState) : (s.setEntryState o st).time = s.time := rfl
@[simp] theorem State.setEntryState_start (o : OrderNo) (st : EntryState) : (s.setEntryState o st).start = s.start := rfl
@[simp] theorem State.setEntryState_cfg (o : OrderNo) (st : EntryState) : (s.setEntryState o st).cfg = s.cfg := rfl
@[simp] theorem State.setEntryState_line (o : OrderNo) (st : EntryState) : (s.setEntryState o st).line = s.line := rfl
@[simp] theorem State.setEntryState_tables (o : OrderNo) (st : EntryState) : (s.setEntryState o st).tables = s.tables := rfl
@[simp] theorem State.setEntryState_scan (o : OrderNo) (st : EntryState) : (s.setEntryState o st).scan = s.scan := rfl
@[simp] theorem State.setEntryState_sockets (o : OrderNo) (st : EntryState) : (s.setEntryState o st).sockets = s.sockets := rfl
@[simp] theorem State.setEntryState_quarantine (o : OrderNo) (st : EntryState) : (s.setEntryState o st).quarantine = s.quarantine := rfl
@[simp] theorem State.setEntryState_copy (o : OrderNo) (st : EntryState) : (s.setEntryState o st).copy = s.copy := rfl
@[simp] theorem State.setEntryState_returns (o : OrderNo) (st : EntryState) : (s.setEntryState o st).returns = s.returns := rfl
@[simp] theorem State.setEntryState_bench (o : OrderNo) (st : EntryState) : (s.setEntryState o st).bench = s.bench := rfl
@[simp] theorem State.setEntryState_nv (o : OrderNo) (st : EntryState) : (s.setEntryState o st).nv = s.nv := rfl

@[simp] theorem State.dropEntry_pending (o : OrderNo) : (s.dropEntry o).pending = s.pending := rfl
@[simp] theorem State.dropEntry_time (o : OrderNo) : (s.dropEntry o).time = s.time := rfl
@[simp] theorem State.dropEntry_start (o : OrderNo) : (s.dropEntry o).start = s.start := rfl
@[simp] theorem State.dropEntry_cfg (o : OrderNo) : (s.dropEntry o).cfg = s.cfg := rfl
@[simp] theorem State.dropEntry_line (o : OrderNo) : (s.dropEntry o).line = s.line := rfl
@[simp] theorem State.dropEntry_tables (o : OrderNo) : (s.dropEntry o).tables = s.tables := rfl
@[simp] theorem State.dropEntry_scan (o : OrderNo) : (s.dropEntry o).scan = s.scan := rfl
@[simp] theorem State.dropEntry_sockets (o : OrderNo) : (s.dropEntry o).sockets = s.sockets := rfl
@[simp] theorem State.dropEntry_quarantine (o : OrderNo) : (s.dropEntry o).quarantine = s.quarantine := rfl
@[simp] theorem State.dropEntry_copy (o : OrderNo) : (s.dropEntry o).copy = s.copy := rfl
@[simp] theorem State.dropEntry_returns (o : OrderNo) : (s.dropEntry o).returns = s.returns := rfl
@[simp] theorem State.dropEntry_bench (o : OrderNo) : (s.dropEntry o).bench = s.bench := rfl
@[simp] theorem State.dropEntry_nv (o : OrderNo) : (s.dropEntry o).nv = s.nv := rfl

@[simp] theorem State.addEntry_pending (e : Entry) : (s.addEntry e).pending = s.pending := rfl
@[simp] theorem State.addEntry_time (e : Entry) : (s.addEntry e).time = s.time := rfl
@[simp] theorem State.addEntry_start (e : Entry) : (s.addEntry e).start = s.start := rfl
@[simp] theorem State.addEntry_cfg (e : Entry) : (s.addEntry e).cfg = s.cfg := rfl
@[simp] theorem State.addEntry_line (e : Entry) : (s.addEntry e).line = s.line := rfl
@[simp] theorem State.addEntry_tables (e : Entry) : (s.addEntry e).tables = s.tables := rfl
@[simp] theorem State.addEntry_scan (e : Entry) : (s.addEntry e).scan = s.scan := rfl
@[simp] theorem State.addEntry_sockets (e : Entry) : (s.addEntry e).sockets = s.sockets := rfl
@[simp] theorem State.addEntry_quarantine (e : Entry) : (s.addEntry e).quarantine = s.quarantine := rfl
@[simp] theorem State.addEntry_copy (e : Entry) : (s.addEntry e).copy = s.copy := rfl
@[simp] theorem State.addEntry_returns (e : Entry) : (s.addEntry e).returns = s.returns := rfl
@[simp] theorem State.addEntry_bench (e : Entry) : (s.addEntry e).bench = s.bench := rfl
@[simp] theorem State.addEntry_nv (e : Entry) : (s.addEntry e).nv = s.nv := rfl

@[simp] theorem State.stockGain_pending (w : Work) (p : Format → Bool) : (s.stockGain w p).pending = s.pending := rfl
@[simp] theorem State.stockGain_time (w : Work) (p : Format → Bool) : (s.stockGain w p).time = s.time := rfl
@[simp] theorem State.stockGain_start (w : Work) (p : Format → Bool) : (s.stockGain w p).start = s.start := rfl
@[simp] theorem State.stockGain_cfg (w : Work) (p : Format → Bool) : (s.stockGain w p).cfg = s.cfg := rfl
@[simp] theorem State.stockGain_line (w : Work) (p : Format → Bool) : (s.stockGain w p).line = s.line := rfl
@[simp] theorem State.stockGain_tables (w : Work) (p : Format → Bool) : (s.stockGain w p).tables = s.tables := rfl
@[simp] theorem State.stockGain_scan (w : Work) (p : Format → Bool) : (s.stockGain w p).scan = s.scan := rfl
@[simp] theorem State.stockGain_sockets (w : Work) (p : Format → Bool) : (s.stockGain w p).sockets = s.sockets := rfl
@[simp] theorem State.stockGain_quarantine (w : Work) (p : Format → Bool) : (s.stockGain w p).quarantine = s.quarantine := rfl
@[simp] theorem State.stockGain_copy (w : Work) (p : Format → Bool) : (s.stockGain w p).copy = s.copy := rfl
@[simp] theorem State.stockGain_returns (w : Work) (p : Format → Bool) : (s.stockGain w p).returns = s.returns := rfl
@[simp] theorem State.stockGain_bench (w : Work) (p : Format → Bool) : (s.stockGain w p).bench = s.bench := rfl
@[simp] theorem State.stockGain_nv (w : Work) (p : Format → Bool) : (s.stockGain w p).nv = s.nv := rfl

@[simp] theorem State.cartridgeGain_pending (w : Work) : (s.cartridgeGain w).pending = s.pending := rfl
@[simp] theorem State.cartridgeGain_time (w : Work) : (s.cartridgeGain w).time = s.time := rfl
@[simp] theorem State.cartridgeGain_start (w : Work) : (s.cartridgeGain w).start = s.start := rfl
@[simp] theorem State.cartridgeGain_cfg (w : Work) : (s.cartridgeGain w).cfg = s.cfg := rfl
@[simp] theorem State.cartridgeGain_line (w : Work) : (s.cartridgeGain w).line = s.line := rfl
@[simp] theorem State.cartridgeGain_tables (w : Work) : (s.cartridgeGain w).tables = s.tables := rfl
@[simp] theorem State.cartridgeGain_scan (w : Work) : (s.cartridgeGain w).scan = s.scan := rfl
@[simp] theorem State.cartridgeGain_sockets (w : Work) : (s.cartridgeGain w).sockets = s.sockets := rfl
@[simp] theorem State.cartridgeGain_quarantine (w : Work) : (s.cartridgeGain w).quarantine = s.quarantine := rfl
@[simp] theorem State.cartridgeGain_copy (w : Work) : (s.cartridgeGain w).copy = s.copy := rfl
@[simp] theorem State.cartridgeGain_returns (w : Work) : (s.cartridgeGain w).returns = s.returns := rfl
@[simp] theorem State.cartridgeGain_bench (w : Work) : (s.cartridgeGain w).bench = s.bench := rfl
@[simp] theorem State.cartridgeGain_nv (w : Work) : (s.cartridgeGain w).nv = s.nv := rfl

@[simp] theorem State.brailleGain_pending (w : Work) : (s.brailleGain w).pending = s.pending := rfl
@[simp] theorem State.brailleGain_time (w : Work) : (s.brailleGain w).time = s.time := rfl
@[simp] theorem State.brailleGain_start (w : Work) : (s.brailleGain w).start = s.start := rfl
@[simp] theorem State.brailleGain_cfg (w : Work) : (s.brailleGain w).cfg = s.cfg := rfl
@[simp] theorem State.brailleGain_line (w : Work) : (s.brailleGain w).line = s.line := rfl
@[simp] theorem State.brailleGain_tables (w : Work) : (s.brailleGain w).tables = s.tables := rfl
@[simp] theorem State.brailleGain_scan (w : Work) : (s.brailleGain w).scan = s.scan := rfl
@[simp] theorem State.brailleGain_sockets (w : Work) : (s.brailleGain w).sockets = s.sockets := rfl
@[simp] theorem State.brailleGain_quarantine (w : Work) : (s.brailleGain w).quarantine = s.quarantine := rfl
@[simp] theorem State.brailleGain_copy (w : Work) : (s.brailleGain w).copy = s.copy := rfl
@[simp] theorem State.brailleGain_returns (w : Work) : (s.brailleGain w).returns = s.returns := rfl
@[simp] theorem State.brailleGain_bench (w : Work) : (s.brailleGain w).bench = s.bench := rfl
@[simp] theorem State.brailleGain_nv (w : Work) : (s.brailleGain w).nv = s.nv := rfl

@[simp] theorem State.age_pending (d : Day) : (s.age d).pending = s.pending := rfl
@[simp] theorem State.age_time (d : Day) : (s.age d).time = s.time := rfl
@[simp] theorem State.age_start (d : Day) : (s.age d).start = s.start := rfl
@[simp] theorem State.age_cfg (d : Day) : (s.age d).cfg = s.cfg := rfl
@[simp] theorem State.age_line (d : Day) : (s.age d).line = s.line := rfl
@[simp] theorem State.age_tables (d : Day) : (s.age d).tables = s.tables := rfl
@[simp] theorem State.age_scan (d : Day) : (s.age d).scan = s.scan := rfl
@[simp] theorem State.age_sockets (d : Day) : (s.age d).sockets = s.sockets := rfl
@[simp] theorem State.age_quarantine (d : Day) : (s.age d).quarantine = s.quarantine := rfl
@[simp] theorem State.age_copy (d : Day) : (s.age d).copy = s.copy := rfl
@[simp] theorem State.age_returns (d : Day) : (s.age d).returns = s.returns := rfl
@[simp] theorem State.age_bench (d : Day) : (s.age d).bench = s.bench := rfl
@[simp] theorem State.age_nv (d : Day) : (s.age d).nv = s.nv := rfl

@[simp] theorem State.setCount_pending (o : OrderNo) (c : BitVec 2) : (s.setCount o c).pending = s.pending := rfl
@[simp] theorem State.setCount_time (o : OrderNo) (c : BitVec 2) : (s.setCount o c).time = s.time := rfl
@[simp] theorem State.setCount_start (o : OrderNo) (c : BitVec 2) : (s.setCount o c).start = s.start := rfl
@[simp] theorem State.setCount_cfg (o : OrderNo) (c : BitVec 2) : (s.setCount o c).cfg = s.cfg := rfl
@[simp] theorem State.setCount_line (o : OrderNo) (c : BitVec 2) : (s.setCount o c).line = s.line := rfl
@[simp] theorem State.setCount_tables (o : OrderNo) (c : BitVec 2) : (s.setCount o c).tables = s.tables := rfl
@[simp] theorem State.setCount_scan (o : OrderNo) (c : BitVec 2) : (s.setCount o c).scan = s.scan := rfl
@[simp] theorem State.setCount_sockets (o : OrderNo) (c : BitVec 2) : (s.setCount o c).sockets = s.sockets := rfl
@[simp] theorem State.setCount_quarantine (o : OrderNo) (c : BitVec 2) : (s.setCount o c).quarantine = s.quarantine := rfl
@[simp] theorem State.setCount_copy (o : OrderNo) (c : BitVec 2) : (s.setCount o c).copy = s.copy := rfl
@[simp] theorem State.setCount_returns (o : OrderNo) (c : BitVec 2) : (s.setCount o c).returns = s.returns := rfl
@[simp] theorem State.setCount_bench (o : OrderNo) (c : BitVec 2) : (s.setCount o c).bench = s.bench := rfl
@[simp] theorem State.setCount_nv (o : OrderNo) (c : BitVec 2) : (s.setCount o c).nv = s.nv := rfl

@[simp] theorem State.pushTx_pending (f : Frame) : (s.pushTx f).pending = s.pending := rfl
@[simp] theorem State.pushTx_time (f : Frame) : (s.pushTx f).time = s.time := rfl
@[simp] theorem State.pushTx_start (f : Frame) : (s.pushTx f).start = s.start := rfl
@[simp] theorem State.pushTx_cfg (f : Frame) : (s.pushTx f).cfg = s.cfg := rfl
@[simp] theorem State.pushTx_book (f : Frame) : (s.pushTx f).book = s.book := rfl
@[simp] theorem State.pushTx_tables (f : Frame) : (s.pushTx f).tables = s.tables := rfl
@[simp] theorem State.pushTx_scan (f : Frame) : (s.pushTx f).scan = s.scan := rfl
@[simp] theorem State.pushTx_sockets (f : Frame) : (s.pushTx f).sockets = s.sockets := rfl
@[simp] theorem State.pushTx_quarantine (f : Frame) : (s.pushTx f).quarantine = s.quarantine := rfl
@[simp] theorem State.pushTx_copy (f : Frame) : (s.pushTx f).copy = s.copy := rfl
@[simp] theorem State.pushTx_returns (f : Frame) : (s.pushTx f).returns = s.returns := rfl
@[simp] theorem State.pushTx_bench (f : Frame) : (s.pushTx f).bench = s.bench := rfl
@[simp] theorem State.pushTx_nv (f : Frame) : (s.pushTx f).nv = s.nv := rfl

@[simp] theorem State.dropTx_pending (x : TxEntry) : (s.dropTx x).pending = s.pending := rfl
@[simp] theorem State.dropTx_time (x : TxEntry) : (s.dropTx x).time = s.time := rfl
@[simp] theorem State.dropTx_start (x : TxEntry) : (s.dropTx x).start = s.start := rfl
@[simp] theorem State.dropTx_cfg (x : TxEntry) : (s.dropTx x).cfg = s.cfg := rfl
@[simp] theorem State.dropTx_book (x : TxEntry) : (s.dropTx x).book = s.book := rfl
@[simp] theorem State.dropTx_tables (x : TxEntry) : (s.dropTx x).tables = s.tables := rfl
@[simp] theorem State.dropTx_scan (x : TxEntry) : (s.dropTx x).scan = s.scan := rfl
@[simp] theorem State.dropTx_sockets (x : TxEntry) : (s.dropTx x).sockets = s.sockets := rfl
@[simp] theorem State.dropTx_quarantine (x : TxEntry) : (s.dropTx x).quarantine = s.quarantine := rfl
@[simp] theorem State.dropTx_copy (x : TxEntry) : (s.dropTx x).copy = s.copy := rfl
@[simp] theorem State.dropTx_returns (x : TxEntry) : (s.dropTx x).returns = s.returns := rfl
@[simp] theorem State.dropTx_bench (x : TxEntry) : (s.dropTx x).bench = s.bench := rfl
@[simp] theorem State.dropTx_nv (x : TxEntry) : (s.dropTx x).nv = s.nv := rfl

@[simp] theorem State.popRx_pending : (s.popRx).pending = s.pending := rfl
@[simp] theorem State.popRx_time : (s.popRx).time = s.time := rfl
@[simp] theorem State.popRx_start : (s.popRx).start = s.start := rfl
@[simp] theorem State.popRx_cfg : (s.popRx).cfg = s.cfg := rfl
@[simp] theorem State.popRx_book : (s.popRx).book = s.book := rfl
@[simp] theorem State.popRx_tables : (s.popRx).tables = s.tables := rfl
@[simp] theorem State.popRx_scan : (s.popRx).scan = s.scan := rfl
@[simp] theorem State.popRx_sockets : (s.popRx).sockets = s.sockets := rfl
@[simp] theorem State.popRx_quarantine : (s.popRx).quarantine = s.quarantine := rfl
@[simp] theorem State.popRx_copy : (s.popRx).copy = s.copy := rfl
@[simp] theorem State.popRx_returns : (s.popRx).returns = s.returns := rfl
@[simp] theorem State.popRx_bench : (s.popRx).bench = s.bench := rfl
@[simp] theorem State.popRx_nv : (s.popRx).nv = s.nv := rfl

@[simp] theorem State.leavePacing_pending (o : PacedOwner) : (s.leavePacing o).pending = s.pending := rfl
@[simp] theorem State.leavePacing_time (o : PacedOwner) : (s.leavePacing o).time = s.time := rfl
@[simp] theorem State.leavePacing_start (o : PacedOwner) : (s.leavePacing o).start = s.start := rfl
@[simp] theorem State.leavePacing_cfg (o : PacedOwner) : (s.leavePacing o).cfg = s.cfg := rfl
@[simp] theorem State.leavePacing_book (o : PacedOwner) : (s.leavePacing o).book = s.book := rfl
@[simp] theorem State.leavePacing_tables (o : PacedOwner) : (s.leavePacing o).tables = s.tables := rfl
@[simp] theorem State.leavePacing_scan (o : PacedOwner) : (s.leavePacing o).scan = s.scan := rfl
@[simp] theorem State.leavePacing_sockets (o : PacedOwner) : (s.leavePacing o).sockets = s.sockets := rfl
@[simp] theorem State.leavePacing_quarantine (o : PacedOwner) : (s.leavePacing o).quarantine = s.quarantine := rfl
@[simp] theorem State.leavePacing_copy (o : PacedOwner) : (s.leavePacing o).copy = s.copy := rfl
@[simp] theorem State.leavePacing_returns (o : PacedOwner) : (s.leavePacing o).returns = s.returns := rfl
@[simp] theorem State.leavePacing_bench (o : PacedOwner) : (s.leavePacing o).bench = s.bench := rfl
@[simp] theorem State.leavePacing_nv (o : PacedOwner) : (s.leavePacing o).nv = s.nv := rfl

@[simp] theorem State.lockSocket_pending (n : Idx8) : (s.lockSocket n).pending = s.pending := rfl
@[simp] theorem State.lockSocket_time (n : Idx8) : (s.lockSocket n).time = s.time := rfl
@[simp] theorem State.lockSocket_start (n : Idx8) : (s.lockSocket n).start = s.start := rfl
@[simp] theorem State.lockSocket_cfg (n : Idx8) : (s.lockSocket n).cfg = s.cfg := rfl
@[simp] theorem State.lockSocket_line (n : Idx8) : (s.lockSocket n).line = s.line := rfl
@[simp] theorem State.lockSocket_book (n : Idx8) : (s.lockSocket n).book = s.book := rfl
@[simp] theorem State.lockSocket_tables (n : Idx8) : (s.lockSocket n).tables = s.tables := rfl
@[simp] theorem State.lockSocket_scan (n : Idx8) : (s.lockSocket n).scan = s.scan := rfl
@[simp] theorem State.lockSocket_quarantine (n : Idx8) : (s.lockSocket n).quarantine = s.quarantine := rfl
@[simp] theorem State.lockSocket_copy (n : Idx8) : (s.lockSocket n).copy = s.copy := rfl
@[simp] theorem State.lockSocket_returns (n : Idx8) : (s.lockSocket n).returns = s.returns := rfl
@[simp] theorem State.lockSocket_bench (n : Idx8) : (s.lockSocket n).bench = s.bench := rfl
@[simp] theorem State.lockSocket_nv (n : Idx8) : (s.lockSocket n).nv = s.nv := rfl

/-- A LOCK in the rest of whose transfer no hold falls has ended at once; another leaves the socket at it. -/
@[simp] theorem State.sendLock_false (n : Idx8) (b : Bool) : s.sendLock n false b = s.locked n b := rfl
@[simp] theorem State.sendLock_true (n : Idx8) (b : Bool) : s.sendLock n true b =
    s.modSocket n fun k => { k with op := some (.locking b), hold := none } := rfl

/-- The fall of the ready line in a transfer changes a socket's record in its operation and its link alone. -/
theorem Socket.held_eq {k x : Socket} {t : HeldTransfer} (h : k.held t = some x) :
    x = { k with op := x.op, link := x.link } := by
  unfold Socket.held at h
  cases t <;> simp only at h <;> split at h <;> first | cases h; rfl | cases h | skip
  obtain ⟨st, -, rfl⟩ := Option.map_eq_some_iff.mp h
  rfl

/-- All that the fall of the ready line can do: nothing, or a hold of 50 ms in a transfer that none yet pauses. -/
theorem State.holdStarts_cases (s : State) (n : Idx8) (t : HeldTransfer) :
    s.holdStarts n t = s ∨
      ∃ x, (s.socket n).hold = none ∧ (s.socket n).held t = some x ∧
        s.holdStarts n t = s.setSocket n { x with hold := some (s.after 50) } := by
  unfold State.holdStarts
  split
  · exact .inr ⟨_, ‹_›, ‹_›, rfl⟩
  · exact .inl rfl

/-- All that the release of the ready line can do: nothing where none is held, the end of the event in which a held LOCK goes
on, or the end of the hold of another transfer. -/
theorem State.holdEnds_cases (s : State) (n : Idx8) (e : OpEnd) :
    s.holdEnds n e = s ∨
      (∃ b, (s.socket n).op = some (.locking b) ∧ s.holdEnds n e = finish e.write (s.sendLock n e.lockHeld b)) ∨
      s.holdEnds n e = s.setSocket n { (s.socket n).resumed s.time.ms with hold := none } := by
  unfold State.holdEnds
  split
  · exact .inr (.inl ⟨_, ‹_›, rfl⟩)
  · exact .inr (.inr rfl)
  · exact .inl rfl

@[simp] theorem State.emptySocket_pending (n : Idx8) : (s.emptySocket n).pending = s.pending := rfl
@[simp] theorem State.emptySocket_time (n : Idx8) : (s.emptySocket n).time = s.time := rfl
@[simp] theorem State.emptySocket_start (n : Idx8) : (s.emptySocket n).start = s.start := rfl
@[simp] theorem State.emptySocket_cfg (n : Idx8) : (s.emptySocket n).cfg = s.cfg := rfl
@[simp] theorem State.emptySocket_line (n : Idx8) : (s.emptySocket n).line = s.line := rfl
@[simp] theorem State.emptySocket_book (n : Idx8) : (s.emptySocket n).book = s.book := rfl
@[simp] theorem State.emptySocket_tables (n : Idx8) : (s.emptySocket n).tables = s.tables := rfl
@[simp] theorem State.emptySocket_scan (n : Idx8) : (s.emptySocket n).scan = s.scan := rfl
@[simp] theorem State.emptySocket_quarantine (n : Idx8) : (s.emptySocket n).quarantine = s.quarantine := rfl
@[simp] theorem State.emptySocket_copy (n : Idx8) : (s.emptySocket n).copy = s.copy := rfl
@[simp] theorem State.emptySocket_returns (n : Idx8) : (s.emptySocket n).returns = s.returns := rfl
@[simp] theorem State.emptySocket_bench (n : Idx8) : (s.emptySocket n).bench = s.bench := rfl
@[simp] theorem State.emptySocket_nv (n : Idx8) : (s.emptySocket n).nv = s.nv := rfl

@[simp] theorem State.seat_pending (n : Idx8) : (s.seat n).pending = s.pending := rfl
@[simp] theorem State.seat_time (n : Idx8) : (s.seat n).time = s.time := rfl
@[simp] theorem State.seat_start (n : Idx8) : (s.seat n).start = s.start := rfl
@[simp] theorem State.seat_cfg (n : Idx8) : (s.seat n).cfg = s.cfg := rfl
@[simp] theorem State.seat_line (n : Idx8) : (s.seat n).line = s.line := rfl
@[simp] theorem State.seat_book (n : Idx8) : (s.seat n).book = s.book := rfl
@[simp] theorem State.seat_tables (n : Idx8) : (s.seat n).tables = s.tables := rfl
@[simp] theorem State.seat_scan (n : Idx8) : (s.seat n).scan = s.scan := rfl
@[simp] theorem State.seat_quarantine (n : Idx8) : (s.seat n).quarantine = s.quarantine := rfl
@[simp] theorem State.seat_copy (n : Idx8) : (s.seat n).copy = s.copy := rfl
@[simp] theorem State.seat_returns (n : Idx8) : (s.seat n).returns = s.returns := rfl
@[simp] theorem State.seat_bench (n : Idx8) : (s.seat n).bench = s.bench := rfl
@[simp] theorem State.seat_nv (n : Idx8) : (s.seat n).nv = s.nv := rfl

@[simp] theorem State.sendCommand_pending (n : Idx8) (g : Guarded) : (s.sendCommand n g).pending = s.pending := rfl
@[simp] theorem State.sendCommand_time (n : Idx8) (g : Guarded) : (s.sendCommand n g).time = s.time := rfl
@[simp] theorem State.sendCommand_start (n : Idx8) (g : Guarded) : (s.sendCommand n g).start = s.start := rfl
@[simp] theorem State.sendCommand_cfg (n : Idx8) (g : Guarded) : (s.sendCommand n g).cfg = s.cfg := rfl
@[simp] theorem State.sendCommand_line (n : Idx8) (g : Guarded) : (s.sendCommand n g).line = s.line := rfl
@[simp] theorem State.sendCommand_book (n : Idx8) (g : Guarded) : (s.sendCommand n g).book = s.book := rfl
@[simp] theorem State.sendCommand_tables (n : Idx8) (g : Guarded) : (s.sendCommand n g).tables = s.tables := rfl
@[simp] theorem State.sendCommand_scan (n : Idx8) (g : Guarded) : (s.sendCommand n g).scan = s.scan := rfl
@[simp] theorem State.sendCommand_quarantine (n : Idx8) (g : Guarded) : (s.sendCommand n g).quarantine = s.quarantine := rfl
@[simp] theorem State.sendCommand_copy (n : Idx8) (g : Guarded) : (s.sendCommand n g).copy = s.copy := rfl
@[simp] theorem State.sendCommand_returns (n : Idx8) (g : Guarded) : (s.sendCommand n g).returns = s.returns := rfl
@[simp] theorem State.sendCommand_bench (n : Idx8) (g : Guarded) : (s.sendCommand n g).bench = s.bench := rfl
@[simp] theorem State.sendCommand_nv (n : Idx8) (g : Guarded) : (s.sendCommand n g).nv = s.nv := rfl

@[simp] theorem State.startGuarded_pending (n : Idx8) (g : Guarded) : (s.startGuarded n g).pending = s.pending := rfl
@[simp] theorem State.startGuarded_time (n : Idx8) (g : Guarded) : (s.startGuarded n g).time = s.time := rfl
@[simp] theorem State.startGuarded_start (n : Idx8) (g : Guarded) : (s.startGuarded n g).start = s.start := rfl
@[simp] theorem State.startGuarded_cfg (n : Idx8) (g : Guarded) : (s.startGuarded n g).cfg = s.cfg := rfl
@[simp] theorem State.startGuarded_line (n : Idx8) (g : Guarded) : (s.startGuarded n g).line = s.line := rfl
@[simp] theorem State.startGuarded_book (n : Idx8) (g : Guarded) : (s.startGuarded n g).book = s.book := rfl
@[simp] theorem State.startGuarded_tables (n : Idx8) (g : Guarded) : (s.startGuarded n g).tables = s.tables := rfl
@[simp] theorem State.startGuarded_scan (n : Idx8) (g : Guarded) : (s.startGuarded n g).scan = s.scan := rfl
@[simp] theorem State.startGuarded_quarantine (n : Idx8) (g : Guarded) : (s.startGuarded n g).quarantine = s.quarantine := rfl
@[simp] theorem State.startGuarded_copy (n : Idx8) (g : Guarded) : (s.startGuarded n g).copy = s.copy := rfl
@[simp] theorem State.startGuarded_returns (n : Idx8) (g : Guarded) : (s.startGuarded n g).returns = s.returns := rfl
@[simp] theorem State.startGuarded_bench (n : Idx8) (g : Guarded) : (s.startGuarded n g).bench = s.bench := rfl
@[simp] theorem State.startGuarded_nv (n : Idx8) (g : Guarded) : (s.startGuarded n g).nv = s.nv := rfl

@[simp] theorem State.startBlockRead_pending (n : Idx8) (b : Nat) : (s.startBlockRead n b).pending = s.pending := rfl
@[simp] theorem State.startBlockRead_time (n : Idx8) (b : Nat) : (s.startBlockRead n b).time = s.time := rfl
@[simp] theorem State.startBlockRead_start (n : Idx8) (b : Nat) : (s.startBlockRead n b).start = s.start := rfl
@[simp] theorem State.startBlockRead_cfg (n : Idx8) (b : Nat) : (s.startBlockRead n b).cfg = s.cfg := rfl
@[simp] theorem State.startBlockRead_line (n : Idx8) (b : Nat) : (s.startBlockRead n b).line = s.line := rfl
@[simp] theorem State.startBlockRead_book (n : Idx8) (b : Nat) : (s.startBlockRead n b).book = s.book := rfl
@[simp] theorem State.startBlockRead_tables (n : Idx8) (b : Nat) : (s.startBlockRead n b).tables = s.tables := rfl
@[simp] theorem State.startBlockRead_scan (n : Idx8) (b : Nat) : (s.startBlockRead n b).scan = s.scan := rfl
@[simp] theorem State.startBlockRead_quarantine (n : Idx8) (b : Nat) : (s.startBlockRead n b).quarantine = s.quarantine := rfl
@[simp] theorem State.startBlockRead_copy (n : Idx8) (b : Nat) : (s.startBlockRead n b).copy = s.copy := rfl
@[simp] theorem State.startBlockRead_returns (n : Idx8) (b : Nat) : (s.startBlockRead n b).returns = s.returns := rfl
@[simp] theorem State.startBlockRead_bench (n : Idx8) (b : Nat) : (s.startBlockRead n b).bench = s.bench := rfl
@[simp] theorem State.startBlockRead_nv (n : Idx8) (b : Nat) : (s.startBlockRead n b).nv = s.nv := rfl

@[simp] theorem State.startIdentify_pending (n : Idx8) : (s.startIdentify n).pending = s.pending := rfl
@[simp] theorem State.startIdentify_time (n : Idx8) : (s.startIdentify n).time = s.time := rfl
@[simp] theorem State.startIdentify_start (n : Idx8) : (s.startIdentify n).start = s.start := rfl
@[simp] theorem State.startIdentify_cfg (n : Idx8) : (s.startIdentify n).cfg = s.cfg := rfl
@[simp] theorem State.startIdentify_line (n : Idx8) : (s.startIdentify n).line = s.line := rfl
@[simp] theorem State.startIdentify_book (n : Idx8) : (s.startIdentify n).book = s.book := rfl
@[simp] theorem State.startIdentify_tables (n : Idx8) : (s.startIdentify n).tables = s.tables := rfl
@[simp] theorem State.startIdentify_scan (n : Idx8) : (s.startIdentify n).scan = s.scan := rfl
@[simp] theorem State.startIdentify_quarantine (n : Idx8) : (s.startIdentify n).quarantine = s.quarantine := rfl
@[simp] theorem State.startIdentify_copy (n : Idx8) : (s.startIdentify n).copy = s.copy := rfl
@[simp] theorem State.startIdentify_returns (n : Idx8) : (s.startIdentify n).returns = s.returns := rfl
@[simp] theorem State.startIdentify_bench (n : Idx8) : (s.startIdentify n).bench = s.bench := rfl
@[simp] theorem State.startIdentify_nv (n : Idx8) : (s.startIdentify n).nv = s.nv := rfl

@[simp] theorem State.emptyBuffer_pending : (s.emptyBuffer).pending = s.pending := rfl
@[simp] theorem State.emptyBuffer_time : (s.emptyBuffer).time = s.time := rfl
@[simp] theorem State.emptyBuffer_start : (s.emptyBuffer).start = s.start := rfl
@[simp] theorem State.emptyBuffer_cfg : (s.emptyBuffer).cfg = s.cfg := rfl
@[simp] theorem State.emptyBuffer_line : (s.emptyBuffer).line = s.line := rfl
@[simp] theorem State.emptyBuffer_book : (s.emptyBuffer).book = s.book := rfl
@[simp] theorem State.emptyBuffer_tables : (s.emptyBuffer).tables = s.tables := rfl
@[simp] theorem State.emptyBuffer_scan : (s.emptyBuffer).scan = s.scan := rfl
@[simp] theorem State.emptyBuffer_sockets : (s.emptyBuffer).sockets = s.sockets := rfl
@[simp] theorem State.emptyBuffer_quarantine : (s.emptyBuffer).quarantine = s.quarantine := rfl
@[simp] theorem State.emptyBuffer_copy : (s.emptyBuffer).copy = s.copy := rfl
@[simp] theorem State.emptyBuffer_returns : (s.emptyBuffer).returns = s.returns := rfl
@[simp] theorem State.emptyBuffer_nv : (s.emptyBuffer).nv = s.nv := rfl

@[simp] theorem State.markBad_pending : (s.markBad).pending = s.pending := rfl
@[simp] theorem State.markBad_time : (s.markBad).time = s.time := rfl
@[simp] theorem State.markBad_start : (s.markBad).start = s.start := rfl
@[simp] theorem State.markBad_cfg : (s.markBad).cfg = s.cfg := rfl
@[simp] theorem State.markBad_line : (s.markBad).line = s.line := rfl
@[simp] theorem State.markBad_book : (s.markBad).book = s.book := rfl
@[simp] theorem State.markBad_tables : (s.markBad).tables = s.tables := rfl
@[simp] theorem State.markBad_scan : (s.markBad).scan = s.scan := rfl
@[simp] theorem State.markBad_sockets : (s.markBad).sockets = s.sockets := rfl
@[simp] theorem State.markBad_quarantine : (s.markBad).quarantine = s.quarantine := rfl
@[simp] theorem State.markBad_copy : (s.markBad).copy = s.copy := rfl
@[simp] theorem State.markBad_returns : (s.markBad).returns = s.returns := rfl
@[simp] theorem State.markBad_nv : (s.markBad).nv = s.nv := rfl

@[simp] theorem State.stopSending_pending (x : TxEntry) : (s.stopSending x).pending = s.pending := rfl
@[simp] theorem State.stopSending_time (x : TxEntry) : (s.stopSending x).time = s.time := rfl
@[simp] theorem State.stopSending_start (x : TxEntry) : (s.stopSending x).start = s.start := rfl
@[simp] theorem State.stopSending_cfg (x : TxEntry) : (s.stopSending x).cfg = s.cfg := rfl
@[simp] theorem State.stopSending_book (x : TxEntry) : (s.stopSending x).book = s.book := rfl
@[simp] theorem State.stopSending_tables (x : TxEntry) : (s.stopSending x).tables = s.tables := rfl
@[simp] theorem State.stopSending_scan (x : TxEntry) : (s.stopSending x).scan = s.scan := rfl
@[simp] theorem State.stopSending_sockets (x : TxEntry) : (s.stopSending x).sockets = s.sockets := rfl
@[simp] theorem State.stopSending_quarantine (x : TxEntry) : (s.stopSending x).quarantine = s.quarantine := rfl
@[simp] theorem State.stopSending_copy (x : TxEntry) : (s.stopSending x).copy = s.copy := rfl
@[simp] theorem State.stopSending_returns (x : TxEntry) : (s.stopSending x).returns = s.returns := rfl
@[simp] theorem State.stopSending_bench (x : TxEntry) : (s.stopSending x).bench = s.bench := rfl
@[simp] theorem State.stopSending_nv (x : TxEntry) : (s.stopSending x).nv = s.nv := rfl

@[simp] theorem State.lineStarts_pending : (s.lineStarts).pending = s.pending := rfl
@[simp] theorem State.lineStarts_time : (s.lineStarts).time = s.time := rfl
@[simp] theorem State.lineStarts_start : (s.lineStarts).start = s.start := rfl
@[simp] theorem State.lineStarts_cfg : (s.lineStarts).cfg = s.cfg := rfl
@[simp] theorem State.lineStarts_book : (s.lineStarts).book = s.book := rfl
@[simp] theorem State.lineStarts_tables : (s.lineStarts).tables = s.tables := rfl
@[simp] theorem State.lineStarts_scan : (s.lineStarts).scan = s.scan := rfl
@[simp] theorem State.lineStarts_sockets : (s.lineStarts).sockets = s.sockets := rfl
@[simp] theorem State.lineStarts_quarantine : (s.lineStarts).quarantine = s.quarantine := rfl
@[simp] theorem State.lineStarts_copy : (s.lineStarts).copy = s.copy := rfl
@[simp] theorem State.lineStarts_returns : (s.lineStarts).returns = s.returns := rfl
@[simp] theorem State.lineStarts_bench : (s.lineStarts).bench = s.bench := rfl
@[simp] theorem State.lineStarts_nv : (s.lineStarts).nv = s.nv := rfl

@[simp] theorem State.startRunning_pending : (s.startRunning).pending = s.pending := rfl
@[simp] theorem State.startRunning_time : (s.startRunning).time = s.time := rfl
@[simp] theorem State.startRunning_cfg : (s.startRunning).cfg = s.cfg := rfl
@[simp] theorem State.startRunning_line : (s.startRunning).line = s.line := rfl
@[simp] theorem State.startRunning_book : (s.startRunning).book = s.book := rfl
@[simp] theorem State.startRunning_tables : (s.startRunning).tables = s.tables := rfl
@[simp] theorem State.startRunning_scan : (s.startRunning).scan = s.scan := rfl
@[simp] theorem State.startRunning_sockets : (s.startRunning).sockets = s.sockets := rfl
@[simp] theorem State.startRunning_quarantine : (s.startRunning).quarantine = s.quarantine := rfl
@[simp] theorem State.startRunning_copy : (s.startRunning).copy = s.copy := rfl
@[simp] theorem State.startRunning_returns : (s.startRunning).returns = s.returns := rfl
@[simp] theorem State.startRunning_bench : (s.startRunning).bench = s.bench := rfl
@[simp] theorem State.startRunning_nv : (s.startRunning).nv = s.nv := rfl

/-! ### Reads of what an update writes -/

@[simp] theorem State.socket_setSocket_self (n : Idx8) (k : Socket) : (s.setSocket n k).socket n = k := by
  simp [State.socket, State.setSocket]

theorem State.socket_setSocket_other {m n : Idx8} (h : m ≠ n) (k : Socket) : (s.setSocket n k).socket m = s.socket m := by
  have : n.val ≠ m.val := fun e => h (Fin.ext e.symm)
  simp [State.socket, State.setSocket, this]

@[simp] theorem State.socket_modSocket_self (n : Idx8) (f : Socket → Socket) :
    (s.modSocket n f).socket n = f (s.socket n) := by
  simp [State.modSocket]

@[simp] theorem State.socket_putSock_self (n : Idx8) (st : SockState) :
    (s.putSock n st).socket n = { s.socket n with state := st } := by
  simp [State.putSock]

@[simp] theorem State.buffer_setBuffer_self (b : Fin 4) (x : Buffer) : (s.setBuffer b x).buffer b = x := by
  simp [State.buffer, State.setBuffer]

@[simp] theorem State.tray_setTray_self (r : Fin 16) (t : Option Tray) : (s.setTray r t).tray r = t := by
  simp [State.tray, State.setTray]

@[simp] theorem State.popRx_rx : s.popRx.line.rx = s.line.rx.tail := rfl

@[simp] theorem State.popRx_tx : s.popRx.line.tx = s.line.tx := rfl

@[simp] theorem State.pushTx_tx (f : Frame) : (s.pushTx f).line.tx = s.line.tx ++ [⟨f, false, false⟩] := rfl

@[simp] theorem State.pushTx_rx (f : Frame) : (s.pushTx f).line.rx = s.line.rx := rfl

@[simp] theorem State.pushTx_pacing (f : Frame) : (s.pushTx f).line.pacing = s.line.pacing := rfl

/-! ### Notices, FAULT, REJECTED and the quarantine list -/

@[simp] theorem State.raise_pending (x : Notice) : (s.raise x).pending = s.pending := by unfold State.raise; split <;> rfl
@[simp] theorem State.raise_time (x : Notice) : (s.raise x).time = s.time := by unfold State.raise; split <;> rfl
@[simp] theorem State.raise_start (x : Notice) : (s.raise x).start = s.start := by unfold State.raise; split <;> rfl
@[simp] theorem State.raise_cfg (x : Notice) : (s.raise x).cfg = s.cfg := by unfold State.raise; split <;> rfl
@[simp] theorem State.raise_line (x : Notice) : (s.raise x).line = s.line := by unfold State.raise; split <;> rfl
@[simp] theorem State.raise_book (x : Notice) : (s.raise x).book = s.book := by unfold State.raise; split <;> rfl
@[simp] theorem State.raise_tables (x : Notice) : (s.raise x).tables = s.tables := by unfold State.raise; split <;> rfl
@[simp] theorem State.raise_scan (x : Notice) : (s.raise x).scan = s.scan := by unfold State.raise; split <;> rfl
@[simp] theorem State.raise_sockets (x : Notice) : (s.raise x).sockets = s.sockets := by unfold State.raise; split <;> rfl
@[simp] theorem State.raise_quarantine (x : Notice) : (s.raise x).quarantine = s.quarantine := by unfold State.raise; split <;> rfl
@[simp] theorem State.raise_copy (x : Notice) : (s.raise x).copy = s.copy := by unfold State.raise; split <;> rfl
@[simp] theorem State.raise_returns (x : Notice) : (s.raise x).returns = s.returns := by unfold State.raise; split <;> rfl
@[simp] theorem State.raise_nv (x : Notice) : (s.raise x).nv = s.nv := by unfold State.raise; split <;> rfl
@[simp] theorem State.raise_bench_buffer (x : Notice) : (s.raise x).bench.buffer = s.bench.buffer := by
  unfold State.raise; split <;> rfl
@[simp] theorem State.raise_bench_extra (x : Notice) : (s.raise x).bench.extra = s.bench.extra := by
  unfold State.raise; split <;> rfl
@[simp] theorem State.raise_bench_bad (x : Notice) : (s.raise x).bench.bad = s.bench.bad := by
  unfold State.raise; split <;> rfl
@[simp] theorem State.raise_bench_sent (x : Notice) : (s.raise x).bench.sent = s.bench.sent := by
  unfold State.raise; split <;> rfl
@[simp] theorem State.raise_bench_rate (x : Notice) : (s.raise x).bench.rate = s.bench.rate := by
  unfold State.raise; split <;> rfl
@[simp] theorem State.raise_socket (x : Notice) (n : Idx8) : (s.raise x).socket n = s.socket n := by
  unfold State.raise; split <;> rfl
@[simp] theorem State.raise_buffer (x : Notice) (b : Fin 4) : (s.raise x).buffer b = s.buffer b := by
  unfold State.raise; split <;> rfl
@[simp] theorem State.raise_tray (x : Notice) (r : Fin 16) : (s.raise x).tray r = s.tray r := by
  unfold State.raise; split <;> rfl
@[simp] theorem State.raise_loan (x : Notice) (n : LoanNo) : (s.raise x).loan? n = s.loan? n := by
  unfold State.raise; split <;> rfl
@[simp] theorem State.raise_entry (x : Notice) (o : OrderNo) : (s.raise x).entry? o = s.entry? o := by
  unfold State.raise; split <;> rfl

@[simp] theorem State.refuse_pending (w : RefuseReason) (x : String) : (s.refuse w x).pending = s.pending := s.raise_pending _
@[simp] theorem State.refuse_time (w : RefuseReason) (x : String) : (s.refuse w x).time = s.time := s.raise_time _
@[simp] theorem State.refuse_start (w : RefuseReason) (x : String) : (s.refuse w x).start = s.start := s.raise_start _
@[simp] theorem State.refuse_cfg (w : RefuseReason) (x : String) : (s.refuse w x).cfg = s.cfg := s.raise_cfg _
@[simp] theorem State.refuse_line (w : RefuseReason) (x : String) : (s.refuse w x).line = s.line := s.raise_line _
@[simp] theorem State.refuse_book (w : RefuseReason) (x : String) : (s.refuse w x).book = s.book := s.raise_book _
@[simp] theorem State.refuse_tables (w : RefuseReason) (x : String) : (s.refuse w x).tables = s.tables := s.raise_tables _
@[simp] theorem State.refuse_scan (w : RefuseReason) (x : String) : (s.refuse w x).scan = s.scan := s.raise_scan _
@[simp] theorem State.refuse_sockets (w : RefuseReason) (x : String) : (s.refuse w x).sockets = s.sockets := s.raise_sockets _
@[simp] theorem State.refuse_quarantine (w : RefuseReason) (x : String) : (s.refuse w x).quarantine = s.quarantine := s.raise_quarantine _
@[simp] theorem State.refuse_copy (w : RefuseReason) (x : String) : (s.refuse w x).copy = s.copy := s.raise_copy _
@[simp] theorem State.refuse_returns (w : RefuseReason) (x : String) : (s.refuse w x).returns = s.returns := s.raise_returns _
@[simp] theorem State.refuse_nv (w : RefuseReason) (x : String) : (s.refuse w x).nv = s.nv := s.raise_nv _

@[simp] theorem State.quarantineSerial_pending (x : Serial) : (s.quarantineSerial x).pending = s.pending := by
  unfold State.quarantineSerial; (repeat' split) <;> rfl
@[simp] theorem State.quarantineSerial_time (x : Serial) : (s.quarantineSerial x).time = s.time := by
  unfold State.quarantineSerial; (repeat' split) <;> rfl
@[simp] theorem State.quarantineSerial_start (x : Serial) : (s.quarantineSerial x).start = s.start := by
  unfold State.quarantineSerial; (repeat' split) <;> rfl
@[simp] theorem State.quarantineSerial_cfg (x : Serial) : (s.quarantineSerial x).cfg = s.cfg := by
  unfold State.quarantineSerial; (repeat' split) <;> rfl
@[simp] theorem State.quarantineSerial_line (x : Serial) : (s.quarantineSerial x).line = s.line := by
  unfold State.quarantineSerial; (repeat' split) <;> rfl
@[simp] theorem State.quarantineSerial_book (x : Serial) : (s.quarantineSerial x).book = s.book := by
  unfold State.quarantineSerial; (repeat' split) <;> rfl
@[simp] theorem State.quarantineSerial_tables (x : Serial) : (s.quarantineSerial x).tables = s.tables := by
  unfold State.quarantineSerial; (repeat' split) <;> rfl
@[simp] theorem State.quarantineSerial_scan (x : Serial) : (s.quarantineSerial x).scan = s.scan := by
  unfold State.quarantineSerial; (repeat' split) <;> rfl
@[simp] theorem State.quarantineSerial_sockets (x : Serial) : (s.quarantineSerial x).sockets = s.sockets := by
  unfold State.quarantineSerial; (repeat' split) <;> rfl
@[simp] theorem State.quarantineSerial_copy (x : Serial) : (s.quarantineSerial x).copy = s.copy := by
  unfold State.quarantineSerial; (repeat' split) <;> rfl
@[simp] theorem State.quarantineSerial_returns (x : Serial) : (s.quarantineSerial x).returns = s.returns := by
  unfold State.quarantineSerial; (repeat' split) <;> rfl
@[simp] theorem State.quarantineSerial_bench (x : Serial) : (s.quarantineSerial x).bench = s.bench := by
  unfold State.quarantineSerial; (repeat' split) <;> rfl
@[simp] theorem State.quarantineSerial_nv (x : Serial) : (s.quarantineSerial x).nv = s.nv := by
  unfold State.quarantineSerial; (repeat' split) <;> rfl

@[simp] theorem State.faultSocket_pending (n : Idx8) : (s.faultSocket n).pending = s.pending := by simp [State.faultSocket]
@[simp] theorem State.faultSocket_time (n : Idx8) : (s.faultSocket n).time = s.time := by simp [State.faultSocket]
@[simp] theorem State.faultSocket_start (n : Idx8) : (s.faultSocket n).start = s.start := by simp [State.faultSocket]
@[simp] theorem State.faultSocket_cfg (n : Idx8) : (s.faultSocket n).cfg = s.cfg := by simp [State.faultSocket]
@[simp] theorem State.faultSocket_line (n : Idx8) : (s.faultSocket n).line = s.line := by simp [State.faultSocket]
@[simp] theorem State.faultSocket_book (n : Idx8) : (s.faultSocket n).book = s.book := by simp [State.faultSocket]
@[simp] theorem State.faultSocket_tables (n : Idx8) : (s.faultSocket n).tables = s.tables := by simp [State.faultSocket]
@[simp] theorem State.faultSocket_scan (n : Idx8) : (s.faultSocket n).scan = s.scan := by simp [State.faultSocket]
@[simp] theorem State.faultSocket_quarantine (n : Idx8) : (s.faultSocket n).quarantine = s.quarantine := by simp [State.faultSocket]
@[simp] theorem State.faultSocket_copy (n : Idx8) : (s.faultSocket n).copy = s.copy := by simp [State.faultSocket]
@[simp] theorem State.faultSocket_returns (n : Idx8) : (s.faultSocket n).returns = s.returns := by simp [State.faultSocket]
@[simp] theorem State.faultSocket_nv (n : Idx8) : (s.faultSocket n).nv = s.nv := by simp [State.faultSocket]

@[simp] theorem State.rejectSocket_pending (n : Idx8) (w : RejectReason) : (s.rejectSocket n w).pending = s.pending := by
  simp [State.rejectSocket]
@[simp] theorem State.rejectSocket_time (n : Idx8) (w : RejectReason) : (s.rejectSocket n w).time = s.time := by
  simp [State.rejectSocket]
@[simp] theorem State.rejectSocket_start (n : Idx8) (w : RejectReason) : (s.rejectSocket n w).start = s.start := by
  simp [State.rejectSocket]
@[simp] theorem State.rejectSocket_cfg (n : Idx8) (w : RejectReason) : (s.rejectSocket n w).cfg = s.cfg := by
  simp [State.rejectSocket]
@[simp] theorem State.rejectSocket_line (n : Idx8) (w : RejectReason) : (s.rejectSocket n w).line = s.line := by
  simp [State.rejectSocket]
@[simp] theorem State.rejectSocket_book (n : Idx8) (w : RejectReason) : (s.rejectSocket n w).book = s.book := by
  simp [State.rejectSocket]
@[simp] theorem State.rejectSocket_tables (n : Idx8) (w : RejectReason) : (s.rejectSocket n w).tables = s.tables := by
  simp [State.rejectSocket]
@[simp] theorem State.rejectSocket_scan (n : Idx8) (w : RejectReason) : (s.rejectSocket n w).scan = s.scan := by
  simp [State.rejectSocket]
@[simp] theorem State.rejectSocket_quarantine (n : Idx8) (w : RejectReason) : (s.rejectSocket n w).quarantine = s.quarantine := by
  simp [State.rejectSocket]
@[simp] theorem State.rejectSocket_copy (n : Idx8) (w : RejectReason) : (s.rejectSocket n w).copy = s.copy := by
  simp [State.rejectSocket]
@[simp] theorem State.rejectSocket_returns (n : Idx8) (w : RejectReason) : (s.rejectSocket n w).returns = s.returns := by
  simp [State.rejectSocket]
@[simp] theorem State.rejectSocket_nv (n : Idx8) (w : RejectReason) : (s.rejectSocket n w).nv = s.nv := by
  simp [State.rejectSocket]

/-! ### The ready-stock record of a keep (R127, R143) -/

/-- A keep changes the ready-stock table alone. -/
theorem State.keepRecord_eq (v : View) :
    s.keepRecord v = { s with tables := { s.tables with stock := (s.keepRecord v).tables.stock } } := by
  unfold State.keepRecord
  split <;> rfl

/-- A keep makes no serial stand twice in the ready-stock table (R127). -/
theorem State.keepRecord_nodup (v : View) (h : (s.tables.stock.map (·.serial)).Nodup) :
    ((s.keepRecord v).tables.stock.map (·.serial)).Nodup := by
  unfold State.keepRecord
  split
  · have hm : ((s.tables.stock.map fun r =>
        if r.serial = v.serial then { r with work := v.work, used := v.used } else r).map (·.serial)) =
        s.tables.stock.map (·.serial) := by
      rw [List.map_map]
      exact List.map_congr_left fun r _ => by simp only [Function.comp]; split <;> rfl
    exact hm ▸ h
  next hn =>
    have hx : ∀ r ∈ s.tables.stock, r.serial ≠ v.serial := by
      simpa [State.stock?] using hn
    simpa [List.nodup_append, h] using hx

end Sys2Proof.Machine
end

