-- ==== Sys2Proof/Laws/EndOfEvent.lean ====
section
/-! SUPPORT. The end of an event: the record memory write's three outcomes, and the tests that have nothing to act on. -/

namespace Sys2Proof.Machine

/-- What the record memory write does: nothing where record memory may not be written; it takes the tables; or it
fails, and the tables stand in the volatile copies alone (R72, R165, R178). -/
theorem commit_cases (w : RecordWrite) (s : State) :
    (s.start.writable = false ∧ commit w s = s) ∨
      (s.start.writable = true ∧ w = .completed ∧ commit w s = { s with nv := { s.nv with tables := s.tables } }) ∨
      (s.start.writable = true ∧ w = .failed ∧ s.nv.tables = s.tables ∧ commit w s = s) ∨
      (s.start.writable = true ∧ w = .failed ∧ s.nv.tables ≠ s.tables ∧
        commit w s = ({ s with start := { s.start with writable := false } }).raise (.configInvalid .records)) := by
  unfold commit
  cases h : s.start.writable
  · simp
  · cases w
    · simp
    · by_cases e : s.nv.tables = s.tables <;> simp [e]

theorem quiet_anyRefused {s : State} (h : s.quiet = true) : s.anyRefused = false := by
  simp only [State.quiet, Bool.and_eq_true, Bool.not_eq_true'] at h
  exact h.1.1

theorem quiet_dispatchHead {s : State} (h : s.quiet = true) : s.dispatchHead = none := by
  simp only [State.quiet, Bool.and_eq_true] at h
  have h2 := h.1.2
  unfold State.dispatchHead
  cases hq : s.copy.queue with
  | nil => rfl
  | cons j js =>
    rw [hq] at h2
    simp only [Bool.or_eq_true, Option.isNone_iff_eq_none] at h2
    rcases h2 with h2 | h2
    · simp [h2]
    · cases hc : s.chooseBlank j.len allSockets <;> simp [h2]

theorem quiet_cleanTest {s : State} (h : s.quiet = true) : s.cleanTest = s := by
  simp only [State.quiet, Bool.and_eq_true] at h
  have h2 := h.1.2
  unfold State.cleanTest
  cases hq : s.copy.queue with
  | cons j js => rfl
  | nil =>
    rw [hq] at h2
    simp only [List.isEmpty_nil, if_true]
    revert h2
    generalize allSockets = l
    intro h2
    induction l with
    | nil => rfl
    | cons n l ih =>
      simp only [List.all_cons, Bool.and_eq_true, Bool.not_eq_true'] at h2
      rw [List.foldl_cons, h2.1]
      exact ih h2.2

theorem quiet_serveIngest {s : State} (h : s.quiet = true) (k : Nat) : s.serveIngest k = s := by
  simp only [State.quiet, Bool.and_eq_true, Bool.or_eq_true] at h
  cases k with
  | zero => rfl
  | succ k =>
    unfold State.serveIngest
    rcases h.2 with h2 | h2
    · simp [List.isEmpty_iff.mp h2]
    · cases hw : s.copy.ingestWait <;> simp [Option.isNone_iff_eq_none.mp h2]

/-- In a quiet state the tests that end an event change nothing. -/
theorem settle_of_quiet {s : State} (h : s.quiet = true) (k : Nat) : s.settle k = s := by
  cases k with
  | zero => rfl
  | succ k =>
    have ht : s.tests = s := by
      unfold State.tests
      have hd : s.dispatchAll 33 = s := by
        rw [State.dispatchAll, quiet_dispatchHead h]
      rw [hd, quiet_cleanTest h, quiet_serveIngest h]
    unfold State.settle
    simp [quiet_anyRefused h, ht]

theorem finish_of_quiet {s : State} (h : s.quiet = true) (w : RecordWrite) : finish w s = commit w s := by
  rw [finish, settle_of_quiet h]

/-- An outcome that is the end of an event. -/
theorem Ends.of_eq {r : Host.Outcome State Fault Refusal} {w : RecordWrite} {t : State} (h : r = .next (finish w t)) :
    Ends r w t :=
  ⟨h, fun q => by rw [h, finish_of_quiet q]⟩

/-- What a state's quietness rests on. -/
theorem quiet_congr {s t : State} (h1 : t.sockets = s.sockets) (h2 : t.copy = s.copy) (h3 : t.cfg = s.cfg)
    (h4 : t.line.state = s.line.state) : t.quiet = s.quiet := by
  have hs : t.socket = s.socket := by funext n; simp [State.socket, h1]
  have hb : t.buffer = s.buffer := by funext n; simp [State.buffer, h2]
  have hr : t.role = s.role := by funext n; simp [State.role, h3, h4]
  have hf : t.fittingBlank = s.fittingBlank := by funext l n; simp [State.fittingBlank, hs, hr]
  have hc : t.chooseBlank = s.chooseBlank := by funext l n; simp [State.chooseBlank, hf]
  simp [State.quiet, State.anyRefused, hs, hr, hc, State.freeBuffer?, hb, h2]

end Sys2Proof.Machine
end

