-- ==== Sys2Proof/Laws/Releases.lean ====
section
/-! SUPPORT. What an own release does: `OwnReleased` says once everything `State.ownRelease` can do. -/

namespace Sys2Proof.Machine

/-- When a paced owner's offer is accepted (R15). -/
theorem State.paceOk_iff (s : State) (o : PacedOwner) :
    s.paceOk o = true ↔ s.line.tx.length ≤ 12 ∧ (s.line.pacing = [] ∨ s.line.pacing.head? = some o) := by
  rw [State.paceOk, Bool.and_eq_true, decide_eq_true_iff, Bool.or_eq_true, List.isEmpty_iff, beq_iff_eq, State.freeTx]
  exact and_congr_left' (by omega)

/-- The entry of an order after a change of it that keeps its number. -/
theorem State.entry?_modEntry {s : State} {o : OrderNo} {e : Entry} {f : Entry → Entry} (h : s.entry? o = some e)
    (hf : ∀ y, (f y).order = y.order) : (s.modEntry o f).entry? o = some (f e) := by
  have ho : e.order = o := by simpa using List.find?_some h
  have hp : ((fun y : Entry => y.order == o) ∘ fun y => if y.order = o then f y else y) = fun y => y.order == o := by
    funext y; by_cases hy : y.order = o <;> simp [hy, hf]
  simp only [State.entry?, State.modEntry] at h ⊢
  rw [List.find?_map, hp, h]
  simp [ho]

/-- Two changes of an order's entries are one. -/
theorem changed_twice {o : OrderNo} {f g : Entry → Entry} (hf : ∀ y, (f y).order = y.order) (l : List Entry) :
    (l.map fun y => if y.order = o then f y else y).map (fun y => if y.order = o then g y else y) =
      l.map fun y => if y.order = o then g (f y) else y := by
  rw [List.map_map]
  refine List.map_congr_left fun y _ => ?_
  by_cases hy : y.order = o <;> simp [hy, hf]

/-- A change of an order's entries is lost with them. -/
theorem filter_changed {o : OrderNo} {f : Entry → Entry} (hf : ∀ y, (f y).order = y.order) (l : List Entry) :
    (l.map fun y => if y.order = o then f y else y).filter (fun y => y.order != o) =
      l.filter fun y => y.order != o := by
  induction l with
  | nil => rfl
  | cons y l ih => by_cases hy : y.order = o <;> simp [hy, hf, ih]

/-- With nothing owed the Order Book offers nothing. -/
theorem State.bookOffer_nil {s : State} (h : s.book.owed = []) (k : Nat) : s.bookOffer k = s := by
  cases k <;> simp [State.bookOffer, State.headRelease, h]

/-- The Order Book owes nothing once the one RELEASE owed is sent. -/
theorem State.releaseSent_owed (s : State) (e : Entry) (h : s.book.owed = [e.order]) : (s.releaseSent e).book.owed = [] := by
  unfold State.releaseSent
  split <;> simp [State.modEntry, State.dropEntry, h]

/-- An own release of an entry of the book is one of the three cases of `OwnReleased` (R15, R33, R34). -/
theorem State.ownRelease_released {s : State} {e : Entry} (why : Reason) (h : s.entry? e.order = some e) :
    OwnReleased s e why (s.ownRelease e why) := by
  by_cases ho : s.book.owed = []
  · refine .inr ?_
    let f : Entry → Entry := fun y =>
      { y with state := .unbid, excluded := true, releaseCount := countUp y.releaseCount, owed := some why }
    let t : State := { s with book := ⟨(s.modEntry e.order f).book.entries, [e.order]⟩ }
    have ht : s.ownRelease e why = t.bookOffer 17 := by simp [State.ownRelease, ho, t, f, State.modEntry]
    have hh : t.headRelease = some (f e, why) := by
      have := State.entry?_modEntry (f := f) h fun _ => rfl
      simp only [State.entry?, State.headRelease, t] at this ⊢
      simp [this, f]
    have hp := t.paceOk_iff .book
    by_cases hr : s.line.tx.length ≤ 12 ∧ (s.line.pacing = [] ∨ s.line.pacing.head? = some .book)
    · refine .inl ⟨ho, hr, ?_⟩
      rw [ht, State.bookOffer, hh]
      simp only [State.offerPaced, hp.mpr hr, if_true]
      rw [State.bookOffer_nil (State.releaseSent_owed _ _ (by simp [t, f, State.pushTx, State.leavePacing]))]
      have hfo : (f e).order = e.order := rfl
      have h2 := changed_twice (o := e.order) (f := f) (g := fun y => { y with owed := none }) (fun _ => rfl) s.book.entries
      by_cases hc : countUp e.releaseCount = 3
      · simp only [State.releaseSent, show (f e).releaseCount = 3 from hc, if_true, State.dropEntry]
        rw [countUp] at hc
        simp only [hc, if_true, t, State.modEntry, State.pushTx, State.leavePacing, State.frame, State.station, hfo, h2]
        simp [filter_changed (f := fun y => { f y with owed := none }) (fun _ => rfl)]
      · simp only [State.releaseSent, show ¬ (f e).releaseCount = 3 from hc, if_false]
        rw [countUp] at hc
        simp only [hc, if_false, t, State.modEntry, State.pushTx, State.leavePacing, State.frame, State.station, hfo, h2]
        simp [f, countUp]
    · refine .inr ⟨ho, hr, ?_⟩
      have hf : t.paceOk .book = false := by rw [← Bool.not_eq_true, hp]; exact hr
      rw [ht, State.bookOffer, hh]
      simp only [State.offerPaced, hf, Bool.false_eq_true, if_false]
      by_cases hc : .book ∈ s.line.pacing <;> simp [State.joinPacing, t, hc, f, State.modEntry, countUp]
  · refine .inl ⟨ho, ?_⟩
    have : s.book.owed.isEmpty = false := by simpa using ho
    simp [State.ownRelease, State.modEntry, this, countUp]

end Sys2Proof.Machine
end

