-- ==== Sys2Proof/Laws/Within.lean ====
section
/-! SUPPORT. What the blocks' own operations can do to the rest of the part, said once: an operation that a block makes
within an event leaves the queue of commands, the time, the start unit, the configuration, record memory, the receive
queue, the line's state and the input line as they were, and keeps the capacities of the queues and lists. -/

namespace Sys2Proof.Machine

/-- `s` follows from `a` by operations that blocks make within an event. -/
structure Within (a s : State) : Prop where
  pending : s.pending = a.pending
  time    : s.time = a.time
  start   : s.start = a.start
  cfg     : s.cfg = a.cfg
  nv      : s.nv = a.nv
  line    : s.line = { a.line with tx := s.line.tx, pacing := s.line.pacing }
  bench   : s.bench = { a.bench with notices := s.bench.notices, lost := s.bench.lost }
  cap     : a.Capacities → s.Capacities

namespace Within

variable {a s : State}

@[simp] theorem refl (s : State) : Within s s := ⟨rfl, rfl, rfl, rfl, rfl, rfl, rfl, id⟩

/-! ### Updates of one block's state -/

@[simp] theorem sockets (h : Within a s) (x : Vector Socket 8) : Within a { s with sockets := x } :=
  ⟨h.pending, h.time, h.start, h.cfg, h.nv, h.line, h.bench, fun c => let d := h.cap c; ⟨d.1, d.2, d.3, d.4, d.5, d.6, d.7⟩⟩

@[simp] theorem copy (h : Within a s) (x : CopyEngine) : Within a { s with copy := x } :=
  ⟨h.pending, h.time, h.start, h.cfg, h.nv, h.line, h.bench, fun c => let d := h.cap c; ⟨d.1, d.2, d.3, d.4, d.5, d.6, d.7⟩⟩

@[simp] theorem tables (h : Within a s) (x : Records) : Within a { s with tables := x } :=
  ⟨h.pending, h.time, h.start, h.cfg, h.nv, h.line, h.bench, fun c => let d := h.cap c; ⟨d.1, d.2, d.3, d.4, d.5, d.6, d.7⟩⟩

@[simp] theorem book (h : Within a s) (x : Book) : Within a { s with book := x } :=
  ⟨h.pending, h.time, h.start, h.cfg, h.nv, h.line, h.bench, fun c => let d := h.cap c; ⟨d.1, d.2, d.3, d.4, d.5, d.6, d.7⟩⟩

@[simp] theorem scan (h : Within a s) (x : DayScan) : Within a { s with scan := x } :=
  ⟨h.pending, h.time, h.start, h.cfg, h.nv, h.line, h.bench, fun c => let d := h.cap c; ⟨d.1, d.2, d.3, d.4, d.5, d.6, d.7⟩⟩

theorem returns (h : Within a s) (x : Returns) (hx : s.returns.outbox.length ≤ 16 → x.outbox.length ≤ 16) :
    Within a { s with returns := x } :=
  ⟨h.pending, h.time, h.start, h.cfg, h.nv, h.line, h.bench, fun c => let d := h.cap c;
    ⟨d.1, d.2, d.3, d.4, hx d.5, d.6, d.7⟩⟩

theorem tx (h : Within a s) (x : List TxEntry) (hx : s.line.tx.length ≤ 16 → x.length ≤ 16) :
    Within a { s with line := { s.line with tx := x } } :=
  ⟨h.pending, h.time, h.start, h.cfg, h.nv, congrArg (fun l : Line => { l with tx := x }) h.line, h.bench, fun c => let d := h.cap c;
    ⟨d.1, hx d.2, d.3, d.4, d.5, d.6, d.7⟩⟩

theorem pacing (h : Within a s) (x : List PacedOwner) (hx : s.line.pacing.Nodup → x.Nodup) :
    Within a { s with line := { s.line with pacing := x } } :=
  ⟨h.pending, h.time, h.start, h.cfg, h.nv, congrArg (fun l : Line => { l with pacing := x }) h.line, h.bench, fun c => let d := h.cap c;
    ⟨d.1, d.2, hx d.3, d.4, d.5, d.6, d.7⟩⟩

theorem quarantine (h : Within a s) (x : List Serial)
    (hx : s.quarantine.length ≤ 32 ∧ s.quarantine.Nodup → x.length ≤ 32 ∧ x.Nodup) :
    Within a { s with quarantine := x } :=
  ⟨h.pending, h.time, h.start, h.cfg, h.nv, h.line, h.bench, fun c => let d := h.cap c;
    ⟨d.1, d.2, d.3, hx d.4, d.5, d.6, d.7⟩⟩

/-! ### Folds -/

theorem foldl {α : Type} {f : State → α → State} (hf : ∀ t x, Within a t → Within a (f t x)) (l : List α) :
    ∀ {s}, Within a s → Within a (l.foldl f s) := by
  induction l with
  | nil => exact fun h => h
  | cons x l ih => exact fun h => ih (hf _ _ h)

/-! ### Ops -/

@[simp] theorem raise (h : Within a s) (x : Notice) : Within a (s.raise x) := by
  unfold State.raise
  split
  next hl =>
    exact ⟨h.pending, h.time, h.start, h.cfg, h.nv, h.line,
      congrArg (fun b : Bench => { b with notices := s.bench.notices ++ [x] }) h.bench, fun c => let d := h.cap c;
      ⟨d.1, d.2, d.3, d.4, d.5, by simp; omega, d.7⟩⟩
  next hl =>
    exact ⟨h.pending, h.time, h.start, h.cfg, h.nv, h.line,
      congrArg (fun b : Bench => { b with lost := true }) h.bench, fun c => let d := h.cap c;
      ⟨d.1, d.2, d.3, d.4, d.5, d.6, d.7⟩⟩

@[simp] theorem refuse (h : Within a s) (w : RefuseReason) (x : String) : Within a (s.refuse w x) := h.raise _

@[simp] theorem setSocket (h : Within a s) (n : Idx8) (k : Socket) : Within a (s.setSocket n k) := h.sockets _

@[simp] theorem modSocket (h : Within a s) (n : Idx8) (f : Socket → Socket) : Within a (s.modSocket n f) := h.sockets _

@[simp] theorem putSock (h : Within a s) (n : Idx8) (x : SockState) : Within a (s.putSock n x) := h.sockets _

@[simp] theorem clearOp (h : Within a s) (n : Idx8) : Within a (s.clearOp n) := h.sockets _

@[simp] theorem setBuffer (h : Within a s) (b : Fin 4) (x : Buffer) : Within a (s.setBuffer b x) := h.copy _

@[simp] theorem modGang (h : Within a s) (g : Nat) (f : Gang → Gang) : Within a (s.modGang g f) := h.copy _

@[simp] theorem requeueJob (h : Within a s) (j : Job) : Within a (s.requeueJob j) := h.copy _

@[simp] theorem dropJob (h : Within a s) (n : LoanNo) : Within a (s.dropJob n) := h.copy _

@[simp] theorem storeFree (h : Within a s) : Within a s.storeFree := h.copy _

@[simp] theorem modLoan (h : Within a s) (n : LoanNo) (f : Loan → Loan) : Within a (s.modLoan n f) := h.tables _

@[simp] theorem dropLoan (h : Within a s) (n : LoanNo) : Within a (s.dropLoan n) := h.tables _

@[simp] theorem addLoan (h : Within a s) (l : Loan) : Within a (s.addLoan l) := h.tables _

@[simp] theorem modDir (h : Within a s) (w : Work) (f : DirEntry → DirEntry) : Within a (s.modDir w f) := h.tables _

@[simp] theorem dropDir (h : Within a s) (w : Work) : Within a (s.dropDir w) := h.tables _

@[simp] theorem modStock (h : Within a s) (x : Serial) (f : StockRec → StockRec) : Within a (s.modStock x f) := h.tables _

@[simp] theorem stockState (h : Within a s) (x : Serial) (t : StockState) : Within a (s.stockState x t) := h.tables _

@[simp] theorem dropStock (h : Within a s) (x : Serial) : Within a (s.dropStock x) := h.tables _

@[simp] theorem modSet (h : Within a s) (w : Work) (f : SetRec → SetRec) : Within a (s.modSet w f) := h.tables _

@[simp] theorem loseSet (h : Within a s) (w : Work) : Within a (s.loseSet w) := h.tables _

@[simp] theorem setTray (h : Within a s) (r : Fin 16) (t : Option Tray) : Within a (s.setTray r t) := h.tables _

@[simp] theorem readinessTest (h : Within a s) (n : LoanNo) : Within a (s.readinessTest n) := h.tables _

@[simp] theorem cartReport (h : Within a s) (n : LoanNo) (p : CartPath) (x y : CartStatus) :
    Within a (s.cartReport n p x y) := h.tables _

@[simp] theorem modEntry (h : Within a s) (o : OrderNo) (f : Entry → Entry) : Within a (s.modEntry o f) := h.book _

@[simp] theorem setEntryState (h : Within a s) (o : OrderNo) (x : EntryState) : Within a (s.setEntryState o x) := h.book _

@[simp] theorem dropEntry (h : Within a s) (o : OrderNo) : Within a (s.dropEntry o) := h.book _

@[simp] theorem addEntry (h : Within a s) (e : Entry) : Within a (s.addEntry e) := h.book _

@[simp] theorem stockGain (h : Within a s) (w : Work) (p : Format → Bool) : Within a (s.stockGain w p) := h.book _

@[simp] theorem cartridgeGain (h : Within a s) (w : Work) : Within a (s.cartridgeGain w) := h.book _

@[simp] theorem brailleGain (h : Within a s) (w : Work) : Within a (s.brailleGain w) := h.book _

@[simp] theorem age (h : Within a s) (d : Day) : Within a (s.age d) := h.book _

@[simp] theorem setCount (h : Within a s) (o : OrderNo) (c : BitVec 2) : Within a (s.setCount o c) := h.book _

/-! ### Queues -/

theorem pushTx (h : Within a s) (f : Frame) (hf : 1 ≤ s.freeTx) : Within a (s.pushTx f) := by
  refine h.tx _ fun _ => ?_
  simp only [State.freeTx] at hf
  simp; omega

@[simp] theorem dropTx (h : Within a s) (x : TxEntry) : Within a (s.dropTx x) :=
  h.tx _ fun hl => Nat.le_trans (List.length_erase_le) hl

@[simp] theorem leavePacing (h : Within a s) (o : PacedOwner) : Within a (s.leavePacing o) :=
  h.pacing _ fun hn => hn.filter _

@[simp] theorem joinPacing (h : Within a s) (o : PacedOwner) : Within a (s.joinPacing o) := by
  unfold State.joinPacing
  split
  next => exact h
  next hc =>
    refine h.pacing _ fun hn => ?_
    rw [List.nodup_append]
    refine ⟨hn, by simp, ?_⟩
    intro x hx y hy
    simp only [List.mem_singleton] at hy
    rintro rfl
    subst hy
    exact hc (by simpa using hx)

theorem offerUrgent (h : Within a s) (r : BitVec 14) (p : Payload) {t : State} (ht : s.offerUrgent r p = some t) :
    Within a t := by
  unfold State.offerUrgent at ht
  split at ht
  next hf => cases ht; exact h.pushTx _ hf
  next => cases ht

@[simp] theorem offerPaced (h : Within a s) (o : PacedOwner) (p : Payload) : Within a (s.offerPaced o p).1 := by
  unfold State.offerPaced
  split
  next hp =>
    refine (h.leavePacing o).pushTx _ ?_
    simp only [State.paceOk, Bool.and_eq_true, decide_eq_true_eq] at hp
    show 1 ≤ s.freeTx
    omega
  next => exact h.joinPacing o

theorem offerPaced_eq (h : Within a s) {o : PacedOwner} {p : Payload} {t : State} {b : Bool}
    (ht : s.offerPaced o p = (t, b)) : Within a t := by
  have := h.offerPaced o p
  rwa [ht] at this

theorem modFirst_length (x : TxEntry) (f : TxEntry → TxEntry) (l : List TxEntry) :
    (modFirst x f l).length = l.length := by
  induction l with
  | nil => rfl
  | cons e l ih => unfold modFirst; split <;> simp [*]

end Within

end Sys2Proof.Machine
end

