-- ==== Sys2Proof/Laws/WithinBlocks.lean ====
section
/-! SUPPORT. Every operation of the blocks, and the tests that end an event, stay within what Laws/Within.lean says. -/

namespace Sys2Proof.Machine.Within

variable {a s : State}

/-! ### Sockets -/

@[simp] theorem startGuarded (h : Within a s) (n : Idx8) (g : Guarded) : Within a (s.startGuarded n g) := h.sockets _

@[simp] theorem startBlockRead (h : Within a s) (n : Idx8) (b : Nat) : Within a (s.startBlockRead n b) := h.sockets _

@[simp] theorem quarantineSerial (h : Within a s) (x : Serial) : Within a (s.quarantineSerial x) := by
  unfold State.quarantineSerial
  have nodup_snoc : ∀ l : List Serial, l.Nodup → x ∉ l → (l ++ [x]).Nodup := by
    intro l hl hx
    rw [List.nodup_append]
    refine ⟨hl, by simp, ?_⟩
    intro y hy z hz
    simp only [List.mem_singleton] at hz
    rintro rfl
    exact hx (hz ▸ hy)
  split
  next => exact h
  next hc =>
    have hx : x ∉ s.quarantine := fun m => hc (by simpa using m)
    split
    next hl =>
      exact h.quarantine _ fun ⟨_, hn⟩ => ⟨by simp; omega, nodup_snoc _ hn hx⟩
    next hl =>
      refine h.quarantine _ fun ⟨hb, hn⟩ => ⟨by simp; omega, nodup_snoc _ (hn.sublist (List.tail_sublist _)) ?_⟩
      exact fun m => hx (List.mem_of_mem_tail m)

@[simp] theorem faultSocket (h : Within a s) (n : Idx8) : Within a (s.faultSocket n) := (h.modSocket _ _).raise _

@[simp] theorem rejectSocket (h : Within a s) (n : Idx8) (w : RejectReason) : Within a (s.rejectSocket n w) :=
  (h.modSocket _ _).raise _

@[simp] theorem closeFirst (h : Within a s) (n : Idx8) (k : Nat) : Within a (s.closeFirst n k) := by
  unfold State.closeFirst
  simp (maxDischargeDepth := 20) [*]

/-! ### Stock -/

@[simp] theorem dropIssuing (h : Within a s) (n : LoanNo) : Within a (s.dropIssuing n) := by
  unfold State.dropIssuing
  split <;> simp (maxDischargeDepth := 20) [*]

@[simp] theorem freeIssuing (h : Within a s) (n : LoanNo) : Within a (s.freeIssuing n) := by
  unfold State.freeIssuing
  split <;> simp (maxDischargeDepth := 20) [*]

@[simp] theorem makePledges (h : Within a s) (o : OrderNo) (w : Work) (x : Option Serial) (b : Bool) :
    Within a (s.makePledges o w x b) := by
  unfold State.makePledges
  cases x <;> cases b <;> simp (maxDischargeDepth := 20) [*]

@[simp] theorem undoPledges (h : Within a s) (o : OrderNo) (w : Work) (p : Pledge) : Within a (s.undoPledges o w p) := by
  unfold State.undoPledges
  cases p.serial <;> cases p.set <;> simp (maxDischargeDepth := 20) [*]

/-! ### Trays -/

@[simp] theorem freeTray (h : Within a s) (r : Fin 16) : Within a (s.freeTray r) := (h.setTray r none).tables _

@[simp] theorem storeTray (h : Within a s) (r : Fin 16) (t : Tray) : Within a (s.storeTray r t) := by
  unfold State.storeTray
  split <;> simp (maxDischargeDepth := 20) [*]

@[simp] theorem removeFromTray (h : Within a s) (l : Loan) : Within a (s.removeFromTray l) := by
  unfold State.removeFromTray
  split
  · exact h
  · dsimp only
    split <;> simp (maxDischargeDepth := 20) [*]

@[simp] theorem closeTray (h : Within a s) (r : Fin 16) (x : Tray) : Within a (s.closeTray r x) :=
  (h.setTray _ _).raise _

@[simp] theorem closeFull (h : Within a s) (g : Idx8) (u : Nat) : Within a (s.closeFull g u) := by
  unfold State.closeFull
  (repeat' split) <;> simp (maxDischargeDepth := 20) [*]

theorem openTray (h : Within a s) {g : Idx8} {t : State} (ht : s.openTray g = some t) : Within a t := by
  unfold State.openTray at ht
  split at ht
  · cases ht
  · cases ht
    exact (h.setTray _ _).tables _

@[simp] theorem joinTray (h : Within a s) (l : Loan) (c : Container) (g : Idx8) : Within a (s.joinTray l c g) := by
  unfold State.joinTray
  split <;> simp (maxDischargeDepth := 20) [*]

@[simp] theorem shipLoan (h : Within a s) (r : Fin 16) (x : Tray) (l : Loan) : Within a (s.shipLoan r x l) := by
  unfold State.shipLoan
  dsimp only
  split <;> simp (maxDischargeDepth := 20) [*]

/-! ### Offers -/

@[simp] theorem trayOffer (h : Within a s) (k : Nat) : Within a (s.trayOffer k) := by
  induction k generalizing s with
  | zero => exact h
  | succ k ih =>
    unfold State.trayOffer
    split
    · exact h
    · split
      · exact h
      · split
        next ht => exact ih ((h.offerPaced_eq ht).shipLoan _ _ _)
        next ht => exact h.offerPaced_eq ht

@[simp] theorem releaseSent (h : Within a s) (e : Entry) : Within a (s.releaseSent e) := by
  unfold State.releaseSent
  dsimp only
  split
  · exact ((h.modEntry _ _).book _).dropEntry _
  · exact (h.modEntry _ _).book _

@[simp] theorem bookOffer (h : Within a s) (k : Nat) : Within a (s.bookOffer k) := by
  induction k generalizing s with
  | zero => exact h
  | succ k ih =>
    unfold State.bookOffer
    split
    · exact h
    · split
      next ht => exact ih ((h.offerPaced_eq ht).releaseSent _)
      next ht => exact h.offerPaced_eq ht

/-- A back mark is sent; a foreign return's outbox entry needs the place that `outboxRoom` has tested. -/
theorem sendBackMark (h : Within a s) (n : Idx8) (c : Check)
    (hr : c.mode = .foreignReturn → s.returns.outbox.length < 16) : Within a (s.sendBackMark n c) := by
  unfold State.sendBackMark
  split
  · exact h
  · dsimp only
    split
    next hm _ =>
      refine ((h.putSock _ _).startGuarded _ _).returns _ fun _ => ?_
      have := hr hm
      simp only [List.length_append, List.length_singleton]
      show s.returns.outbox.length + 1 ≤ 16
      omega
    · exact (h.putSock _ _).startGuarded _ _

theorem outboxRoom_length {s : State} {n : LoanNo} (h : s.outboxRoom n = true) : s.returns.outbox.length < 16 := by
  simp only [State.outboxRoom, Bool.and_eq_true, decide_eq_true_eq] at h
  exact h.1

@[simp] theorem serveWaiting (h : Within a s) (n : Idx8) : Within a (s.serveWaiting n) := by
  unfold State.serveWaiting
  split
  · split
    · split
      next ho =>
        exact (h.returns { s.returns with wait := s.returns.wait.filter (· != n) } id).sendBackMark _ _ fun _ =>
          outboxRoom_length ho
      · exact h
    · exact h
  · exact h

@[simp] theorem serveWaitList (h : Within a s) : Within a s.serveWaitList := foldl (fun _ _ ht => ht.serveWaiting _) _ h

@[simp] theorem returnsOffer (h : Within a s) (k : Nat) : Within a (s.returnsOffer k) := by
  induction k generalizing s with
  | zero => exact h
  | succ k ih =>
    unfold State.returnsOffer
    split
    · exact h
    · split
      next ht =>
        exact ih (((h.offerPaced_eq ht).returns _ fun hl => Nat.le_trans (List.length_filter_le _ _) hl).serveWaitList)
      next ht => exact h.offerPaced_eq ht

@[simp] theorem setCondition (h : Within a s) (n : LoanNo) (c : Condition) (b : Bool) :
    Within a (s.setCondition n c b) := by
  unfold State.setCondition
  dsimp only
  have hw : Within a { s with
      returns :=
        { s.returns with
          outbox := s.returns.outbox.map fun e =>
            if e.loan = n then
              { e with condition := some c, held := b, socket := if b then e.socket else none }
            else e } } := h.returns _ (by simp)
  split
  · exact hw
  · exact hw.returnsOffer _

@[simp] theorem requestScan (h : Within a s) : Within a s.requestScan := by
  unfold State.requestScan
  split <;> exact h.scan _

@[simp] theorem visitEnd (h : Within a s) : Within a s.visitEnd := by
  unfold State.visitEnd
  dsimp only
  (repeat' split) <;> exact h.scan _

@[simp] theorem closeTest (h : Within a s) (n : LoanNo) : Within a (s.closeTest n) := by
  unfold State.closeTest
  (repeat' split) <;> simp (maxDischargeDepth := 20) [*]

@[simp] theorem scanOffer (h : Within a s) (n : LoanNo) (k : Nat) : Within a (s.scanOffer n k) := by
  induction k generalizing s with
  | zero => exact h
  | succ k ih =>
    unfold State.scanOffer
    split
    · exact h.visitEnd
    · split
      · exact h.visitEnd
      · split
        next ht => exact ih (((h.offerPaced_eq ht).modLoan _ _).closeTest _)
        next ht => exact (h.offerPaced_eq ht).scan _

@[simp] theorem ownerOffer (h : Within a s) (o : PacedOwner) : Within a (s.ownerOffer o) := by
  cases o <;> unfold State.ownerOffer
  · exact h.bookOffer _
  · exact h.returnsOffer _
  · exact h.trayOffer _
  · dsimp only
    split <;> simp (maxDischargeDepth := 20) [*]

@[simp] theorem nothingToOffer (h : Within a s) (o : PacedOwner) : Within a (s.nothingToOffer o) := by
  unfold State.nothingToOffer
  dsimp only
  split <;> simp (maxDischargeDepth := 20) [*]

@[simp] theorem roomEvent (h : Within a s) (k : Nat) : Within a (s.roomEvent k) := by
  induction k generalizing s with
  | zero => exact h
  | succ k ih =>
    unfold State.roomEvent
    split
    · exact h
    · split
      · exact h
      · split
        · exact h.ownerOffer _
        · exact ih (h.nothingToOffer _)

/-! ### The Order Book -/

@[simp] theorem bidWithdrawn (h : Within a s) (o : OrderNo) (c : Option Cause) : Within a (s.bidWithdrawn o c) := by
  unfold State.bidWithdrawn
  split
  · exact h
  · dsimp only
    (repeat' split) <;> simp (maxDischargeDepth := 20) [*]

@[simp] theorem withdrawBid (h : Within a s) (o : OrderNo) (c : Cause) : Within a (s.withdrawBid o c) := by
  unfold State.withdrawBid
  split
  · exact h
  · split
    · exact h.setEntryState _ _
    · split
      · exact h
      · split
        · exact (h.setEntryState _ _).tx _ (by simp [modFirst_length])
        · simp (maxDischargeDepth := 20) [*]
    · exact h

@[simp] theorem sendHeld (h : Within a s) (e : Entry) : Within a (s.sendHeld e) := by
  unfold State.sendHeld
  split
  · exact h
  · split
    next ht => exact (h.offerUrgent _ _ ht).modEntry _ _
    · exact h

@[simp] theorem ownRelease (h : Within a s) (e : Entry) (w : Reason) : Within a (s.ownRelease e w) := by
  unfold State.ownRelease
  dsimp only
  split
  · exact ((h.modEntry _ _).book _).bookOffer _
  · exact (h.modEntry _ _).book _

@[simp] theorem titleVoid (h : Within a s) (w : Work) : Within a (s.titleVoid w) :=
  foldl (fun _ _ ht => ht.withdrawBid _ _) _ h

theorem bookRoom (h : Within a s) {t : State} (ht : s.bookRoom = some t) : Within a t := by
  unfold State.bookRoom at ht
  split at ht
  · cases ht; exact h
  · cases he : s.book.evictee <;> rw [he] at ht
    · cases ht
    · cases ht; exact h.dropEntry _

/-! ### The Copy Engine -/

@[simp] theorem grant (h : Within a s) : Within a s.grant := by
  unfold State.grant
  split
  · exact h
  · split
    · exact h
    · exact (h.setBuffer _ _).copy _

@[simp] theorem requestBlock (h : Within a s) (b : Fin 4) (r : StoreReq) : Within a (s.requestBlock b r) :=
  (h.setBuffer _ _).grant

@[simp] theorem freeBuffer (h : Within a s) (b : Fin 4) : Within a (s.freeBuffer b) := by
  unfold State.freeBuffer
  split <;> simp (maxDischargeDepth := 20) [*]

@[simp] theorem requestRead (h : Within a s) (g : Gang) (b : Fin 4) : Within a (s.requestRead g b) := h.requestBlock _ _

@[simp] theorem putProgress (h : Within a s) (n : Idx8) (m : Member) (p : Progress) : Within a (s.putProgress n m p) :=
  h.putSock _ _

@[simp] theorem startPage (h : Within a s) (n : Idx8) (i : Nat) (d : List Byte) (k : Nat) :
    Within a (s.startPage n i d k) := h.startGuarded _ _

@[simp] theorem startWork (h : Within a s) (n : Idx8) (m : Member) (g : Gang) (b : Bool) :
    Within a (s.startWork n m g b) := by
  unfold State.startWork
  split <;> simp (maxDischargeDepth := 20) [*]

@[simp] theorem startFinishing (h : Within a s) (n : Idx8) (m : Member) : Within a (s.startFinishing n m) :=
  (h.putSock _ _).startGuarded _ _

@[simp] theorem gangAdvance (h : Within a s) (g : Nat) : Within a (s.gangAdvance g) := by
  unfold State.gangAdvance
  split
  · exact h
  · split
    · exact h
    · dsimp only
      split
      · split
        · exact (foldl (fun _ _ ht => ht.putProgress _ _ _) _ (h.modGang _ _)).requestRead _ _
        · exact (foldl (fun _ _ ht => ht.startFinishing _ _) _ (h.modGang _ _)).freeBuffer _
      · exact h

@[simp] theorem leaveGang (h : Within a s) (g : Nat) : Within a (s.leaveGang g) := by
  unfold State.leaveGang
  dsimp only
  split
  · split
    · exact (h.copy _).freeBuffer _
    · exact h.copy _
  · exact h.gangAdvance _

@[simp] theorem memberPrepared (h : Within a s) (n : Idx8) (m : Member) : Within a (s.memberPrepared n m) := by
  unfold State.memberPrepared
  (repeat' split) <;> simp (maxDischargeDepth := 20) [*]

@[simp] theorem memberFinished (h : Within a s) (n : Idx8) (m : Member) : Within a (s.memberFinished n m) :=
  (h.putProgress _ _ _).gangAdvance _

@[simp] theorem workNext (h : Within a s) (n : Idx8) (m : Member) (t : WorkStep) (b : Bool) :
    Within a (s.workNext n m t b) := by
  unfold State.workNext
  split
  · exact h
  · cases t <;> dsimp only <;> (repeat' split) <;> simp (maxDischargeDepth := 20) [*]

@[simp] theorem takeJob (h : Within a s) (g : Nat) (n : Idx8) (j : Job) : Within a (s.takeJob g n j) := by
  unfold State.takeJob
  simp (maxDischargeDepth := 20) [*]

theorem dispatchHead (h : Within a s) {t : State} (ht : s.dispatchHead = some t) : Within a t := by
  unfold State.dispatchHead at ht
  split at ht
  · cases ht
  · split at ht
    · cases ht
      exact (foldl (fun _ _ ht => ht.takeJob _ _ _) _ ((h.setBuffer _ _).copy _)).requestRead _ _
    · cases ht

@[simp] theorem dispatchAll (h : Within a s) (k : Nat) : Within a (s.dispatchAll k) := by
  induction k generalizing s with
  | zero => exact h
  | succ k ih =>
    unfold State.dispatchAll
    split
    next ht => exact ih (h.dispatchHead ht)
    · exact h

@[simp] theorem startCleaning (h : Within a s) (n : Idx8) : Within a (s.startCleaning n) :=
  (h.putSock _ _).startGuarded _ _

@[simp] theorem cleanTest (h : Within a s) : Within a s.cleanTest := by
  unfold State.cleanTest
  split
  · refine foldl (fun t n ht => ?_) _ h
    split <;> simp (maxDischargeDepth := 20) [*]
  · exact h

@[simp] theorem ingestTakes (h : Within a s) (n : Idx8) (i : Ingest) (b : Fin 4) : Within a (s.ingestTakes n i b) :=
  ((h.setBuffer _ _).putSock _ _).startBlockRead _ _

@[simp] theorem serveIngest (h : Within a s) (k : Nat) : Within a (s.serveIngest k) := by
  induction k generalizing s with
  | zero => exact h
  | succ k ih =>
    unfold State.serveIngest
    split
    · dsimp only
      split
      · exact ih ((h.copy _).ingestTakes _ _ _)
      · exact ih (h.copy _)
    · exact h

@[simp] theorem leaveAborting (h : Within a s) (n : Idx8) : Within a (s.leaveAborting n) := by
  unfold State.leaveAborting
  (repeat' split) <;> simp (maxDischargeDepth := 20) [*]

@[simp] theorem abortMember (h : Within a s) (n : Idx8) (m : Member) : Within a (s.abortMember n m) := by
  unfold State.abortMember
  dsimp only
  split <;> simp (maxDischargeDepth := 20) [*]

/-! ### The Loan Register -/

@[simp] theorem unwindCart (h : Within a s) (n : LoanNo) (c : CartPart) : Within a (s.unwindCart n c) := by
  unfold State.unwindCart
  dsimp only
  (repeat' split) <;> simp (maxDischargeDepth := 20) [*]

@[simp] theorem unwindBraille (h : Within a s) (b : BraillePart) : Within a (s.unwindBraille b) := by
  unfold State.unwindBraille
  split <;> simp (maxDischargeDepth := 20) [*]

@[simp] theorem unwind (h : Within a s) (l : Loan) (k : Skip) : Within a (s.unwind l k) := by
  unfold State.unwind
  dsimp only
  have h1 : Within a (if l.state = .packed then s.removeFromTray l else s) := by split <;> simp (maxDischargeDepth := 20) [*]
  refine dropLoan ?_ _
  generalize (if l.state = .packed then s.removeFromTray l else s) = t at h1
  have h2 : Within a (match l.cart with | some c => if k.cart then t else t.unwindCart l.number c | none => t) := by
    (repeat' split) <;> simp (maxDischargeDepth := 20) [*]
  generalize (match l.cart with | some c => if k.cart then t else t.unwindCart l.number c | none => t) = u at h2
  (repeat' split) <;> simp (maxDischargeDepth := 20) [*]

@[simp] theorem withdraw (h : Within a s) (n : LoanNo) : Within a (s.withdraw n).1 := by
  unfold State.withdraw
  (repeat' split) <;> simp (maxDischargeDepth := 20) [*]

theorem withdraw_eq (h : Within a s) {n : LoanNo} {t : State} {b : Bool} (ht : s.withdraw n = (t, b)) : Within a t := by
  have := h.withdraw n
  rwa [ht] at this

@[simp] theorem release (h : Within a s) (n : LoanNo) (w : Reason) (k : Skip) : Within a (s.release n w k) := by
  unfold State.release
  split
  · exact h
  · split
    · dsimp only
      split <;> simp (maxDischargeDepth := 20) [*]
    · exact h

@[simp] theorem titleVoidFailure (h : Within a s) (n : LoanNo) : Within a (s.titleVoidFailure n) := by
  unfold State.titleVoidFailure
  split <;> simp (maxDischargeDepth := 20) [*]

@[simp] theorem createJob (h : Within a s) (n : LoanNo) (w : Work) (m e : Nat) : Within a (s.createJob n w m e) := by
  unfold State.createJob
  split
  · exact h.copy _
  · exact h.titleVoidFailure _

@[simp] theorem fallback (h : Within a s) (l : Loan) : Within a (s.fallback l) := by
  unfold State.fallback
  (repeat' split) <;> simp (maxDischargeDepth := 20) [*]

@[simp] theorem cartFault (h : Within a s) (j : Job) : Within a (s.cartFault j) := by
  unfold State.cartFault
  (repeat' split) <;> simp (maxDischargeDepth := 20) [*]

@[simp] theorem taggingFault (h : Within a s) (n : LoanNo) : Within a (s.taggingFault n) := by
  unfold State.taggingFault
  (repeat' split) <;> simp (maxDischargeDepth := 20) [*]

@[simp] theorem cartridgeLost (h : Within a s) (n : LoanNo) (x : Serial) : Within a (s.cartridgeLost n x) := by
  unfold State.cartridgeLost
  split
  · exact h
  · split
    · split
      · dsimp only
        have h1 : ∀ l : Loan, Within a (if l.state = .packed then s.removeFromTray l else s) := by
          intro l; split <;> simp (maxDischargeDepth := 20) [*]
        split
        · exact ((h1 _).modLoan _ _).fallback _
        · exact (h1 _).modLoan _ _
      · exact h
    · exact h

@[simp] theorem recoveryNotice (h : Within a s) (l : Loan) : Within a (s.recoveryNotice l) := by
  unfold State.recoveryNotice
  (repeat' split) <;> simp (maxDischargeDepth := 20) [*]

@[simp] theorem cartReturn (h : Within a s) (n : LoanNo) (x : Serial) : Within a (s.cartReturn n x) := by
  unfold State.cartReturn
  (repeat' split) <;> simp (maxDischargeDepth := 20) [*]

@[simp] theorem startCart (h : Within a s) (e : Entry) (p : Pledge) (n : LoanNo) : Within a (s.startCart e p n) := by
  unfold State.startCart
  (repeat' split) <;> simp (maxDischargeDepth := 20) [*]

@[simp] theorem startBraille (h : Within a s) (e : Entry) (n : LoanNo) : Within a (s.startBraille e n) := by
  unfold State.startBraille
  split <;> simp (maxDischargeDepth := 20) [*]

@[simp] theorem win (h : Within a s) (e : Entry) (p : Pledge) : Within a (s.win e p) := by
  unfold State.win
  dsimp only
  exact ((((h.addLoan _).tables _).setEntryState _ _).startCart _ _ _).startBraille _ _

/-! ### The Returns Unit -/

@[simp] theorem condition (h : Within a s) (c : Check) (x : Condition) (b : Bool) : Within a (s.condition c x b) := by
  unfold State.condition
  split <;> simp (maxDischargeDepth := 20) [*]

@[simp] theorem startErase (h : Within a s) (n : Idx8) (c : Check) (k : Nat) : Within a (s.startErase n c k) := by
  unfold State.startErase
  simp (maxDischargeDepth := 20) [*]

@[simp] theorem startVerify (h : Within a s) (n : Idx8) (c : Check) (i : Nat) (x : BitVec 32) :
    Within a (s.startVerify n c i x) := (h.putSock _ _).startBlockRead _ _

@[simp] theorem retire (h : Within a s) (n : Idx8) (c : Check) : Within a (s.retire n c) :=
  (h.rejectSocket _ _).condition _ _ _

@[simp] theorem dispose (h : Within a s) (n : Idx8) (c : Check) : Within a (s.dispose n c) := by
  unfold State.dispose
  (repeat' split) <;> simp (maxDischargeDepth := 20) [*]

@[simp] theorem keepRecord (h : Within a s) (v : View) : Within a (s.keepRecord v) := by
  unfold State.keepRecord
  split
  · exact h.modStock _ _
  · exact h.tables _

@[simp] theorem keep (h : Within a s) (n : Idx8) (c : Check) (v : View) : Within a (s.keep n c v) :=
  ((((h.modSocket _ _).keepRecord _).cartridgeGain _).raise _).condition _ _ _

@[simp] theorem verifyEnd (h : Within a s) (n : Idx8) (c : Check) (v : View) (x : BitVec 32) :
    Within a (s.verifyEnd n c v x) := by
  unfold State.verifyEnd
  (repeat' split) <;> simp (maxDischargeDepth := 20) [*]

@[simp] theorem verifyRead (h : Within a s) (n : Idx8) (c : Check) (i : Nat) (x : BitVec 32) (b : List Byte) :
    Within a (s.verifyRead n c i x b) := by
  unfold State.verifyRead
  dsimp only
  (repeat' split) <;> simp (maxDischargeDepth := 20) [*]

@[simp] theorem handOver (h : Within a s) (n : Idx8) (c : Check) : Within a (s.handOver n c) := by
  unfold State.handOver
  split <;> simp (maxDischargeDepth := 20) [*]

@[simp] theorem slotClosed (h : Within a s) (n : Idx8) (c : Check) : Within a (s.slotClosed n c) :=
  (h.handOver _ _).dispose _ _

@[simp] theorem slotCloseFailed (h : Within a s) (n : Idx8) (c : Check) : Within a (s.slotCloseFailed n c) := by
  unfold State.slotCloseFailed
  simp (maxDischargeDepth := 20) [*]

@[simp] theorem eraseDone (h : Within a s) (n : Idx8) (c : Check) : Within a (s.eraseDone n c) := by
  unfold State.eraseDone
  simp (maxDischargeDepth := 20) [*]

@[simp] theorem eraseFailed (h : Within a s) (n : Idx8) (c : Check) : Within a (s.eraseFailed n c) := by
  unfold State.eraseFailed
  simp (maxDischargeDepth := 20) [*]

@[simp] theorem enterReturn (h : Within a s) (n : Idx8) (k : Nat) (l : LoanNo) (b : Bool) :
    Within a (s.enterReturn n k l b) := by
  unfold State.enterReturn
  split
  · exact h.sendBackMark _ _ (by simp)
  · dsimp only
    split
    next ho => exact h.sendBackMark _ _ fun _ => outboxRoom_length ho
    · exact (h.modSocket _ _).returns _ id

@[simp] theorem lateClose (h : Within a s) (v : View) : Within a (s.lateClose v) := by
  unfold State.lateClose
  split <;> simp (maxDischargeDepth := 20) [*]

@[simp] theorem enterNoLoan (h : Within a s) (n : Idx8) (v : View) : Within a (s.enterNoLoan n v) := by
  unfold State.enterNoLoan
  simp (maxDischargeDepth := 20) [*]

/-! ### Identification, tagging, ingest -/

@[simp] theorem reissueDone (h : Within a s) (n : Idx8) (l : LoanNo) : Within a (s.reissueDone n l) := by
  unfold State.reissueDone
  simp (maxDischargeDepth := 20) [*]

@[simp] theorem startTag (h : Within a s) (n : Idx8) (l : LoanNo) : Within a (s.startTag n l) := by
  unfold State.startTag
  split <;> simp (maxDischargeDepth := 20) [*]

@[simp] theorem enterTagging (h : Within a s) (n : Idx8) (v : View) (l : LoanNo) : Within a (s.enterTagging n v l) := by
  unfold State.enterTagging
  dsimp only
  split <;> simp (maxDischargeDepth := 20) [*]

@[simp] theorem tagWritten (h : Within a s) (n : Idx8) (l : LoanNo) (b : Bool) : Within a (s.tagWritten n l b) := by
  unfold State.tagWritten
  (repeat' split) <;> simp (maxDischargeDepth := 20) [*]

@[simp] theorem tagFailed (h : Within a s) (n : Idx8) (l : LoanNo) : Within a (s.tagFailed n l) := by
  unfold State.tagFailed
  simp (maxDischargeDepth := 20) [*]

@[simp] theorem loadEntry (h : Within a s) (v : View) (b : Nat) : Within a (s.loadEntry v b) := by
  unfold State.loadEntry
  dsimp only
  split
  · simp (maxDischargeDepth := 20) [*]
  · exact h.tables _

@[simp] theorem startIngest (h : Within a s) (n : Idx8) (v : View) (b : Nat) : Within a (s.startIngest n v b) := by
  unfold State.startIngest
  dsimp only
  split
  · simp (maxDischargeDepth := 20) [*]
  · exact ((h.loadEntry _ _).modSocket _ _).copy _

@[simp] theorem leaveIngest (h : Within a s) (n : Idx8) (i : Ingest) : Within a (s.leaveIngest n i) := by
  unfold State.leaveIngest
  dsimp only
  split
  · exact (h.copy _).freeBuffer _
  · exact h.copy _

@[simp] theorem abandonIngest (h : Within a s) (n : Idx8) (i : Ingest) : Within a (s.abandonIngest n i) :=
  (h.dropDir _).leaveIngest _ _

@[simp] theorem ingestEnd (h : Within a s) (n : Idx8) (i : Ingest) (d : DirEntry) : Within a (s.ingestEnd n i d) := by
  unfold State.ingestEnd
  dsimp only
  split <;> simp (maxDischargeDepth := 20) [*]

@[simp] theorem ingestWritten (h : Within a s) (n : Idx8) (i : Ingest) (b : Bool) : Within a (s.ingestWritten n i b) := by
  unfold State.ingestWritten
  (repeat' split) <;> simp (maxDischargeDepth := 20) [*]

@[simp] theorem ingestRead (h : Within a s) (n : Idx8) (i : Ingest) (b : List Byte) : Within a (s.ingestRead n i b) := by
  unfold State.ingestRead
  dsimp only
  split <;> simp (maxDischargeDepth := 20) [*]

@[simp] theorem classifyOpen (h : Within a s) (n : Idx8) (v : View) (k : Nat) : Within a (s.classifyOpen n v k) := by
  unfold State.classifyOpen
  dsimp only
  (repeat' split) <;> simp (maxDischargeDepth := 20) [*]

@[simp] theorem classifyRest (h : Within a s) (n : Idx8) (v : View) (r : Option StockRec) :
    Within a (s.classifyRest n v r) := by
  unfold State.classifyRest
  (repeat' split) <;> simp (maxDischargeDepth := 20) [*]

@[simp] theorem classify (h : Within a s) (n : Idx8) (v : View) : Within a (s.classify n v) := by
  unfold State.classify
  (repeat' split) <;> simp (maxDischargeDepth := 20) [*]

@[simp] theorem identified (h : Within a s) (n : Idx8) (x y : List Byte) : Within a (s.identified n x y) := by
  unfold State.identified
  split <;> simp (maxDischargeDepth := 20) [*]

/-! ### The ends of an operation -/

@[simp] theorem finishDone (h : Within a s) (n : Idx8) (m : Member) : Within a (s.finishDone n m) := by
  unfold State.finishDone
  simp (maxDischargeDepth := 20) [*]

@[simp] theorem finishingNext (h : Within a s) (n : Idx8) (m : Member) (b : Bool) : Within a (s.finishingNext n m b) := by
  unfold State.finishingNext
  split <;> simp (maxDischargeDepth := 20) [*]

@[simp] theorem memberFault (h : Within a s) (n : Idx8) (m : Member) : Within a (s.memberFault n m) := by
  unfold State.memberFault
  simp (maxDischargeDepth := 20) [*]

@[simp] theorem opSucceeded (h : Within a s) (n : Idx8) : Within a (s.opSucceeded n) := by
  unfold State.opSucceeded
  split <;> (try split) <;> simp (maxDischargeDepth := 20) [*]

@[simp] theorem readEnded (h : Within a s) (n : Idx8) (b : List Byte) : Within a (s.readEnded n b) := by
  unfold State.readEnded
  (repeat' split) <;> simp (maxDischargeDepth := 20) [*]

@[simp] theorem opFailed (h : Within a s) (n : Idx8) : Within a (s.opFailed n) := by
  unfold State.opFailed
  split <;> (try split) <;> simp (maxDischargeDepth := 20) [*]

/-! ### The end of an event -/

@[simp] theorem drainRefused (h : Within a s) : Within a s.drainRefused := by
  unfold State.drainRefused
  refine foldl (fun t n ht => ?_) _ h
  split <;> simp (maxDischargeDepth := 20) [*]

@[simp] theorem tests (h : Within a s) : Within a s.tests := by
  unfold State.tests
  simp (maxDischargeDepth := 20) [*]

@[simp] theorem settle (h : Within a s) (k : Nat) : Within a (s.settle k) := by
  induction k generalizing s with
  | zero => exact h
  | succ k ih =>
    unfold State.settle
    dsimp only
    have h1 : Within a (if s.anyRefused then s.drainRefused else s).tests := by
      cases s.anyRefused
      · exact h.tests
      · exact h.drainRefused.tests
    generalize (if s.anyRefused then s.drainRefused else s).tests = t at h1
    split
    · exact ih h1
    · exact h1

/-! ### Events -/

@[simp] theorem afterMemberRemoved (h : Within a s) (n : Idx8) (m : Member) : Within a (s.memberRemoved n m) := by
  unfold State.memberRemoved State.emptySocket
  simp (maxDischargeDepth := 20) [*]

@[simp] theorem emptySocket (h : Within a s) (n : Idx8) : Within a (s.emptySocket n) := h.sockets _

@[simp] theorem lockSocket (h : Within a s) (n : Idx8) : Within a (s.lockSocket n) := h.sockets _

@[simp] theorem sendCommand (h : Within a s) (n : Idx8) (g : Guarded) : Within a (s.sendCommand n g) := h.sockets _

@[simp] theorem startIdentify (h : Within a s) (n : Idx8) : Within a (s.startIdentify n) := h.sockets _

@[simp] theorem seat (h : Within a s) (n : Idx8) : Within a (s.seat n) := h.sockets _

@[simp] theorem checkRemoved (h : Within a s) (n : Idx8) (c : Check) : Within a (s.checkRemoved n c) := by
  unfold State.checkRemoved
  split
  · exact (h.emptySocket _).returns _ id
  · simp (maxDischargeDepth := 20) [*]
  · simp (maxDischargeDepth := 20) [*]

@[simp] theorem removed (h : Within a s) (n : Idx8) : Within a (s.removed n) := by
  unfold State.removed
  split <;> simp (maxDischargeDepth := 20) [*]

@[simp] theorem locked (h : Within a s) (n : Idx8) (b : Bool) : Within a (s.locked n b) := by
  unfold State.locked
  split <;> simp (maxDischargeDepth := 20) [*]

@[simp] theorem sendLock (h : Within a s) (n : Idx8) (held b : Bool) : Within a (s.sendLock n held b) := by
  unfold State.sendLock
  split <;> simp (maxDischargeDepth := 20) [*]

@[simp] theorem holdStarts (h : Within a s) (n : Idx8) (t : HeldTransfer) : Within a (s.holdStarts n t) := by
  obtain e | ⟨x, -, -, e⟩ := s.holdStarts_cases n t <;> rw [e]
  · exact h
  · exact h.sockets _

@[simp] theorem guardSucceeds (h : Within a s) (n : Idx8) (g : Guarded) : Within a (s.guardSucceeds n g) := by
  unfold State.guardSucceeds
  simp (maxDischargeDepth := 20) [*]

@[simp] theorem answered (h : Within a s) (n : Idx8) (o : Op) (x : StateAnswer) (b : Bool) :
    Within a (s.answered n o x b) := by
  unfold State.answered
  (repeat' split) <;> simp (maxDischargeDepth := 20) [*]

@[simp] theorem holdFails (h : Within a s) (n : Idx8) (o : Op) (b : Bool) : Within a (s.holdFails n o b) := by
  unfold State.holdFails
  split <;> simp (maxDischargeDepth := 20) [*]

@[simp] theorem drainBuffer (h : Within a s) (b : Fin 4) : Within a (s.drainBuffer b) := by
  unfold State.drainBuffer
  split <;> simp (maxDischargeDepth := 20) [*]

@[simp] theorem blockLoaded (h : Within a s) (b : Fin 4) (d : List Byte) : Within a (s.blockLoaded b d) := by
  unfold State.blockLoaded
  split
  · split
    · dsimp only
      refine foldl (fun t p ht => ?_) _ ((h.setBuffer _ _).modGang _ _)
      split <;> simp (maxDischargeDepth := 20) [*]
    · exact h
  · exact h

@[simp] theorem voidEntry (h : Within a s) (w : Work) (k : Nat) : Within a (s.voidEntry w k) := by
  unfold State.voidEntry
  (repeat' split) <;> simp (maxDischargeDepth := 20) [*]

@[simp] theorem abortAll (h : Within a s) (ms : List (Idx8 × Member)) : Within a (s.abortAll ms) := by
  unfold State.abortAll
  dsimp only
  refine foldl (fun t p ht => ?_) _
    (foldl (fun _ _ ht => ht.leaveGang _) _ (foldl (fun _ _ ht => ht.putSock _ _) _ h))
  split <;> simp (maxDischargeDepth := 20) [*]

@[simp] theorem titleVoidFailures (h : Within a s) (l : List LoanNo) : Within a (s.titleVoidFailures l) :=
  foldl (fun _ _ ht => ht.titleVoidFailure _) _ h

@[simp] theorem voidJobs (h : Within a s) (w : Work) : Within a (s.voidJobs w) := (h.copy _).titleVoidFailures _

@[simp] theorem voidTitle (h : Within a s) (w : Work) (k : Nat) : Within a (s.voidTitle w k) := by
  unfold State.voidTitle
  simp (maxDischargeDepth := 20) [*]

@[simp] theorem blockWritten (h : Within a s) (b : Fin 4) (x : Bool) : Within a (s.blockWritten b x) := by
  unfold State.blockWritten
  (repeat' split) <;> simp (maxDischargeDepth := 20) [*]

@[simp] theorem heardHolder (h : Within a s) (o : OrderNo) (x : Station) : Within a (s.heardHolder o x) := by
  unfold State.heardHolder
  (repeat' split) <;> simp (maxDischargeDepth := 20) [*]

@[simp] theorem yieldTo (h : Within a s) (o : OrderNo) (l : LoanNo) (x : Station) : Within a (s.yieldTo o l x) := by
  unfold State.yieldTo
  split
  next ht => exact (h.withdraw_eq ht).setEntryState _ _
  next ht => exact h.withdraw_eq ht

@[simp] theorem heardHeld (h : Within a s) (o : OrderNo) (x : Station) : Within a (s.heardHeld o x) := by
  unfold State.heardHeld
  (repeat' split) <;> simp (maxDischargeDepth := 20) [*]

@[simp] theorem endOrder (h : Within a s) (o : OrderNo) : Within a (s.endOrder o) := by
  unfold State.endOrder
  split
  · exact h
  · split
    · split
      next ht => exact (h.withdraw_eq ht).dropEntry _
      next ht => exact h.withdraw_eq ht
    all_goals simp (maxDischargeDepth := 20) [*]

@[simp] theorem cancelOrder (h : Within a s) (o : OrderNo) (x : Station) : Within a (s.cancelOrder o x) := by
  unfold State.cancelOrder
  split <;> simp (maxDischargeDepth := 20) [*]

@[simp] theorem reopenOrder (h : Within a s) (e : Entry) (c : BitVec 2) (t : Millis) : Within a (s.reopenOrder e c t) := by
  unfold State.reopenOrder
  (repeat' split) <;> simp (maxDischargeDepth := 20) [*]

@[simp] theorem heardRelease (h : Within a s) (o : OrderNo) (c : BitVec 2) (t : Millis) :
    Within a (s.heardRelease o c t) := by
  unfold State.heardRelease
  (repeat' split) <;> simp (maxDischargeDepth := 20) [*]

@[simp] theorem heardDate (h : Within a s) (d : Day) : Within a (s.heardDate d) := by
  unfold State.heardDate
  split
  · exact ((h.tables _).age _).requestScan
  · exact h

@[simp] theorem heardReturned (h : Within a s) (n : LoanNo) (x : Serial) : Within a (s.heardReturned n x) := by
  unfold State.heardReturned
  split <;> simp (maxDischargeDepth := 20) [*]

@[simp] theorem bookOrder (h : Within a s) (e : Entry) : Within a (s.bookOrder e) := by
  unfold State.bookOrder
  split
  · exact h
  · split
    next ht => exact (h.bookRoom ht).addEntry _
    · exact h

@[simp] theorem placeBid (h : Within a s) (e : Entry) (x : BidAnswer) : Within a (s.placeBid e x) := by
  unfold State.placeBid
  split
  next ht => exact ((h.makePledges _ _ _ _).offerUrgent _ _ ht).setEntryState _ _
  · exact h.setEntryState _ _

@[simp] theorem expireWindow (h : Within a s) (e : Entry) : Within a (s.expireWindow e) := by
  unfold State.expireWindow
  (repeat' split) <;> simp (maxDischargeDepth := 20) [*]

@[simp] theorem visit (h : Within a s) (l : Loan) : Within a (s.visit l) := ((h.modLoan _ _).scan _).scanOffer _ _

@[simp] theorem bidCompleted (h : Within a s) (o : OrderNo) : Within a (s.bidCompleted o) := by
  unfold State.bidCompleted
  (repeat' split) <;> simp (maxDischargeDepth := 20) [*]

@[simp] theorem completion (h : Within a s) (p : Payload) : Within a (s.completion p) := by
  unfold State.completion
  split <;> simp (maxDischargeDepth := 20) [*]

@[simp] theorem removeWithdrawn (h : Within a s) (x : TxEntry) : Within a (s.removeWithdrawn x) := by
  unfold State.removeWithdrawn
  split <;> simp (maxDischargeDepth := 20) [*]

/-! ### The bench's owners -/

@[simp] theorem packReady (h : Within a s) (l : Loan) (c : Container) : Within a (s.packReady l c) := by
  unfold State.packReady
  dsimp only
  split
  · simp (maxDischargeDepth := 20) [*]
  · split
    next ht => exact ((h.closeFull _ _).openTray ht).joinTray _ _ _
    · simp (maxDischargeDepth := 20) [*]

@[simp] theorem pack (h : Within a s) (b : BenchLoan) (c : Nat) : Within a (s.pack b c) := by
  unfold State.pack
  (repeat' split) <;> simp (maxDischargeDepth := 20) [*]

@[simp] theorem pick (h : Within a s) (b : BenchLoan) : Within a (s.pick b) := by
  unfold State.pick
  (repeat' split) <;> simp (maxDischargeDepth := 20) [*]

@[simp] theorem back (h : Within a s) (b : BenchLoan) : Within a (s.back b) := by
  unfold State.back State.brailleReturn
  (repeat' split) <;> simp (maxDischargeDepth := 20) [*]

@[simp] theorem nocart (h : Within a s) (b : BenchLoan) : Within a (s.nocart b) := by
  unfold State.nocart
  (repeat' split) <;> simp (maxDischargeDepth := 20) [*]

@[simp] theorem noset (h : Within a s) (b : BenchLoan) : Within a (s.noset b) := by
  unfold State.noset
  (repeat' split) <;> simp (maxDischargeDepth := 20) [*]

@[simp] theorem shelve (h : Within a s) (x k : Nat) : Within a (s.shelve x k) := by
  unfold State.shelve
  (repeat' split) <;> simp (maxDischargeDepth := 20) [*]

@[simp] theorem drop (h : Within a s) (t e : Nat) : Within a (s.drop t e) := by
  unfold State.drop
  (repeat' split) <;> simp (maxDischargeDepth := 20) [*]

@[simp] theorem installSet (h : Within a s) (t e v k : Nat) : Within a (s.installSet t e v k) := by
  unfold State.installSet
  dsimp only
  (repeat' split) <;> simp (maxDischargeDepth := 20) [*]

@[simp] theorem takeTray (h : Within a s) (p : Fin 16 × Tray) : Within a (s.takeTray p) :=
  ((h.setTray _ _).tables _).raise _

@[simp] theorem dispatch (h : Within a s) : Within a s.dispatch := by
  unfold State.dispatch
  split
  · exact h.raise _
  · split
    · exact h.raise _
    next p ps _ =>
      have ht := foldl (f := State.takeTray) (fun _ x ht => Within.takeTray ht x) (p :: ps) h
      generalize (p :: ps).foldl State.takeTray s = t at ht
      dsimp only
      split
      · exact ht.trayOffer _
      · exact ht

@[simp] theorem showSockets (h : Within a s) : Within a s.showSockets := foldl (fun _ _ ht => ht.raise _) _ h

@[simp] theorem showTrays (h : Within a s) : Within a s.showTrays := by
  unfold State.showTrays
  refine foldl (fun t p ht => ?_) _ (h.raise _)
  split <;> simp (maxDischargeDepth := 20) [*]

@[simp] theorem showLoan (h : Within a s) (b : BenchLoan) : Within a (s.showLoan b) := by
  unfold State.showLoan
  split <;> simp (maxDischargeDepth := 20) [*]

end Sys2Proof.Machine.Within
end

