-- ==== Sys2Proof/WellFormed.lean ====
section
/-! DEFINITION. The operands the part's ports can give: a number of a bench line (R169), the bytes of one READ
(R80), a 64 KiB block (R100), at most 256 configuration bytes (R175), a store the port reports. -/

namespace Sys2Proof

/-- A group of digits of a bench line: at most 4,294,967,295 (R169). -/
def benchNumberOk (n : Nat) : Bool := n ≤ 4294967295

def BenchLoan.ok (l : BenchLoan) : Bool := benchNumberOk l.station && benchNumberOk l.sequence

/-- The operands are ones the ports can give. -/
def Instr.wellFormed : Instr → Bool
  | .configRead bytes => bytes.length ≤ 256
  | .frameReceived wave => !wave.isEmpty
  | .lostArbitration e => !e.wave.isEmpty
  | .transmitFailure wave _ => !wave.isEmpty
  | .transmitSuccess e => !e.wave.isEmpty
  | .readCompletion _ bytes _ => 1 ≤ bytes.length && bytes.length ≤ 65536
  | .storeBlockReadEnd block _ _ => block.length == 65536
  | .pack l c _ => l.ok && benchNumberOk c
  | .pick l _ => l.ok
  | .back l _ => l.ok
  | .shelve a b _ => benchNumberOk a && benchNumberOk b
  | .nocart l _ => l.ok
  | .noset l _ => l.ok
  | .drop t e _ => benchNumberOk t && benchNumberOk e
  | .set t e v c _ => benchNumberOk t && benchNumberOk e && benchNumberOk v && benchNumberOk c
  | .showLoan l => l.ok
  | .powerOnReset => true
  | .reset => true
  | .recordMemoryOpen _ => true
  | .recovery => true
  | .receiveError _ => true
  | .order => true
  | .bidHeard _ => true
  | .heldHeard _ => true
  | .shippedHeard _ => true
  | .releaseHeard _ => true
  | .cancel _ => true
  | .date _ => true
  | .returnedHeard _ => true
  | .transmitStart => true
  | .joiningIdle => true
  | .muteExpiry _ => true
  | .windowExpiry _ _ => true
  | .dayScanVisit _ => true
  | .cartridgeInsertion _ => true
  | .identifyLimitExpiry _ => true
  | .cartridgeRemoval _ _ => true
  | .stateCompletion _ _ _ => true
  | .pollLimitExpiry _ _ => true
  | .holdTimeout _ _ => true
  | .storeBlockWriteEnd _ _ => true
  | .trayAgeExpiry _ _ => true
  | .noticeSend => true
  | .benchLineRefused => true
  | .dispatch _ => true
  | .showSockets => true
  | .showTrays => true
  | .lineIdle => true
  | .benchCharacterReceived _ _ _ => true
  | .readyLineHold _ _ => true

end Sys2Proof
end

