-- ==== Sys2Proof/Tests/Slice0.lean ====
section
/-! SUPPORT. The model's own tests: each well-formedness check refuses an ill-formed term; the manual's worked numbers;
small tests of one step, whose expected values come from the manual's text; and for each statement with hypotheses a
witness, a concrete state that meets them.  The states are variants of one busy station, `hall`. -/

namespace Sys2Proof.Tests

open Sys2Proof Sys2Proof.Machine

/-! ### A busy station -/

/-- The title and edition of every record of the station. -/
def w1 : Work := ⟨48211, 2⟩

/-- A title no record names. -/
def w2 : Work := ⟨50000, 0⟩

/-- A pledge of copy work. -/
def copyPledge : Pledge := ⟨none, false, true, .copy, 90, 180, 45⟩

def entryOf (o : OrderNo) (f : Format) (st : EntryState) : Entry where
  order        := o
  patron       := 402117
  work         := w1
  format       := f
  zone         := 12
  urgent       := false
  desk         := 21
  hit          := some 0
  bookedDay    := 4200
  state        := st
  releaseCount := 1
  excluded     := false
  owed         := none
  heldQueued   := false

/-- Loan `q` of station 17. -/
def own (q : LoanSeq) : LoanNo := makeNumber 17 q

def loanOf (q : LoanSeq) (o : OrderNo) (st : LoanState) (c : Option CartPart) (b : Option BraillePart) : Loan where
  number      := own q
  order       := o
  patron      := 402117
  work        := w1
  format      := if c.isNone then .braille else if b.isNone then .cartridge else .both
  zone        := 12
  urgent      := false
  claimDay    := 4201
  state       := st
  cart        := c
  braille     := b
  mailUnits   := 1
  container   := none
  tray        := none
  dispatchDay := none
  dueDay      := none
  overdueSent := false
  lostSent    := false
  recovery    := .none

/-- A stock cartridge with no slot used and no content. -/
def blankView (x : Serial) (marker : Byte) : View :=
  ⟨x, .small, .stock, List.replicate 64 (List.replicate 16 255), marker :: List.replicate 14 255⟩

/-- A loan out in the post with its cartridge. -/
def sent (q : LoanSeq) (st : LoanState) : Loan :=
  { loanOf q 900 st (some ⟨.copy, .ready 500, 0⟩) none with dueDay := some 4100, dispatchDay := some 4072 }

def roles : Vector Role 8 := #v[.copy, .copy, .copy, .copy, .copy, .copy, .intake, .off]

/-- A filter that every order hits. -/
def anyTitle : Filter := ⟨true, 0, 0, true, true, true, 120⟩

def hallCfg : Cfg :=
  { Cfg.noImage with
    timing := ⟨1, 11, 4, 2⟩, roles := roles, program := 180, erase := 420, reissue := 45, pick := 30
    filters := Vector.replicate 8 anyTitle }

/-- An emptied tray of group 0. -/
def trayOf (t : TrayNo) (st : TrayState) (ls : List LoanNo) : Tray := ⟨t, 0, 60, 40, 24, ls.length, ls, 0, false, st⟩

/-- The tray records: record 0 FILLING with loan 7, the others FREE. -/
def hallTrays : Vector (Option Tray) 16 :=
  (Vector.replicate 16 (none : Option Tray)).set 0 (some (trayOf 3 .filling [own 7]))

def hallTables : Records where
  loans :=
    [loanOf 1 4 .claimed (some ⟨.copy, .queued, 0⟩) none, sent 2 .shipped,
      { loanOf 3 901 .lost none (some ⟨w1, .picked⟩) with dueDay := some 4000, overdueSent := true, lostSent := true },
      loanOf 4 14 .claimed none (some ⟨w1, .pledged⟩), loanOf 5 15 .claimed (some ⟨.reissue, .queued, 0⟩) none,
      loanOf 6 16 .ready (some ⟨.copy, .ready 506, 0⟩) none,
      { loanOf 7 17 .packed (some ⟨.copy, .ready 507, 0⟩) none with container := some 9, tray := some 3 },
      { sent 8 .overdue with overdueSent := true }]
  loanSeq      := 9
  day          := 4214
  directory    := [⟨w1, 0, 400, 7, .valid⟩]
  stock        := [⟨601, w1, 12, .free, none⟩, ⟨605, w1, 3, .issuing (own 5), some 8⟩, ⟨600, w1, 12, .free, some 4⟩]
  sets         := [⟨w1, 3, 2, 2, 1⟩]
  trays        := hallTrays
  nextTray     := 65535
  dispatchLine := []

/-- The station: running, its queues empty, all sockets EMPTY with no cartridge. -/
def hall : State :=
  { State.reset with
    time   := ⟨10000, 90000, 0⟩
    cfg    := hallCfg
    start  := ⟨.running, none, some 17, some 17, true, 20000⟩
    line   := { Line.reset with state := .running, following := true, timing := some hallCfg.timing }
    tables := hallTables
    book   :=
      { entries :=
          [entryOf 1 .cartridge (.window 9990), entryOf 2 .cartridge (.queued copyPledge .none),
            entryOf 3 .cartridge (.queued copyPledge (.awaited (some .void))), entryOf 4 .cartridge (.takenSelf (own 1)),
            entryOf 5 .cartridge (.takenOther 9), entryOf 6 .cartridge .unbid,
            entryOf 7 .cartridge (.queued copyPledge (.awaited (some (.heard 9)))),
            entryOf 8 .cartridge (.queued copyPledge (.awaited none)), entryOf 14 .braille (.takenSelf (own 4)),
            entryOf 15 .cartridge (.takenSelf (own 5)), entryOf 16 .cartridge (.takenSelf (own 6)),
            entryOf 17 .cartridge (.takenSelf (own 7)), entryOf 18 .cartridge (.window 20000)]
        owed := [] } }

/-- A frame waits at the head of the receive queue. -/
def hears (s : State) (rank : BitVec 14) (x : Station) (p : Payload) : State :=
  { s with line := { s.line with rx := [⟨⟨rank, x, p⟩, 9980⟩] } }

/-- An entry of the transmit queue. -/
def txOf (rank : BitVec 14) (p : Payload) (sending : Bool) : TxEntry := ⟨⟨rank, 17, p⟩, sending, false⟩

/-- The transmit queue holds the entries, and the frame of the first that is in transmission is on the line. -/
def queues (s : State) (tx : List TxEntry) : State :=
  { s with
    line :=
      { s.line with
        tx := tx, driving := ((tx.find? (·.inTransmission)).map (·.frame.raw.lineBits)).getD [] } }

/-- The wave of the line for a sender of a frame whose acknowledge slot is driven, or not. -/
def ackedWave (f : Frame) : List Bool := waveOf hallCfg.timing (f.raw.lineBits.set (sentSlot f.raw.lineBits) false)
def unackedWave (f : Frame) : List Bool := waveOf hallCfg.timing f.raw.lineBits

/-- The wave whose levels differ from the bits of a frame at bit `i` first. -/
def differing (f : Frame) (i : Nat) : List Bool :=
  waveOf hallCfg.timing (f.raw.lineBits.take i ++ [!f.raw.lineBits.getD i true])

/-- The wave that takes the last bit of station 17's arbitration field from it, and one that differs just after it. -/
def lostWave (f : Frame) : List Bool := differing f (arbitrationEnd f.raw.lineBits - 1)
def errorWave (f : Frame) : List Bool := differing f (arbitrationEnd f.raw.lineBits)

/-- The transmit queue holds `k` entries. -/
def fullTx (k : Nat) : List TxEntry := List.replicate k (txOf 0 (.release 99 1 .titleVoid) false)

/-- Socket 1 holds a record. -/
def holds (s : State) (k : Socket) : State := s.setSocket 1 k

/-- A seated cartridge at a socket in a state, with an operation. -/
def seated (st : SockState) (v : Option View) (op : Option Op) : Socket :=
  ⟨true, st, v, op, none, ⟨false, false, false⟩⟩

/-! ### Ill-formed operands are refused -/

theorem test_wf_config_too_long : (Instr.configRead (List.replicate 257 0)).wellFormed = false := by
  rw [Instr.wellFormed, List.length_replicate]; decide
theorem test_wf_no_wave : (Instr.frameReceived []).wellFormed = false := by decide
theorem test_wf_no_lost_wave : (Instr.lostArbitration ⟨[], .completed⟩).wellFormed = false := by decide
theorem test_wf_no_failure_wave : (Instr.transmitFailure [] .completed).wellFormed = false := by decide
theorem test_wf_no_success_wave : (Instr.transmitSuccess ⟨[], .completed⟩).wellFormed = false := by decide
theorem test_wf_empty_read : (Instr.readCompletion 0 [] .completed).wellFormed = false := by decide
theorem test_wf_read_too_long : (Instr.readCompletion 0 (List.replicate 65537 0) .completed).wellFormed = false := by
  rw [Instr.wellFormed, List.length_replicate]; decide
theorem test_wf_short_block : (Instr.storeBlockReadEnd (List.replicate 65535 0) true .completed).wellFormed = false := by
  rw [Instr.wellFormed, List.length_replicate]; decide
theorem test_wf_pack : (Instr.pack ⟨17, 1⟩ 4294967296 .completed).wellFormed = false := by decide
theorem test_wf_pick : (Instr.pick ⟨4294967296, 1⟩ .completed).wellFormed = false := by decide
theorem test_wf_back : (Instr.back ⟨17, 4294967296⟩ .completed).wellFormed = false := by decide
theorem test_wf_shelve : (Instr.shelve 4294967296 1 .completed).wellFormed = false := by decide
theorem test_wf_nocart : (Instr.nocart ⟨4294967296, 1⟩ .completed).wellFormed = false := by decide
theorem test_wf_noset : (Instr.noset ⟨17, 4294967296⟩ .completed).wellFormed = false := by decide
theorem test_wf_drop : (Instr.drop 1 4294967296 .completed).wellFormed = false := by decide
theorem test_wf_set : (Instr.set 1 2 3 4294967296 .completed).wellFormed = false := by decide
theorem test_wf_show_loan : (Instr.showLoan ⟨4294967296, 1⟩).wellFormed = false := by decide
theorem test_wf_largest_number : (Instr.shelve 4294967295 4294967295 .completed).wellFormed = true := by decide

/-! ### The manual's worked numbers -/

/-- R184: the 16-bit check over "123456789" gives 10,673. -/
theorem test_crc16 : crc16Bytes (ascii "123456789") = 10673 := by decide +kernel

/-- R184: the image check over "123456789" gives 3,421,780,262. -/
theorem test_image_check : imageFinish (imageAdd imagePreset (ascii "123456789")) = 3421780262 := by decide +kernel

/-- R185: station 17's tag for loan 17·3,401 on day 4,212 has Z = 41. -/
theorem test_marked_check : ((markedCheck ((tagBytes (own 3401) 17 4212).take 7)).head?) = some 41 := by decide +kernel

/-- 11_frame_cartridge_and_configuration_formats.md, section 11.1: station 11's BID of case B. -/
theorem test_bid_frame :
    (⟨285, 11, .bid 3145801 .reissue⟩ : Frame).field = 1066827 ∧
      (Payload.bid 3145801 .reissue).bytes = [48, 0, 73, 1] := by decide

/-- 01_the_floor_line.md, section 1.9: the ranks 285 and 5,848 first differ at the second rank bit. -/
theorem test_rank_bits :
    bitsOf (285 : BitVec 14) = "00000100011101".toList.map (· == '1') ∧
      bitsOf (5848 : BitVec 14) = "01011011011000".toList.map (· == '1') := by decide

/-- 07_title_directory_and_stock_tables.md, section 7.9: the store of station 17. -/
def fragmented : List DirEntry := [⟨⟨52030, 0⟩, 0, 400, 0, .valid⟩, ⟨w1, 400, 9000, 0, .void⟩, ⟨⟨47002, 1⟩, 12000, 2400, 0, .valid⟩]

/-- 07_title_directory_and_stock_tables.md, section 7.9: 300 blocks fit first at block 9,400. -/
theorem test_first_fit : firstFit fragmented 20000 300 = some 9400 := by decide +kernel

/-- 07_title_directory_and_stock_tables.md, section 7.9: with the first ingest placed and the VOID extent counted free, no
run reaches 9,500 blocks. -/
theorem test_store_full :
    firstFit [⟨⟨52030, 0⟩, 0, 400, 0, .valid⟩, ⟨⟨50117, 0⟩, 9400, 300, 0, .valid⟩, ⟨⟨47002, 1⟩, 12000, 2400, 0, .valid⟩] 20000
      9500 = none := by decide +kernel

/-- R60: a loan dispatched so late that its sum passes 65,535 is due on day 65,535. -/
theorem test_due_day : dueDayOf 65500 60 = 65535 ∧ dueDayOf 4214 28 = 4242 := by decide

/-- Station 5 of 03_bid_cost_arithmetic.md, section 3.8: a directory entry of 9,000 blocks, a penalty of 300 s, 6 sockets
of role COPY, 37 open loans, one copy bid pending, and a dirty blank of `c` blocks in socket 3. -/
def stationFive : State :=
  { hall with
    cfg :=
      { hallCfg with
        roles := #v[.copy, .copy, .copy, .copy, .copy, .copy, .off, .off], blankWait := 120
        filters := Vector.replicate 8 { anyTitle with penalty := 300 } }
    tables :=
      { hallTables with
        loans := List.replicate 37 (loanOf 1 4 .claimed none none), stock := []
        directory := [⟨w1, 0, 9000, 0, .valid⟩] }
    book := ⟨[entryOf 2 .cartridge (.queued copyPledge .none)], []⟩ }

/-- Case A: the bid costs 5,848 with m = 600 and T0 = 5,400. -/
theorem test_case_a :
    (stationFive.setSocket 3
      { Socket.reset with present := true, state := .blank false, view := some { blankView 9 0 with capacity := .medium } }).bid
        w1 .cartridge (some 2) =
      some ⟨.copy, none, false, true, 5848, 600, 5400⟩ := by decide +kernel

/-- Case B: of two FREE records the bid takes the one with 5 used slots; 60 open loans and 45 s cost 285. -/
theorem test_case_b :
    { hall with
      cfg := { hallCfg with filters := Vector.replicate 8 { anyTitle with penalty := 0 } }
      tables :=
        { hallTables with
          loans := List.replicate 60 (loanOf 1 4 .claimed none none)
          stock := [⟨70114902, w1, 12, .free, none⟩, ⟨70098377, w1, 5, .free, none⟩] } }.bid w1 .cartridge (some 0) =
      some ⟨.reissue, some 70098377, false, false, 285, 0, 0⟩ := by decide +kernel

/-- A job of the backlog of case C: `left` blocks of it remain at block index 1, at `m` ms a block. -/
def backlogJob (left m : Nat) : Job := ⟨own 1, w1, 0, left, m, 0, false⟩

def backlogSocket (g left m : Nat) : Socket :=
  { Socket.reset with present := true, state := .copying ⟨g, backlogJob left m, .preparing⟩ }

/-- Case C: without a fitting blank the wait of 1,394 s brings the cost to 7,242. -/
theorem test_case_c :
    ({ stationFive with
        copy :=
          { stationFive.copy with
            queue := [⟨own 2, w1, 0, 9000, 600, 1200, false⟩, ⟨own 3, w1, 0, 9000, 600, 3000, false⟩]
            gangs := [⟨0, w1, 0, 4000, some 0, 1, false, 0⟩] }
        sockets :=
          #v[backlogSocket 0 1333 600, backlogSocket 0 2777 180, backlogSocket 0 3500 600, backlogSocket 0 66 600,
            Socket.reset, Socket.reset, Socket.reset, Socket.reset] }.bid w1 .cartridge (some 2)) =
      some ⟨.copy, none, false, true, 7242, 600, 5400⟩ := by decide +kernel

/-- 01_the_floor_line.md, section 1.1: settle 11, tail 4, jump 2.  An edge 3 quanta after lead lengthens a receiver's
settle to 13 and not a sender's; one a quantum before the nominal end shortens the tail of both to 3. -/
theorem test_adjustment :
    (Sampler.adjust hallCfg.timing false ⟨1, 4, 11, 4, false, true⟩).settle = 13 ∧
      (Sampler.adjust hallCfg.timing true ⟨1, 4, 11, 4, false, true⟩).settle = 11 ∧
      (Sampler.adjust hallCfg.timing false ⟨1, 15, 11, 4, false, true⟩).tail = 3 ∧
      (Sampler.adjust hallCfg.timing true ⟨1, 15, 11, 4, false, true⟩).tail = 3 := by decide

/-! ### One step of each command

Each test runs one command on a variant of `hall` and looks at a field or two. -/

/-- The state after a command, through the queue; the state itself where the step gives none. -/
def after (c : Instr) (s : State) : State :=
  match step { s with pending := [c] } with
  | .next t => t
  | _ => s

/-- An answer of a cartridge that is idle and locked. -/
def idleAnswer : StateAnswer := ⟨false, false, false⟩

/-- Station 17 as its start finds it: phase `p`, the line OFF. -/
def starting (p : Phase) : State := { hall with start := { StartUnit.reset with phase := p }, line := Line.reset }

def entryState (s : State) (o : OrderNo) : Option EntryState := (s.entry? o).map (·.state)

def loanState (s : State) (q : LoanSeq) : Option LoanState := (s.loan? (own q)).map (·.state)

/-- R17, R177: a reset puts the line OFF and start at its first phase, and keeps record memory. -/
theorem test_reset : (after .reset hall).line.state = .off ∧ (after .reset hall).start.phase = .config := by decide

/-- R135: power-on empties the quarantine list. -/
theorem test_power_on : (after .powerOnReset { hall with quarantine := [5] }).quarantine = [] := by decide

/-- R175: a port that returned nothing is cause NO-IMAGE. -/
theorem test_config_none : (after (.configRead []) (starting .config)).start.invalid = some .noImage := by decide

/-- R178: a port that fails to answer is cause RECORDS, and record memory is not written. -/
theorem test_records_none :
    (after (.recordMemoryOpen none) (starting .records)).start.invalid = some .records ∧
      (after (.recordMemoryOpen none) (starting .records)).start.writable = false := by decide

/-- R179, R12: start ends and the line goes from OFF to JOINING. -/
theorem test_recovery :
    (after .recovery (starting .recovery)).line.state = .joining ∧
      (after .recovery (starting .recovery)).start.phase = .running := by decide +kernel

/-- R6, R8, R13: a DATE frame received whole joins the receive queue with the millisecond count. -/
theorem test_frame_received :
    (after (.frameReceived (waveOf hallCfg.timing (⟨0, 21, .date 4215⟩ : Frame).raw.lineBits)) hall).line.rx =
      [⟨⟨0, 21, .date 4215⟩, 10000⟩] := by decide +kernel

/-- R9: after an error a receiver does not follow the line. -/
theorem test_receive_error : (after (.receiveError .check) hall).line.following = false := by decide

/-- R4: twelve recessive bits bring the line back. -/
theorem test_line_idle :
    (after .lineIdle { hall with line := { hall.line with following := false } }).line.following = true := by decide

/-- R12: a JOINING station becomes RUNNING. -/
theorem test_joining_idle :
    (after .joiningIdle { hall with line := { hall.line with state := .joining } }).line.state = .running := by
  decide

/-- R12: the mute timer's expiry takes MUTED to JOINING with the failure count at 0. -/
theorem test_mute_expiry :
    let t := after (.muteExpiry false)
      { hall with line := { hall.line with state := .muted, muteDeadline := some 10000, failCount := 16 } }
    t.line.state = .joining ∧ t.line.failCount = 0 := by decide

/-- R14: the lowest arbitration field goes first: the HELD before the BID. -/
theorem test_transmit_start :
    (after .transmitStart (queues hall [txOf 285 (.bid 2 .copy) false, txOf 0 (.held 4) false])).line.tx.map
      (·.inTransmission) = [false, true] := by decide

/-- R9, R11: a station that has lost arbitration starts nothing before the frame that won, a HELD of station 9, has ended. -/
theorem test_transmit_start_lost :
    let win : Frame := ⟨0, 9, .held 4⟩
    let lost := after (.lostArbitration ⟨unackedWave win, .completed⟩)
      (queues hall [txOf 60 (.bid 2 .copy) true])
    let heard := after (.frameReceived (unackedWave win)) (after .transmitStart lost)
    after .transmitStart lost = lost ∧ heard.line.rx.length = 1 ∧
      (after .transmitStart heard).line.tx.map (·.inTransmission) = [true] := by decide +kernel

/-- R11, R12: the sixteenth failure, a frame that no station acknowledged, mutes the line for 2 s. -/
theorem test_transmit_failure :
    let s := queues hall [txOf 0 (.held 4) true]
    let t := after (.transmitFailure (unackedWave (txOf 0 (.held 4) true).frame) .completed)
      { s with line := { s.line with failCount := 15 } }
    t.line.state = .muted ∧ t.line.muteDeadline = some 12000 := by decide +kernel

/-- R9: a level that differs after the arbitration field is a bit error, and the line is not followed. -/
theorem test_bit_error :
    let t := after (.transmitFailure (errorWave (txOf 0 (.held 4) true).frame) .completed)
      (queues hall [txOf 0 (.held 4) true])
    t.line.failCount = 1 ∧ t.line.following = false := by decide +kernel

/-- R9, R11: lost arbitration leaves the count as it was, and counts the bits sent. -/
theorem test_lost_arbitration :
    let s := queues hall [txOf 0 (.held 4) true]
    let t := after (.lostArbitration ⟨lostWave (txOf 0 (.held 4) true).frame, .completed⟩)
      { s with line := { s.line with failCount := 3 } }
    t.line.failCount = 3 ∧ t.line.sentBits = 28 := by decide +kernel

/-- 01_the_floor_line.md, section 1.9: station 5's BID of rank 5,848 samples dominant in its second rank bit, where it
sent recessive; that bit is the seventh on the line. -/
theorem test_first_difference :
    txOutcome (⟨5848, 5, .bid 9 .copy⟩ : Frame).raw.lineBits (⟨285, 11, .bid 9 .reissue⟩ : Frame).raw.lineBits =
      some (.lostArbitration 7) := by decide +kernel

/-- R26, R52: the BID's completion wins, and the loan is CLAIMED. -/
theorem test_transmit_success :
    let t := after (.transmitSuccess ⟨ackedWave (txOf 90 (.bid 2 .copy) true).frame, .completed⟩)
      (queues hall [txOf 90 (.bid 2 .copy) true])
    entryState t 2 = some (.takenSelf (own 9)) ∧ loanState t 9 = some .claimed := by decide +kernel

/-- R21: an ORDER is booked in WINDOW from its reception time, 10 ms for a bid window of 1. -/
theorem test_order :
    entryState (after .order (hears hall 1 21 (.order 77 9 w1 .cartridge 12))) 77 = some (.window 9990) := by decide

/-- R27: a BID heard takes an order in WINDOW to TAKEN of its sender. -/
theorem test_bid_heard :
    entryState (after (.bidHeard .completed) (hears hall 60 9 (.bid 1 .copy))) 1 = some (.takenOther 9) := by
  decide

/-- R28: a HELD from a lower station takes the order, and the loan is withdrawn. -/
theorem test_held_heard :
    let t := after (.heldHeard .completed) (hears hall 0 9 (.held 4))
    entryState t 4 = some (.takenOther 9) ∧ loanState t 1 = none := by decide

/-- R30: SHIPPED removes the order. -/
theorem test_shipped_heard :
    entryState (after (.shippedHeard .completed) (hears hall 0 9 (.shipped 5 (makeNumber 9 4) 6 4214 4242))) 5 = none := by
  decide

/-- R31: a RELEASE of a higher count opens a new window. -/
theorem test_release_heard :
    entryState (after (.releaseHeard .completed) (hears hall 0 9 (.release 5 2 .copyFailed))) 5 = some (.window 9990) := by
  decide

/-- R36: a CANCEL that its own desk did not send is ignored. -/
theorem test_cancel :
    entryState (after (.cancel .completed) (hears hall 0 20 (.cancel 6))) 6 = some .unbid ∧
      entryState (after (.cancel .completed) (hears hall 0 21 (.cancel 6))) 6 = none := by decide

/-- R61: a later DATE advances the day. -/
theorem test_date : (after (.date .completed) (hears hall 0 21 (.date 4215))).tables.day = 4215 := by decide

/-- R66: the RETURNED of its one part closes the loan. -/
theorem test_returned_heard :
    loanState (after (.returnedHeard .completed) (hears hall 0 9 (.returned (own 2) 500 4214 .erased))) 2 = none := by
  decide

/-- R45, R24: the window expires and the FREE record with the lowest serial among equals is pledged. -/
theorem test_window_expiry :
    (after (.windowExpiry 1 .completed) hall).stock? 600 = some ⟨600, w1, 12, .pledged 1, some 4⟩ := by decide

/-- R63: a loan past its due day and the lost interval goes to LOST at the scan's visit. -/
theorem test_day_scan :
    loanState (after (.dayScanVisit .completed) { hall with scan := ⟨true, some (own 1), false, none⟩ }) 2 = some .lost := by
  decide

/-- Socket 1 of `hall` in a state, with a blank cartridge of serial 700 and an operation. -/
def at1 (st : SockState) (op : Option Op) : State := holds hall (seated st (some (blankView 700 165)) op)

def sockState (s : State) (n : Idx8) : SockState := (s.socket n).state

/-- R87: identification has 3,000 ms. -/
theorem test_insertion :
    ((after (.cartridgeInsertion 1) hall).socket 1).op = some (.awaitReady 13000) := by decide

/-- R87: at its limit identification is a FAULT. -/
theorem test_identify_limit :
    sockState (after (.identifyLimitExpiry 1) (at1 (.identifying none) (some (.awaitReady 10000)))) 1 = .fault := by
  decide

/-- R92: a removal from BLANK empties the socket and nothing else. -/
theorem test_removal :
    after (.cartridgeRemoval 1 .completed) (at1 (.blank true) none) = { hall with nv := { hall.nv with tables := hallTables } } := by
  decide

/-- R87: a cartridge that is not busy is locked and sector 0 is read. -/
theorem test_state_completion :
    ((after (.stateCompletion 1 idleAnswer ⟨false, .completed⟩) (at1 (.identifying none) (some (.awaitReady 11000)))).socket 1).op =
      some (.read 0 4096) := by decide

/-- R76, R88: a sector 0 of all ones names no cartridge: FOREIGN. -/
theorem test_read_completion :
    sockState (after (.readCompletion 1 (List.replicate 4096 255) .completed)
      (holds hall (seated (.identifying (some (List.replicate 4096 255))) none (some (.read 4096 4096))))) 1 =
        .rejected .foreign := by decide +kernel

/-- R82, R111: the poll limit fails the clear of a cleaning socket: FAULT. -/
theorem test_poll_limit :
    sockState (after (.pollLimitExpiry 1 ⟨false, .completed⟩)
      (at1 (.cleaning (.block 3)) (some (.guarded (.blockClear 3) (.polling 9000))))) 1 = .fault := by decide

/-- R81: a hold of 50 ms fails the operation. -/
theorem test_hold :
    let held := after (.readyLineHold 1 (.low .other)) (at1 (.identifying none) (some (.read 0 4096)))
    (held.socket 1).hold = some 10050 ∧
      sockState (after (.holdTimeout 1 ⟨false, .completed⟩) { held with time := ⟨10050, 0, 0⟩ }) 1 = .fault := by decide

/-- Socket 1 clears block 3: the state of its link, and the stage of the clear. -/
def clearing (link : CartLink) (stage : GuardStage) : State :=
  holds hall
    { seated (.cleaning (.block 3)) (some (blankView 700 165)) (some (.guarded (.blockClear 3) stage)) with link := link }

/-- A state of `hall` at the millisecond count `t`. -/
def atMs (s : State) (t : Millis) : State := { s with time := ⟨t, 90000, 0⟩ }

def lineLow (t : HeldTransfer) (s : State) : State := after (.readyLineHold 1 (.low t)) s

def released (more : Bool) (s : State) : State := after (.readyLineHold 1 (.released ⟨more, .completed⟩)) s

/-- R82: the limit of a command runs from the end of its transfer; a hold of 45 ms in that transfer uses none of it. -/
theorem test_hold_in_command :
    let late := atMs (lineLow .command (clearing ⟨true, true, false⟩ (.command 10010 ⟨false, true, false⟩))) 10045
    sockState (after (.pollLimitExpiry 1 ⟨false, .completed⟩) late) 1 = .cleaning (.block 3) ∧
      ((released false late).socket 1).op = some (.guarded (.blockClear 3) (.command 13045 ⟨false, true, false⟩)) := by
  decide

/-- R75: a command held, the second time too, leaves the fault that the STATE of step 2 showed; its end clears it. -/
theorem test_fault_before_command :
    let s := after (.stateCompletion 1 ⟨false, true, true⟩ ⟨false, .completed⟩)
      (clearing ⟨false, true, false⟩ (.beforeCommand none))
    let twice := lineLow .command (atMs (released false (lineLow .command s)) 10040)
    (s.socket 1).link = ⟨true, true, false⟩ ∧ ((lineLow .command s).socket 1).link = ⟨false, true, true⟩ ∧
      (twice.socket 1).link = ⟨false, true, true⟩ ∧ (twice.socket 1).hold = some 10090 ∧
      ((released false twice).socket 1).link = ⟨true, true, false⟩ := by decide

/-- R81, R82: two holds in the LOCK after an answer that shows fault and latch, 45 ms and then over 50 ms, each timed from its
own moment.  Abandoned it leaves the latch set, and let through it clears it; either way the failure is reported: FAULT. -/
theorem test_lock_held :
    let s := after (.stateCompletion 1 ⟨false, true, true⟩ ⟨true, .completed⟩) (clearing ⟨true, true, false⟩ (.polling 10400))
    let again := lineLow .lock (atMs (released true (atMs (lineLow .lock s) 10045)) 10046)
    let abandoned := after (.holdTimeout 1 ⟨false, .completed⟩) (atMs again 10096)
    sockState s 1 = .cleaning (.block 3) ∧ (again.socket 1).hold = some 10096 ∧
      after (.holdTimeout 1 ⟨false, .completed⟩) (atMs again 10095) = atMs again 10095 ∧
      sockState abandoned 1 = .fault ∧ (abandoned.socket 1).link.latch = true ∧
      sockState (released false again) 1 = .fault ∧ ((released false again).socket 1).link.latch = false := by decide

/-- R75, R81: an UNLOCK held leaves a latch that an abandoned LOCK left set, and one that is clear; its end sets it. -/
theorem test_unlock_held :
    let set := lineLow .unlock (clearing ⟨false, true, false⟩ (.beforeCommand (some ⟨false, true, false⟩)))
    let clear := lineLow .unlock (clearing ⟨false, true, false⟩ (.beforeCommand (some ⟨false, false, false⟩)))
    (set.socket 1).link.latch = true ∧ (clear.socket 1).link.latch = false ∧
      ((released false clear).socket 1).link.latch = true ∧
      ((after (.holdTimeout 1 ⟨true, .completed⟩) (atMs clear 10050)).socket 1).op = some (.locking true) := by decide

/-- R81: once a hold has fallen in the STATE of step 2, the UNLOCK has ended and no hold falls in it. -/
theorem test_hold_in_state :
    let s := lineLow .other (clearing ⟨false, true, false⟩ (.beforeCommand (some ⟨false, false, false⟩)))
    (s.socket 1).hold = some 10050 ∧ (s.socket 1).link.latch = true ∧
      lineLow .unlock (released false s) = released false s := by decide

/-- R127: a cartridge kept a second time leaves one record of its serial. -/
theorem test_keep_again :
    let v : View := { blankView 600 0 with content := (0 : Byte) :: contentBytes w1 400 7 3 100 }
    (hall.keepRecord (v.apply (tagWrite 1 (own 2) 17 4100))).tables.stock.filter (·.serial == 600) =
      [⟨600, w1, 1, .free, some 4⟩] := by decide +kernel

/-- R106: a read that fails its check voids the title. -/
theorem test_store_read_bad :
    let s : State := { hall with copy := { hall.copy with current := some (0, .read w1 0 4) }, book := ⟨[], []⟩ }
    ((after (.storeBlockReadEnd [] false .completed) s).dir? w1).map (·.state) = some .void := by decide

/-- R122: the last block of a master whose check matches makes its title VALID. -/
theorem test_store_write_last :
    let s := (holds hall (seated (.ingesting ⟨w2, some 2, 9, ~~~7⟩) (some (blankView 700 165)) none)).setBuffer 2
      ⟨.ingest 1, [], none⟩
    let t := after (.storeBlockWriteEnd true .completed)
      { s with
        copy := { s.copy with current := some (2, .write 408) }
        tables := { hallTables with directory := [⟨w2, 400, 9, 7, .loading⟩] } }
    (t.dir? w2).map (·.state) = some .valid ∧ sockState t 1 = .rejected .masterNotNeeded := by decide

/-- R159: a FILLING tray of 24 hours closes. -/
theorem test_tray_age :
    ((after (.trayAgeExpiry 0 .completed) { hall with time := ⟨1, 86400, 0⟩ }).tray 0).map (·.state) = some .closed ∧
      ((after (.trayAgeExpiry 0 .completed) { hall with time := ⟨1, 86399, 0⟩ }).tray 0).map (·.state) = some .filling := by
  decide

/-- R174: no tray ages before start has ended. -/
theorem test_tray_age_in_start :
    ((after (.trayAgeExpiry 0 .completed) { starting .recovery with time := ⟨1, 86400, 0⟩ }).tray 0).map (·.state) =
      some .filling := by decide

/-- R173: a notice goes out as a line with a carriage return. -/
theorem test_notice_send :
    (after .noticeSend { hall with bench := { hall.bench with notices := [.lineMuted] } }).bench.sent =
      ascii "LINE-MUTED" ++ [13] := by decide

/-- A character of the bench line. -/
def types (cs : List Byte) (s : State) : State :=
  cs.foldl (fun s c => after (.benchCharacterReceived c false .completed) s) s

/-- R167, R169: a word that is no command is refused at its carriage return. -/
theorem test_unknown_line : (types (ascii "PAK" ++ [13]) hall).bench.notices = [.refused .unknown "PAK"] := by decide

/-- R167, R156: a line typed in full packs its loan. -/
theorem test_typed_pack :
    ((types (ascii "PACK 17.6 44" ++ [13]) hall).loan? (own 6)).map (·.container) = some (some 44) := by decide

/-- R167: a line of 41 characters is LONG. -/
theorem test_long_line :
    let s := types (List.replicate 41 65) hall
    (after .benchLineRefused s).bench.notices = [.refused .long ""] ∧ s.bench.extra = 1 := by decide +kernel

/-- R157: a READY loan joins its group's FILLING tray. -/
theorem test_pack :
    let t := after (.pack ⟨17, 6⟩ 65535 .completed) hall
    loanState t 6 = some .packed ∧ (t.tray 0).map (·.load) = some 2 := by decide

/-- R58: PICK takes one set of the shelf and of the pledged count. -/
theorem test_pick :
    (after (.pick ⟨17, 4⟩ .completed) hall).set? w1 = some ⟨w1, 3, 2, 1, 0⟩ := by decide

/-- R150, R67: BACK of a LOST loan whose LOST was announced owes a RECOVERED. -/
theorem test_back :
    ((after (.back ⟨17, 3⟩ .completed) hall).loan? (own 3)).map (·.recovery) = some .owed := by decide

/-- R129: SHELVE records the code. -/
theorem test_shelve : ((after (.shelve 601 65535 .completed) hall).stock? 601).map (·.shelf) = some (some 65535) := by
  decide

/-- R69: NOCART turns a reissue into a copy job where the title is VALID. -/
theorem test_nocart :
    let t := after (.nocart ⟨17, 5⟩ .completed) hall
    t.copy.queue.map (·.loan) = [own 5] ∧ t.stock? 605 = none := by decide

/-- R70: NOSET takes a set off all three counts and releases the loan. -/
theorem test_noset :
    let t := after (.noset ⟨17, 4⟩ .completed) hall
    t.set? w1 = some ⟨w1, 3, 1, 1, 0⟩ ∧ entryState t 14 = some .unbid := by decide

/-- R160: nothing is dispatched below the threshold. -/
theorem test_dispatch : (after (.dispatch .completed) hall).bench.notices = [.dispatched none 0 0] := by decide

/-- R126: DROP of a title that a job still uses is refused; one without users is removed. -/
theorem test_drop :
    let s : State := { hall with copy := { hall.copy with queue := [backlogJob 400 600] } }
    (after (.drop 48211 2 .completed) s).bench.notices = [.refused .inUse "DROP"] ∧
      ((after (.drop 48211 2 .completed) hall).dir? w1).isNone := by decide

/-- R132: SET adds copies to its record. -/
theorem test_set : (after (.set 48211 2 3 13 .completed) hall).set? w1 = some ⟨w1, 3, 15, 15, 1⟩ := by decide

/-- R170: SHOW SOCKETS raises one line for each socket. -/
theorem test_show_sockets : (after .showSockets hall).bench.notices.length = 8 := by decide

/-- R171: SHOW TRAYS raises a line for the trays and one for each that is not FREE. -/
theorem test_show_trays : (after .showTrays hall).bench.notices.length = 2 := by decide

/-- R172: SHOW LOAN of a number with no record is refused. -/
theorem test_show_loan :
    (after (.showLoan ⟨17, 99⟩) hall).bench.notices = [.refused .noLoan "SHOW LOAN"] := by decide

/-! ### Witnesses

For each statement with hypotheses a concrete state, with its operands, that meets them: one for each clause, at a
boundary of its range where it has one. -/

theorem witness_StepRunsFrontCommand :
    ({ hall with pending := [.noticeSend, .order] } : State).pending = .noticeSend :: [.order] := rfl

/-- The clauses of the idle step: a station that starts, an empty queue, and a running station at the last millisecond of
a second. -/
theorem witness_IdleStepsCountTime :
    (starting .config).pending = [] ∧ (starting .config).start.phase ≠ .running ∧ hall.pending = [] ∧
      hall.start.phase = .running ∧ ({ hall with time := ⟨10000, 90000, 999⟩ } : State).time.sub < 1000 := by decide

/-- A station whose record memory holds its tables. -/
def kept : State := { hall with nv := ⟨headerBytes 17, hallTables⟩ }

/-- A window expires: the step pledges a record, and record memory holds the pledge. -/
def keptBid : State := { kept with pending := [.windowExpiry 1 .completed] }

theorem witness_StepKeepsRecordMemory :
    keptBid.recordsKept ∧ ∃ t, step keptBid = .next t ∧ t.tables.stock ≠ keptBid.tables.stock :=
  ⟨fun _ => rfl, _, rfl, by decide⟩

/-- Every queue at its capacity. -/
def fullHall : State :=
  { kept with
    line := { hall.line with rx := List.replicate 16 ⟨⟨0, 21, .date 4215⟩, 3⟩, tx := fullTx 16, pacing := [.tray, .book] }
    quarantine := (List.range 32).map (BitVec.ofNat 32)
    returns := ⟨List.replicate 16 ⟨own 99, 1, 1, none, false, none⟩, [2]⟩
    bench := { hall.bench with notices := List.replicate 64 .noDate, buffer := List.replicate 40 65 }
    pending := [.date .completed] }

theorem witness_StepKeepsCapacities : fullHall.Capacities ∧ ∃ t, step fullHall = .next t ∧ t.line.rx.length = 15 :=
  ⟨⟨by decide, by decide, by decide, by decide, by decide, by decide, by decide⟩, _, rfl, by decide⟩

/-- A win adds the record of loan 9 above the others. -/
def keptWin : State :=
  { queues kept [txOf 90 (.bid 2 .copy) true] with
    pending := [.transmitSuccess ⟨ackedWave (txOf 90 (.bid 2 .copy) true).frame, .completed⟩] }

/-- The next state of a step, where it answers one. -/
def stepped (s : State) : Option State :=
  match step s with
  | .next t => some t
  | _ => none

theorem witness_StepKeepsLoansAscending :
    keptWin.LoansAscending ∧ (stepped keptWin).map (·.tables.loans.length) = some 9 :=
  ⟨⟨by decide, by decide⟩, by decide +kernel⟩

theorem witness_EndOfEventFrame : (starting .config).start.writable = false ∧ hall.start.writable = true := by decide

theorem witness_RecordMemoryWriteOutcomes :
    (starting .config).start.writable = false ∧ kept.start.writable = true ∧ kept.nv.tables = kept.tables ∧
      hall.start.writable = true ∧ hall.nv.tables ≠ hall.tables := by decide

theorem witness_ResetsClearVolatileState :
    ((.powerOnReset : Instr) = .powerOnReset ∨ (.powerOnReset : Instr) = .reset) ∧
      ((.reset : Instr) = .powerOnReset ∨ (.reset : Instr) = .reset) := by decide

/-- An image whose bytes are all zero but for its signature, its station 63 and its check. -/
def image63 : List Byte := ascii "LSCF" ++ 63 :: (List.replicate 249 0 ++ [1, 103])

theorem witness_ConfigReadClampsValues : (starting .config).start.phase = .config ∧ image63.length = 256 := by decide +kernel

/-- The five outcomes of the tests: no image, a wrong signature, a wrong check, a station of 64, and a valid image. -/
theorem witness_ConfigTestsGiveCause :
    (starting .config).start.phase = .config ∧ (starting .config).bench.notices.length < 64 ∧
      (image63.take 255).length ≤ 256 ∧ (List.replicate 256 (0 : Byte)).length ≤ 256 ∧
      (image63.take 255 ++ [104]).length ≤ 256 ∧
      (ascii "LSCF" ++ 64 :: (List.replicate 249 (0 : Byte) ++ [1, 104])).length ≤ 256 ∧
      imageCause (ascii "LSCF" ++ 64 :: (List.replicate 249 0 ++ [1, 104])) = some .station ∧
      imageCause (List.replicate 256 0) = some .signature ∧
      imageCause (image63.take 255 ++ [104]) = some .check ∧ imageCause image63 = none := by decide +kernel

theorem witness_RecordHeaderNamesStation : (headerBytes 63).length = 7 ∧ (63 : Station) ≠ 0 ∧ (1 : Station) ≠ 0 := by decide

/-- A station in phase RECORDS with a configured station and a header. -/
def records (configured : Option Station) (header : List Byte) : State :=
  { starting .records with
    start := { StartUnit.reset with phase := .records, configured := configured }, nv := ⟨header, hallTables⟩ }

/-- The rows of R178: the station's own header, no header, another station's header, no station, and neither. -/
theorem witness_RecordMemoryOpenOutcomes :
    (records (some 63) (headerBytes 63)).start.phase = .records ∧
      (records (some 63) (headerBytes 63)).bench.notices.length < 64 ∧
      (records (some 63) (headerBytes 63)).start.configured = some 63 ∧
      headerStation (records (some 63) (headerBytes 63)).nv.header = some 63 ∧
      headerStation (records (some 63) (List.replicate 7 255)).nv.header = none ∧
      headerStation (records (some 63) (headerBytes 62)).nv.header = some 62 ∧ (62 : Station) ≠ 63 ∧
      (records none (headerBytes 1)).start.configured = none ∧
      headerStation (records none (headerBytes 1)).nv.header = some 1 ∧
      headerStation (records none (List.replicate 7 255)).nv.header = none := by decide +kernel

theorem witness_RecoveryEndsStart : (starting .recovery).start.phase = .recovery ∧ (starting .recovery).bench.rate = 9600 := by
  decide

/-- Recovery with loan 7 in a tray on the dispatch line, and a transmit queue of `k` entries. -/
def resuming (k : Nat) : State :=
  { starting .recovery with
    tables :=
      { hallTables with
        trays := (Vector.replicate 16 none).set 3 (some (trayOf 3 .dispatching [own 7])), dispatchLine := [3] }
    line := { Line.reset with tx := fullTx k } }

/-- A valid configuration with the one loan of the one tray to ship, with and without room; and an empty dispatch line. -/
theorem witness_RecoveryEndsStart_offer :
    (resuming 12).start.phase = .recovery ∧ (resuming 12).bench.rate = 9600 ∧ (resuming 12).start.invalid = none ∧
      (resuming 12).recover.tables.dispatchLine = [3] ∧
      ((resuming 12).recover.tray 3).map (fun x => (x.loans, x.state)) = some ([own 7], .dispatching) ∧
      ((resuming 12).recover.loan? (own 7)).isSome ∧ ((resuming 12).recover.entryOfLoan? (own 7)).isSome ∧
      (resuming 12).recover.line.tx.length ≤ 12 ∧ (resuming 12).recover.line.pacing = [] ∧
      12 < (resuming 13).recover.line.tx.length ∧ (starting .recovery).recover.tables.dispatchLine = [] := by
  decide +kernel

/-- The register in ascending loan number, and every title that a copy waits for VALID. -/
theorem witness_RecoveryRebuildsBookAndJobs :
    (starting .recovery).tables.loans.Pairwise (fun a b => a.number ≤ b.number) ∧
      (∀ l ∈ (starting .recovery).tables.loans.filter fun l => l.cart.any fun c => c.path == .copy && c.status == .queued,
        (starting .recovery).dir? l.work = some ⟨w1, 0, 400, 7, .valid⟩) := by decide

/-- `hall` with no title. -/
def noTitle : State := { hall with tables := { hallTables with directory := [] } }

/-- The one loan whose copy part waits for a title that is not there, with room for its RELEASE. -/
theorem witness_RecoveryRebuildsBookAndJobs_void :
    noTitle.tables.loans.Pairwise (fun a b => a.number ≤ b.number) ∧
      (noTitle.tables.loans.filter fun l => l.cart.any fun c => c.path == .copy && c.status == .queued) =
        [loanOf 1 4 .claimed (some ⟨.copy, .queued, 0⟩) none] ∧
      noTitle.dir? w1 = none ∧ noTitle.loan? (own 1) = some (loanOf 1 4 .claimed (some ⟨.copy, .queued, 0⟩) none) ∧
      noTitle.entryOfLoan? (own 1) = some (entryOf 4 .cartridge (.takenSelf (own 1))) ∧
      noTitle.entry? 4 = some (entryOf 4 .cartridge (.takenSelf (own 1))) ∧ noTitle.book.owed = [] ∧
      noTitle.line.pacing = [] ∧ (queues noTitle (fullTx 12)).line.tx.length ≤ 12 ∧
      (entryOf 4 .cartridge (.takenSelf (own 1))).releaseCount < 2 ∧
      BrailleRow noTitle (loanOf 1 4 .claimed (some ⟨.copy, .queued, 0⟩) none) noTitle :=
  ⟨by decide, by decide, by decide, by decide, by decide, by decide, rfl, rfl, by decide, by decide, rfl⟩

theorem witness_LineBitsReceivedAsSent :
    (⟨4, 1, 21, (Payload.order 33 44 w1 .both 12).bytes⟩ : RawFrame).payload.length ≤ 16 ∧
      (⟨15, 1, 21, List.replicate 16 255⟩ : RawFrame).payload.length ≤ 16 ∧ 10 < hallCfg.timing.settle ∧
      1 ≤ hallCfg.timing.tail := by decide

/-- An ORDER of desk 21. -/
def orderFrame : Frame := ⟨1, 21, .order 33 44 w1 .both 12⟩

/-- The receive queue with `k` frames and the overrun flag. -/
def rxHall (k : Nat) (overrun : Bool) : State :=
  { hall with line := { hall.line with rx := List.replicate k ⟨orderFrame, 3⟩, overrun := overrun } }

/-- One witness for each clause: a frame of this station and a LOANSTATE, a queue with one entry free, and a full queue
with and without the overrun flag. -/
theorem witness_FrameReceivedJoinsQueue :
    orderFrame.ok = true ∧ { orderFrame with sender := 17 }.ok = true ∧ hall.start.own = some 17 ∧
      (⟨0, 3, .loanState (own 5) 4 .lost 7⟩ : Frame).ok = true ∧
      (⟨0, 3, .loanState (own 5) 4 .lost 7⟩ : Frame).payload.kind = 7 ∧
      hall.start.own ≠ some orderFrame.sender ∧ orderFrame.payload.kind ≠ 7 ∧
      (rxHall 15 false).line.timing = some hallCfg.timing ∧ (rxHall 15 false).line.state = .running ∧
      (rxHall 15 false).line.following = true ∧ (∀ e ∈ (rxHall 15 false).line.tx, e.inTransmission = false) ∧
      (rxHall 15 false).line.rx.length < 16 ∧
      16 ≤ (rxHall 16 true).line.rx.length ∧ (rxHall 16 true).line.overrun = true ∧
      16 ≤ (rxHall 16 false).line.rx.length ∧ (rxHall 16 false).line.overrun = false := by decide

/-- A raw frame that no frame in range builds: a kind of 9, and a HELD with a payload a byte too long. -/
theorem witness_FrameReceivedJoinsQueue_discarded :
    (∀ f : Frame, f.ok = true → f.raw ≠ ⟨9, 0, 21, []⟩) ∧
      (∀ f : Frame, f.ok = true → f.raw ≠ ⟨0, 0, 21, [0, 0, 0, 1, 0]⟩) := by
  refine ⟨fun f _ h => ?_, fun f _ h => ?_⟩
  · have := congrArg RawFrame.kind h
    rcases f with ⟨r, s, p⟩
    cases p <;> simp [Frame.raw, Payload.kind] at this
  · have h1 := congrArg RawFrame.kind h
    have h2 := congrArg (fun r : RawFrame => r.payload.length) h
    rcases f with ⟨r, s, p⟩
    cases p <;> simp [Frame.raw, Payload.kind, Payload.bytes, bytesOf] at h1 h2

/-- A station that went to JOINING with a reception under way. -/
theorem witness_FrameReceivedJoinsQueue_joining :
    let s : State := { hall with line := { hall.line with state := .joining, finishing := true } }
    s.line.state = .joining ∧ s.line.finishing = true ∧ (∀ e ∈ s.line.tx, e.inTransmission = false) := by decide

/-- `hall` in another line state. -/
def lineIn (st : LineState) : State := { hall with line := { hall.line with state := st } }

/-- `hall` muted up to 10,000 ms. -/
def muted : State := { hall with line := { hall.line with state := .muted, muteDeadline := some 10000, failCount := 16 } }

theorem witness_ReceiveAndIdleEvents :
    (lineIn .listen).line.state = .listen ∧ (lineIn .listen).line.following = true ∧
      (∀ x ∈ (lineIn .listen).line.tx, x.inTransmission = false) ∧ (lineIn .joining).line.state = .joining ∧
      hall.line.state ≠ .joining ∧ muted.line.state = .muted ∧ muted.line.muteDeadline = some 10000 ∧
      (muted.time.ms - 10000).toNat < 2147483648 ∧ hall.line.state ≠ .muted := by decide

/-- An entry that is being sent stands between `pre` and `post`. -/
abbrev Sending (s : State) (pre : List TxEntry) (x : TxEntry) (post : List TxEntry) : Prop :=
  s.line.tx = pre ++ x :: post ∧ (∀ y ∈ pre, y.inTransmission = false) ∧ x.inTransmission = true

/-- A HELD that waits. -/
def heldTx : TxEntry := txOf 0 (.held 4) false

/-- The BID for an order, waiting or being sent. -/
def bidTx (o : OrderNo) (p : Path) (sending : Bool) : TxEntry := txOf 60 (.bid o p) sending

/-- The queue may be sent from, empty and with two entries; and the three ways it may not. -/
theorem witness_TransmitStartSendsLowestField :
    (hall.line.state = .running ∧ hall.line.following = true ∧ hall.line.sentBits = 0 ∧ hall.line.tx = []) ∧
      ({ hall with line := { hall.line with sentBits := 26 } } : State).line.sentBits ≠ 0 ∧
      (queues hall [bidTx 2 .copy false, heldTx]).line.tx ≠ [] ∧
      (∀ e ∈ (queues hall [bidTx 2 .copy false, heldTx]).line.tx, e.inTransmission = false) ∧
      (lineIn .muted).line.state ≠ .running ∧
      ({ hall with line := { hall.line with following := false } } : State).line.following = false ∧
      (∃ e ∈ (queues hall [bidTx 2 .copy true]).line.tx, e.inTransmission = true) ∧
      (⟨0, 17, .held 4⟩ : Frame).field < (⟨60, 17, .bid 2 .copy⟩ : Frame).field := by decide

/-- A BID is being sent behind a HELD, with a failure count. -/
def sends (failCount : Nat) : State :=
  let s := queues hall [heldTx, bidTx 2 .copy true]
  { s with line := { s.line with failCount := failCount } }

/-- The fifteenth failure, and the sixteenth. -/
theorem witness_FailedTransmissionStaysQueued :
    Sending (sends 14) [heldTx] (bidTx 2 .copy true) [] ∧ (bidTx 2 .copy true).withdrawPending = false ∧
      (sends 14).line.failCount + 1 < 16 ∧ Sending (sends 15) [heldTx] (bidTx 2 .copy true) [] ∧
      16 ≤ (sends 15).line.failCount + 1 ∧ (sends 15).line.state = .running := by decide

/-- The waves of every outcome, arbitration lost at the last bit of the field and the bit error just after it. -/
theorem witness_FailedTransmissionStaysQueued_waves :
    let f := (bidTx 2 .copy true).frame
    (sends 14).line.timing = some hallCfg.timing ∧ arbitrationEnd f.raw.lineBits = 26 ∧
      (sends 14).sendOutcome (lostWave f) = some (.lostArbitration 26) ∧
      (sends 14).sendOutcome (errorWave f) = some .bitError ∧ (sends 15).sendOutcome (unackedWave f) = some .noAck ∧
      (sends 14).sendOutcome (ackedWave f) = some .success ∧ (sends 14).sendOutcome [false] = none := by decide +kernel

/-- Bits sent and levels heard: a difference in the field and one after it, none but in the slot, and levels that end. -/
theorem witness_FailedTransmissionStaysQueued_bits :
    let sent := (bidTx 2 .copy true).frame.raw.lineBits
    sent[25]? = some true ∧ sent[26]? = some false ∧ sentSlot sent = 84 ∧ 10 ≤ sent.length ∧
      (∀ i < 95, i ≠ 84 → (sent.set 84 false)[i]? = sent[i]?) ∧ (sent.set 84 false)[84]? = some false ∧
      sent[84]? = some true ∧ (sent.take 30).length < sent.length ∧ ∀ i < 30, (sent.take 30)[i]? = sent[i]? := by
  decide +kernel

/-- The BID of an order that is marked withdrawal-pending. -/
def pendingTx (o : OrderNo) : TxEntry := { bidTx o .copy true with withdrawPending := true }

/-- `hall` with one entry more, for order 40. -/
def withEntry (e : Entry) : State := { hall with book := ⟨[e], []⟩ }

def removed : State := withEntry (entryOf 40 .cartridge (.queued copyPledge (.awaited (some .remove))))

/-- The pending causes: HEARD, TITLE-VOID, REMOVE and one that a RELEASE has cleared. -/
theorem witness_WithdrawnBidTakesOutcome :
    Sending (queues hall [heldTx, pendingTx 7]) [heldTx] (pendingTx 7) [] ∧ (∀ y ∈ [heldTx], y.frame ≠ (pendingTx 7).frame) ∧
      (pendingTx 7).withdrawPending = true ∧ hall.line.pacing = [] ∧ hall.line.failCount < 15 ∧
      entryState hall 7 = some (.queued copyPledge (.awaited (some (.heard 9)))) :=
  ⟨⟨rfl, by decide, rfl⟩, by decide, rfl, rfl, by decide, by decide⟩

theorem witness_WithdrawnBidTakesOutcome_causes :
    Sending (queues hall [heldTx, pendingTx 3]) [heldTx] (pendingTx 3) [] ∧
      entryState hall 3 = some (.queued copyPledge (.awaited (some .void))) ∧
      Sending (queues hall [heldTx, pendingTx 8]) [heldTx] (pendingTx 8) [] ∧
      entryState hall 8 = some (.queued copyPledge (.awaited none)) ∧
      Sending (queues removed [heldTx, pendingTx 40]) [heldTx] (pendingTx 40) [] ∧
      entryState removed 40 = some (.queued copyPledge (.awaited (some .remove))) :=
  ⟨⟨rfl, by decide, rfl⟩, by decide, ⟨rfl, by decide, rfl⟩, by decide, ⟨rfl, by decide, rfl⟩, by decide⟩

/-- The frame that is lost, fails and is not acknowledged. -/
theorem witness_WithdrawnBidTakesOutcome_waves :
    let s := queues hall [heldTx, pendingTx 7]
    s.sendOutcome (lostWave (pendingTx 7).frame) = some (.lostArbitration 26) ∧
      s.sendOutcome (errorWave (pendingTx 7).frame) = some .bitError ∧
      s.sendOutcome (unackedWave (pendingTx 7).frame) = some .noAck := by decide +kernel

theorem witness_SuccessLeavesQueue :
    Sending (queues hall [bidTx 2 .copy false, txOf 0 (.held 4) true]) [bidTx 2 .copy false] (txOf 0 (.held 4) true) [] ∧
      hall.line.pacing = [] ∧ (txOf 0 (.held 4) true).frame.payload = .held 4 ∧
      Sending (queues hall [txOf 0 (.release 6 1 .titleVoid) true, heldTx]) [] (txOf 0 (.release 6 1 .titleVoid) true)
        [heldTx] ∧
      2 ≤ (txOf 0 (.release 6 1 .titleVoid) true).frame.payload.kind := by decide

/-- A frame in transmission that is acknowledged. -/
abbrev Acked (s : State) (x : TxEntry) : Prop := s.sendOutcome (ackedWave x.frame) = some .success

theorem witness_SuccessLeavesQueue_waves :
    Acked (queues hall [bidTx 2 .copy false, txOf 0 (.held 4) true]) (txOf 0 (.held 4) true) ∧
      Acked (queues hall [txOf 0 (.release 6 1 .titleVoid) true, heldTx]) (txOf 0 (.release 6 1 .titleVoid) true) := by
  decide +kernel

/-- The TITLE-VOID clause stands at its boundaries: 12 entries stay queued, and the release count is 1. -/
theorem witness_CompletedBidNotWon :
    Sending (queues hall [heldTx, bidTx 7 .copy true]) [heldTx] (bidTx 7 .copy true) [] ∧
      entryState hall 7 = some (.queued copyPledge (.awaited (some (.heard 9)))) ∧
      Sending (queues removed [heldTx, bidTx 40 .copy true]) [heldTx] (bidTx 40 .copy true) [] ∧
      entryState removed 40 = some (.queued copyPledge (.awaited (some .remove))) ∧
      Sending (queues hall (fullTx 12 ++ [bidTx 3 .copy true])) (fullTx 12) (bidTx 3 .copy true) [] ∧
      (fullTx 12 ++ []).length ≤ 12 ∧ entryState hall 3 = some (.queued copyPledge (.awaited (some .void))) ∧
      hall.book.owed = [] ∧ ((hall.entry? 3).map (·.releaseCount)) = some 1 := by decide

theorem witness_CompletedBidNotWon_waves :
    Acked (queues hall [heldTx, bidTx 7 .copy true]) (bidTx 7 .copy true) ∧
      Acked (queues removed [heldTx, bidTx 40 .copy true]) (bidTx 40 .copy true) ∧
      Acked (queues hall (fullTx 12 ++ [bidTx 3 .copy true])) (bidTx 3 .copy true) := by decide +kernel

/-- The entry of order 3 at release count 2. -/
def countTwo : State := { hall with book := ⟨hall.book.entries.map fun e => { e with releaseCount := 2 }, []⟩ }

/-- The own release whose RELEASE is refused for want of room, behind others owed, and at count 2. -/
theorem witness_CompletedBidNotWon_release :
    Sending (queues hall (fullTx 13 ++ [bidTx 3 .copy true])) (fullTx 13) (bidTx 3 .copy true) [] ∧
      12 < (fullTx 13 ++ []).length ∧
      (∃ e, (queues hall (fullTx 13)).entry? 3 = some e ∧
        ∃ u, OwnReleased (queues hall (fullTx 13)) e .titleVoid u ∧ u.book.owed = [3] ∧ u.line.pacing = [.book]) ∧
      (∃ e, hall.entry? 3 = some e ∧
        ∃ u, OwnReleased { hall with book := ⟨hall.book.entries, [6]⟩ } e .titleVoid u ∧ u.book.owed = [6, 3]) ∧
      (∃ e, countTwo.entry? 3 = some e ∧ ∃ u, OwnReleased countTwo e .titleVoid u ∧ u.entry? 3 = none) := by
  refine ⟨by decide, by decide, ⟨_, rfl, _, State.ownRelease_released _ rfl, ?_⟩,
    ⟨_, rfl, _, State.ownRelease_released _ rfl, ?_⟩, ⟨_, rfl, _, State.ownRelease_released _ rfl, ?_⟩⟩ <;>
    decide +kernel

/-- A pledge of a ready-stock record, and of a braille set. -/
def stockPledge : Pledge := ⟨some 601, true, false, .reissue, 90, 0, 0⟩
def braillePledge : Pledge := ⟨none, true, false, .brailleOnly, 90, 0, 0⟩

/-- `hall` at the last loan sequence number, with order 40 queued. -/
def winning (f : Format) (p : Pledge) : State :=
  { withEntry (entryOf 40 f (.queued p .none)) with
    tables := { hallTables with loanSeq := 262143, stock := [⟨601, w1, 2, .pledged 40, some 3⟩] } }

/-- The four wins: COPY of a VALID title, with and without a cause that a RELEASE has cleared; REISSUE of order in both
formats; BRAILLE; and COPY of a title that is no longer VALID. -/
theorem witness_WinCreatesLoan :
    Sending (queues hall [heldTx, bidTx 2 .copy true]) [heldTx] (bidTx 2 .copy true) [] ∧ hall.line.pacing = [] ∧
      entryState hall 2 = some (.queued copyPledge .none) ∧ entryState hall 8 = some (.queued copyPledge (.awaited none)) ∧
      hall.freeSeq 32769 hall.tables.loanSeq = 9 ∧ hall.loan? (makeNumber 17 9) = none ∧
      (∀ y ∈ hall.book.entries, y.state ≠ .takenSelf (makeNumber 17 9)) ∧
      hall.dir? w1 = some ⟨w1, 0, 400, 7, .valid⟩ ∧
      Sending (queues (winning .both stockPledge) [bidTx 40 .reissue true]) [] (bidTx 40 .reissue true) [] ∧
      (winning .both stockPledge).freeSeq 32769 262143 = 262143 ∧
      (winning .both stockPledge).loan? (makeNumber 17 262143) = none ∧
      (∀ y ∈ (winning .both stockPledge).book.entries, y.state ≠ .takenSelf (makeNumber 17 262143)) ∧
      entryState (winning .both stockPledge) 40 = some (.queued stockPledge .none) ∧
      stockPledge.path = .reissue ∧ stockPledge.serial = some 601 ∧
      entryState (winning .braille braillePledge) 40 = some (.queued braillePledge .none) ∧
      braillePledge.path = .brailleOnly ∧
      Sending (queues noTitle (fullTx 12 ++ [bidTx 2 .copy true])) (fullTx 12) (bidTx 2 .copy true) [] ∧
      noTitle.dir? w1 = none ∧ noTitle.book.owed = [] ∧ (fullTx 12 ++ []).length ≤ 12 ∧
      ((noTitle.entry? 2).map (·.releaseCount)) = some 1 := by decide

theorem witness_WinCreatesLoan_waves :
    Acked (queues hall [heldTx, bidTx 2 .copy true]) (bidTx 2 .copy true) ∧
      Acked (queues (winning .both stockPledge) [bidTx 40 .reissue true]) (bidTx 40 .reissue true) ∧
      Acked (queues noTitle (fullTx 12 ++ [bidTx 2 .copy true])) (bidTx 2 .copy true) := by decide +kernel

theorem witness_NumberSearchesFindFree :
    (262143 : LoanSeq) ≠ 0 ∧ hall.tables.loans.length ≤ 32768 ∧ (65535 : TrayNo) ≠ 0 ∧ (1 : TrayNo) ≠ 0 := by decide

/-- `hall` with a pacing list. -/
def paced (s : State) (xs : List PacedOwner) : State := { s with line := { s.line with pacing := xs } }

theorem witness_AdmissionToTransmitQueue :
    (queues hall (fullTx 16)).line.tx.length ≤ 16 ∧ (queues hall (fullTx 15)).line.tx.length < 16 ∧
      (queues hall (fullTx 16)).line.tx.length = 16 ∧ (queues hall (fullTx 12)).line.tx.length ≤ 12 ∧
      (queues hall (fullTx 12)).line.pacing = [] ∧
      (paced (queues hall (fullTx 12)) [.tray, .book]).line.pacing = .tray :: [.book] ∧
      PacedOwner.tray ∉ [PacedOwner.book] ∧ 12 < (queues hall (fullTx 13)).line.tx.length ∧ PacedOwner.tray ≠ .book := by
  decide

/-- The Order Book stands first on the pacing list with one RELEASE owed. -/
def owing : State :=
  paced { hall with book := ⟨[{ entryOf 6 .cartridge .unbid with owed := some .copyFailed }], [6]⟩ } [.book]

/-- The RELEASE that completes. -/
def sentTx : TxEntry := txOf 0 (.release 99 1 .titleVoid) true

/-- With 12 entries left there is room, with 13 there is none. -/
theorem witness_RoomEventServesFirstOwner :
    Sending (queues owing (fullTx 12 ++ [sentTx])) (fullTx 12) sentTx [] ∧ 2 ≤ sentTx.frame.payload.kind ∧
      owing.line.pacing = [.book] ∧ owing.book.owed = [6] ∧ ((owing.entry? 6).map (·.owed)) = some (some .copyFailed) ∧
      ((owing.entry? 6).map (·.releaseCount)) = some 1 ∧ (fullTx 12 ++ []).length ≤ 12 ∧
      Sending (queues owing (fullTx 13 ++ [sentTx])) (fullTx 13) sentTx [] ∧ 12 < (fullTx 13 ++ []).length ∧
      (fullTx 13 ++ []).length ≤ 16 := by decide

/-- The Returns Unit waits with a filled outbox entry beside one not yet decided. -/
def returnsWait : State :=
  paced { hall with returns := ⟨[⟨own 2, 700, 4214, none, false, some 1⟩, ⟨own 3, 701, 4214, some .kept, false, none⟩], []⟩ }
    [.returns]

/-- The Tray Unit waits with the last loan of the one tray in DISPATCHING. -/
def trayWait : State :=
  paced { hall with
    tables :=
      { hallTables with
        trays := (Vector.replicate 16 none).set 3 (some (trayOf 3 .dispatching [own 7])), dispatchLine := [3] } } [.tray]

/-- The Loan Register waits with the OVERDUE notice of loan 8, the last record. -/
def registerWait : State :=
  paced { hall with
    tables := { hallTables with loans := hallTables.loans.take 7 ++ [sent 8 .overdue] }
    scan := ⟨true, some (own 8), false, some (own 8, .overdue)⟩ } [.register]

theorem witness_RoomEventServesFirstOwner_owners :
    Acked (queues owing (fullTx 12 ++ [sentTx])) sentTx ∧
      returnsWait.line.pacing = [.returns] ∧ returnsWait.returns.wait = [] ∧
      returnsWait.returns.outbox =
        [⟨own 2, 700, 4214, none, false, some 1⟩] ++ ⟨own 3, 701, 4214, some .kept, false, none⟩ :: [] ∧
      (∀ z ∈ ([⟨own 2, 700, 4214, none, false, some 1⟩] : List OutEntry) ++ [],
        (z.condition = none ∨ z.held = true) ∧ z.loan ≠ own 3) ∧
      trayWait.line.pacing = [.tray] ∧ trayWait.line.state ≠ .listen ∧ trayWait.tables.dispatchLine = [3] ∧
      trayWait.tray 3 = some (trayOf 3 .dispatching [own 7]) ∧ (trayWait.loan? (own 7)).isSome ∧
      (trayWait.entryOfLoan? (own 7)).isSome ∧ registerWait.line.pacing = [.register] ∧
      registerWait.scan.owed = some (own 8, .overdue) ∧ registerWait.loan? (own 8) = some (sent 8 .overdue) ∧
      (sent 8 .overdue).overdueSent = false ∧ (sent 8 .overdue).recovery ≠ .owed ∧
      (sent 8 .overdue).cart = some ⟨.copy, .ready 500, 0⟩ ∧ (paced hall [.book]).book.owed = [] := by decide +kernel

/-- The Order Book owes the RELEASEs of orders 6 and 5, and the Tray Unit waits behind it. -/
def owingTwo : State :=
  paced { hall with
    book :=
      ⟨[{ entryOf 6 .cartridge .unbid with owed := some .copyFailed },
        { entryOf 5 .cartridge .unbid with owed := some .titleVoid }], [6, 5]⟩ } [.book, .tray]

/-- The Returns Unit has a second entry to offer, behind one not yet decided. -/
def returnsTwo : State :=
  paced { hall with
    returns :=
      ⟨[⟨own 2, 700, 4214, none, false, some 1⟩, ⟨own 3, 701, 4214, some .kept, false, none⟩,
        ⟨own 4, 702, 4214, some .erased, false, none⟩], []⟩ } [.book, .returns, .tray]

/-- The tray of `trayWait` holds loan 8 behind loan 7, and another tray with loan 2 stands behind it on the line. -/
def trayTwo (ls : List LoanNo) : State :=
  paced { hall with
    tables :=
      { hallTables with
        trays :=
          ((Vector.replicate 16 none).set 3 (some (trayOf 3 .dispatching ls))).set 5
            (some (trayOf 4 .dispatching [own 2]))
        dispatchLine := [3, 5] } } [.register, .tray, .book]

/-- Loan 8 is LOST, and owes both its notices. -/
def registerTwo : State :=
  paced { hall with
    tables := { hallTables with loans := hallTables.loans.take 7 ++ [sent 8 .lost] }
    scan := ⟨true, some (own 8), false, some (own 8, .overdue)⟩ } [.register, .tray]

/-- A second owner waits behind the first, and owners with nothing to offer stand before it. -/
theorem witness_RoomEventServesFirstOwner_several :
    (paced owing [.book, .tray]).line.pacing = [] ++ .book :: [.tray] ∧ (paced owing [.book, .tray]).line.pacing.Nodup ∧
      owingTwo.line.pacing = [] ++ .book :: [.tray] ∧ owingTwo.book.owed = 6 :: 5 :: [] ∧
      (6 : OrderNo) ∉ (5 : OrderNo) :: [] ∧
      ((owingTwo.entry? 6).map fun e => (e.owed, e.releaseCount)) = some (some .copyFailed, 1) ∧
      ((owingTwo.entry? 5).map (·.owed)) = some (some .titleVoid) ∧
      returnsTwo.line.pacing = [.book] ++ .returns :: [.tray] ∧ returnsTwo.book.owed = [] ∧
      returnsTwo.returns.outbox =
        [⟨own 2, 700, 4214, none, false, some 1⟩] ++ ⟨own 3, 701, 4214, some .kept, false, none⟩ ::
          [⟨own 4, 702, 4214, some .erased, false, none⟩] ∧
      (trayTwo [own 7]).line.pacing = [.register] ++ .tray :: [.book] ∧ (trayTwo [own 7]).scan.owed = none ∧
      (trayTwo [own 7, own 8]).tray 3 = some (trayOf 3 .dispatching [own 7, own 8]) ∧
      (trayTwo [own 7]).tray 5 = some (trayOf 4 .dispatching [own 2]) ∧ ((trayTwo [own 7]).loan? (own 2)).isSome ∧
      registerTwo.line.pacing = [] ++ .register :: [.tray] ∧ registerTwo.loan? (own 8) = some (sent 8 .lost) ∧
      (sent 8 .lost).lostSent = false ∧ (sent 8 .lost).recovery = .none ∧
      (∀ o ∈ (paced hall [.book, .returns]).line.pacing, o = .book ∨ o = .returns) ∧ hall.book.owed = [] ∧
      hall.returns.outbox = [] ∧
      ({ paced hall [.register] with scan := ⟨true, none, false, some (own 99, .lost)⟩ } : State).loan? (own 99) = none := by
  decide

/-- The head of the receive queue. -/
abbrev Hears (s : State) (rank : BitVec 14) (x : Station) (p : Payload) : Prop :=
  s.line.rx = ⟨⟨rank, x, p⟩, 9980⟩ :: []

/-- An ORDER from desk 21. -/
def orderOf (o : OrderNo) : Payload := .order o 7 w1 .both 3

/-- `hall` with a book of `k` entries. -/
def booked (k : Nat) (st : EntryState) : State := { hall with book := ⟨List.replicate k (entryOf 6 .cartridge st), []⟩ }

/-- An order already booked, one without a filter hit, and one that takes the last free entry. -/
theorem witness_OrderIsBooked :
    Hears (hears hall 0 21 (orderOf 4)) 0 21 (orderOf 4) ∧ (∃ e, hall.entry? 4 = some e) ∧
      ({ hall with cfg := Cfg.noImage } : State).filterHit w1.title .both = none ∧
      (booked 95 .unbid).entry? 77 = none ∧ (booked 95 .unbid).filterHit w1.title .both = some 0 ∧
      (booked 95 .unbid).book.entries.length < 96 :=
  ⟨rfl, ⟨_, rfl⟩, by decide, by decide, by decide, by decide⟩

/-- A full book, with one entry in TAKEN(other) that owes a RELEASE and one that owes none. -/
def fullBook (st : EntryState) : State :=
  { hall with
    book :=
      ⟨{ entryOf 5 .cartridge (.takenOther 9) with owed := some .copyFailed } ::
        entryOf 6 .cartridge st :: List.replicate 94 (entryOf 4 .cartridge (.takenSelf (own 1))), [5]⟩ }

theorem witness_FullBookEvicts :
    Hears (hears (fullBook .unbid) 0 21 (orderOf 77)) 0 21 (orderOf 77) ∧ (fullBook .unbid).entry? 77 = none ∧
      (fullBook .unbid).filterHit w1.title .both = some 0 ∧ (fullBook .unbid).book.entries.length = 96 ∧
      (entryOf 6 .cartridge (.takenOther 9)).owed = none ∧ (entryOf 6 .cartridge .unbid).owed = none ∧
      (∀ y ∈ (booked 96 (.window 20000)).book.entries, y.state = .window 20000) :=
  ⟨rfl, by decide, by decide, by decide, rfl, rfl, by decide⟩

/-- A BID of station 9 for an order. -/
def bidHall (s : State) (o : OrderNo) : State := hears s 60 9 (.bid o .copy)

/-- The entry's states in R27's order: not booked, WINDOW, TAKEN(other), TAKEN(self) with and without room for a HELD, a
pending withdrawal, and QUEUED with its BID waiting and being sent. -/
theorem witness_BidHeardByState :
    Hears (bidHall hall 77) 60 9 (.bid 77 .copy) ∧ hall.entry? 77 = none ∧ entryState hall 1 = some (.window 9990) ∧
      entryState hall 5 = some (.takenOther 9) ∧ entryState hall 4 = some (.takenSelf (own 1)) ∧
      (hall.entry? 4).map (·.heldQueued) = some false ∧
      (∀ y ∈ (queues hall (fullTx 15)).line.tx, y.frame.payload ≠ .held 4) ∧ (queues hall (fullTx 15)).line.tx.length < 16 ∧
      16 ≤ (queues hall (fullTx 16)).line.tx.length ∧ (∃ y ∈ (queues hall [heldTx]).line.tx, y.frame.payload = .held 4) ∧
      entryState hall 3 = some (.queued copyPledge (.awaited (some .void))) ∧
      entryState hall 2 = some (.queued copyPledge .none) ∧ hall.line.pacing = [] ∧
      (queues hall [heldTx, bidTx 2 .copy true]).line.tx = [heldTx] ++ bidTx 2 .copy true :: [] ∧
      (bidTx 2 .copy false).inTransmission = false :=
  ⟨rfl, by decide, by decide, by decide, by decide, by decide, by decide, by decide, by decide, by decide, by decide,
    by decide, rfl, rfl, rfl⟩

/-- A loan past withdrawal whose entry stands. -/
def shippedEntry : State := withEntry (entryOf 40 .cartridge (.takenSelf (own 2)))

/-- Another record for a loan. -/
def withLoan (l : Loan) (s : State) : State :=
  { s with
    tables := { s.tables with loans := s.tables.loans.map fun y => if y.number = l.number then l else y } }

/-- Loan 7 in a tray that a DISPATCH has taken. -/
def dispatching : State :=
  { hall with
    tables :=
      { hallTables with
        trays := (Vector.replicate 16 none).set 0 (some (trayOf 3 .dispatching [own 7])), dispatchLine := [0] } }

/-- The only tray of its number. -/
theorem tray_of_number {s : State} {q : Fin 16} {t : TrayNo} (h : ∀ p, ∀ x ∈ s.tray p, x.number = t → p = q) :
    ∀ p x, s.tray p = some x → x.number = t → p = q := fun p x hx => h p x hx

/-- A lower station against a CLAIMED loan, a loan in a DISPATCHING tray and an entry whose loan has no record; a higher
one with and without room for a HELD; and the states taken as a BID. -/
theorem witness_HeldHeardByNumber :
    Hears (hears hall 0 16 (.held 4)) 0 16 (.held 4) ∧ hall.entry? 77 = none ∧
      entryState hall 4 = some (.takenSelf (own 1)) ∧ (16 : Station) < hall.start.own.getD 0 ∧
      loanState hall 1 = some .claimed ∧ entryState hall 17 = some (.takenSelf (own 7)) ∧
      loanState dispatching 7 = some .packed ∧ (dispatching.loan? (own 7)).bind (·.tray) = some 3 ∧
      dispatching.tray 0 = some (trayOf 3 .dispatching [own 7]) ∧
      (∀ p z, dispatching.tray p = some z → z.number = 3 → p = 0) ∧
      (withEntry (entryOf 40 .cartridge (.takenSelf (own 99)))).loan? (own 99) = none ∧
      hall.start.own.getD 0 < (18 : Station) ∧ (hall.entry? 4).map (·.heldQueued) = some false ∧
      (∀ y ∈ (queues hall (fullTx 15)).line.tx, y.frame.payload ≠ .held 4) ∧
      (queues hall (fullTx 15)).line.tx.length < 16 ∧ 16 ≤ (queues hall (fullTx 16)).line.tx.length :=
  ⟨rfl, by decide, by decide, by decide, by decide, by decide, by decide, by decide, by decide,
    tray_of_number (by decide), by decide, by decide, by decide, by decide, by decide, by decide⟩

theorem witness_HeldHeardByNumber_bid :
    entryState hall 1 = some (.window 9990) ∧ entryState hall 6 = some .unbid ∧ entryState hall 5 = some (.takenOther 9) ∧
      entryState hall 3 = some (.queued copyPledge (.awaited (some .void))) ∧
      entryState hall 2 = some (.queued copyPledge .none) ∧ hall.line.pacing = [] ∧
      (queues hall [heldTx, bidTx 2 .copy false]).line.tx = [heldTx] ++ bidTx 2 .copy false :: [] ∧
      (queues hall [heldTx, bidTx 2 .copy true]).line.tx = [heldTx] ++ bidTx 2 .copy true :: [] := by decide

/-- A gang of one member in socket 1, which copies loan 1 in a buffer, and of two. -/
def copyingHall : State :=
  let s := withLoan (loanOf 1 4 .claimed (some ⟨.copy, .copying, 0⟩) none)
    (holds hall (seated (.copying ⟨4, backlogJob 400 180, .preparing⟩) (some (blankView 700 165))
      (some (.guarded (markerWrite 0) (.beforeCommand none)))))
  { s.setBuffer 2 ⟨.gang 4, [], none⟩ with
    copy := { (s.setBuffer 2 ⟨.gang 4, [], none⟩).copy with gangs := [⟨4, w1, 0, 400, some 2, 1, true, 0⟩], nextGang := 5 } }

def copyingTwo : State :=
  copyingHall.setSocket 2
    (seated (.copying ⟨4, { backlogJob 400 180 with loan := own 98 }, .preparing⟩) (some (blankView 701 165))
      (some (.guarded (markerWrite 0) (.beforeCommand none))))

/-- Loan 5's cartridge is being tagged in socket 1. -/
def taggingHall : State :=
  withLoan (loanOf 5 15 .claimed (some ⟨.reissue, .copying, 0⟩) none)
    (holds hall (seated (.tagging (own 5) false) (some (blankView 605 165))
      (some (.guarded (tagWrite 1 (own 5) 17 4214) (.beforeCommand none)))))

/-- The cartridge of loan 6 lies in socket 1, tagged. -/
def doneView : View := (blankView 506 165).apply (tagWrite 1 (own 6) 17 4100)
def doneHall : State := holds hall (seated (.done (own 6)) (some doneView) none)

/-- A row's state: what becomes of a loan by the rows of R65. -/
abbrev Rows (s : State) (l : Loan) : Prop := ∃ a b c, TrayRow s l a ∧ CartRow a l b ∧ BrailleRow b l c

/-- What holds of the sockets in DONE where none is. -/
theorem none_done {s : State} {p : Idx8 → Prop} (h : ∀ q, (s.socket q).state = .empty) :
    ∀ q z, (s.socket q).state = .done z → p q := fun q z hz => by rw [h q] at hz; cases hz

/-- The rows of R65: a job in the queue; a PACKED loan, whose serial no DONE socket holds; a set PLEDGED and PICKED; a
reissue awaited, and one tagged in a socket; and a cartridge in a DONE socket. -/
theorem witness_WithdrawalActs_queued : Rows hall (loanOf 1 4 .claimed (some ⟨.copy, .queued, 0⟩) none) :=
  ⟨_, _, _, .inl ⟨by decide, rfl⟩, rfl, rfl⟩

theorem witness_WithdrawalActs_packed :
    Rows hall { loanOf 7 17 .packed (some ⟨.copy, .ready 507, 0⟩) (some ⟨w1, .picked⟩) with container := some 9, tray := some 3 } :=
  ⟨_, _, _, .inr ⟨rfl, 0, trayOf 3 .filling [own 7], rfl, rfl, tray_of_number (by decide), rfl⟩,
    .inl ⟨none_done (by decide), rfl⟩, rfl⟩

theorem witness_WithdrawalActs_braille : Rows hall (loanOf 4 14 .claimed none (some ⟨w1, .pledged⟩)) :=
  ⟨_, _, _, .inl ⟨by decide, rfl⟩, rfl, rfl⟩

theorem witness_WithdrawalActs_reissue : Rows hall (loanOf 5 15 .claimed (some ⟨.reissue, .queued, 0⟩) none) :=
  ⟨_, _, _, .inl ⟨by decide, rfl⟩, ⟨⟨605, w1, 3, .issuing (own 5), some 8⟩, by decide, rfl⟩, rfl⟩

/-- A socket other than the one named stands in another state. -/
theorem socket_is {s : State} {n : Idx8} (h : ∀ q, q ≠ n → (s.socket q).state = .empty) {q : Idx8} {st : SockState}
    (hq : (s.socket q).state = st) (hst : st ≠ .empty) : q = n :=
  Decidable.byContradiction fun hn => hst (hq.symm.trans (h q hn))

theorem witness_WithdrawalActs_tagging :
    Rows taggingHall (loanOf 5 15 .claimed (some ⟨.reissue, .copying, 0⟩) none) :=
  ⟨_, _, _, .inl ⟨by decide, rfl⟩, ⟨⟨605, w1, 3, .issuing (own 5), some 8⟩, 1, by decide, rfl,
    fun q b hq => socket_is (s := taggingHall) (by decide) hq (by simp), rfl⟩, rfl⟩

theorem witness_WithdrawalActs_done : Rows doneHall (loanOf 6 16 .ready (some ⟨.copy, .ready 506, 0⟩) none) :=
  ⟨_, _, _, .inl ⟨by decide, rfl⟩, .inr ⟨1, own 6, doneView, 1, rfl, rfl, by decide +kernel, by decide +kernel, by decide +kernel,
    fun q y hq _ => socket_is (s := doneHall) (by decide) hq (by simp), by decide +kernel, rfl⟩, rfl⟩

/-- The two members' copying, the second at some progress, at block `i` of the gang's 400. -/
def copyingAt (p : Progress) (i : Nat) : State :=
  let s := copyingTwo.setSocket 2
    (seated (.copying ⟨4, { backlogJob 400 180 with loan := own 98 }, p⟩) (some (blankView 701 165)) none)
  { s with copy := { s.copy with gangs := [⟨4, w1, 0, 400, some 2, i, true, i - 1⟩] } }

/-- Loan 1's member waits for a block, with no operation in its socket. -/
def waitingMember : State :=
  copyingTwo.setSocket 1 (seated (.copying ⟨4, backlogJob 400 180, .waiting⟩) (some (blankView 700 165)) none)

/-- Loan 1's member leaves: one beside a member still at work, the only one, one that waits, and the last that had not
finished a block, with the store at rest, and the last block. -/
theorem witness_WithdrawalActs_member :
    Rows copyingTwo (loanOf 1 4 .claimed (some ⟨.copy, .copying, 0⟩) none) ∧
      Rows copyingHall (loanOf 1 4 .claimed (some ⟨.copy, .copying, 0⟩) none) ∧
      Rows waitingMember (loanOf 1 4 .claimed (some ⟨.copy, .copying, 0⟩) none) :=
  ⟨⟨_, _, _, .inl ⟨by decide, rfl⟩, ⟨1, ⟨4, backlogJob 400 180, .preparing⟩, _, .inl (by decide), by decide, by decide,
      .inr (.inl ⟨by decide, rfl⟩), .inl ⟨by decide, rfl⟩⟩, rfl⟩,
    ⟨_, _, _, .inl ⟨by decide, rfl⟩, ⟨1, ⟨4, backlogJob 400 180, .preparing⟩, _, .inl (by decide), by decide, by decide,
      .inl ⟨by decide, ⟨4, w1, 0, 400, some 2, 1, true, 0⟩, by decide, .inr ⟨2, rfl, .inl ⟨by decide, rfl⟩⟩⟩,
      .inl ⟨by decide, rfl⟩⟩, rfl⟩,
    ⟨_, _, _, .inl ⟨by decide, rfl⟩, ⟨1, ⟨4, backlogJob 400 180, .waiting⟩, _, .inl (by decide), by decide, by decide,
      .inr (.inl ⟨by decide, rfl⟩), .inr ⟨by decide, by decide +kernel, rfl⟩⟩, rfl⟩⟩

theorem finished_member {i : Nat} {a : State}
    (h : a.membersOf 4 = [(2, ⟨4, { backlogJob 400 180 with loan := own 98 }, .finished⟩)])
    (hs : a.socket 2 = (copyingAt .finished i).socket 2) :
    ∀ p ∈ a.membersOf 4, (a.socket p.1).state = .copying p.2 ∧ p.2.progress = .finished ∧
      ∃ v, (a.socket p.1).view = some v ∧ v.kind = .stock := by
  intro p hp
  rw [h, List.mem_singleton] at hp
  subst hp
  exact ⟨hs ▸ rfl, rfl, blankView 701 165, hs ▸ rfl, rfl⟩

theorem witness_WithdrawalActs_last :
    Rows (copyingAt .finished 5) (loanOf 1 4 .claimed (some ⟨.copy, .copying, 0⟩) none) ∧
      Rows (copyingAt .finished 400) (loanOf 1 4 .claimed (some ⟨.copy, .copying, 0⟩) none) :=
  ⟨⟨_, _, _, .inl ⟨by decide, rfl⟩, ⟨1, ⟨4, backlogJob 400 180, .preparing⟩, _, .inl (by decide), by decide, by decide,
      .inr (.inr ⟨by decide, finished_member (i := 5) (by decide) rfl, ⟨4, w1, 0, 400, some 2, 5, true, 4⟩, 2, by decide, rfl,
        rfl, .inl ⟨by decide, .inl ⟨by decide, by decide, rfl⟩⟩⟩), .inl ⟨by decide, rfl⟩⟩, rfl⟩,
    ⟨_, _, _, .inl ⟨by decide, rfl⟩, ⟨1, ⟨4, backlogJob 400 180, .preparing⟩, _, .inl (by decide), by decide, by decide,
      .inr (.inr ⟨by decide, finished_member (i := 400) (by decide) rfl, ⟨4, w1, 0, 400, some 2, 400, true, 399⟩, 2, by decide,
        rfl, rfl, .inr ⟨by decide, by decide, rfl⟩⟩), .inl ⟨by decide, rfl⟩⟩, rfl⟩⟩

/-- A BID that waits names no order but its own. -/
theorem heldTx_no_bid (o : OrderNo) : ∀ y ∈ [heldTx], ∀ z, y.frame.payload ≠ .bid o z := by simp [heldTx, txOf]

/-- An order not booked; a BID in transmission, and BIDs whose withdrawal waits with each cause. -/
theorem witness_ShippedOrCancelEndsOrder_waiting :
    Hears (hears hall 0 21 (.cancel 77)) 0 21 (.cancel 77) ∧ hall.entry? 77 = none ∧
      (queues hall [heldTx, bidTx 2 .copy true]).line.tx = [heldTx] ++ bidTx 2 .copy true :: [] ∧
      (bidTx 2 .copy true).inTransmission = true ∧ (bidTx 2 .copy false).inTransmission = false ∧
      entryState hall 3 = some (.queued copyPledge (.awaited (some .void))) ∧
      entryState hall 7 = some (.queued copyPledge (.awaited (some (.heard 9)))) ∧
      entryState hall 8 = some (.queued copyPledge (.awaited none)) := by decide

theorem witness_ShippedOrCancelEndsOrder :
    Hears (hears hall 0 21 (.shipped 1 (makeNumber 9 4) 6 4214 4242)) 0 21 (.shipped 1 (makeNumber 9 4) 6 4214 4242) ∧
      Hears (hears hall 0 21 (.cancel 1)) 0 21 (.cancel 1) ∧ entryState hall 1 = some (.window 9990) ∧
      (hall.entry? 1).map (·.desk) = some 21 ∧ (20 : Station) ≠ 21 ∧ entryState hall 2 = some (.queued copyPledge .none) ∧
      (queues hall [heldTx, bidTx 2 .copy false]).line.tx = [heldTx] ++ bidTx 2 .copy false :: [] ∧
      (∀ y ∈ [heldTx], ∀ z, y.frame.payload ≠ .bid 2 z) ∧ hall.line.pacing = [] ∧
      entryState shippedEntry 40 = some (.takenSelf (own 2)) ∧ loanState shippedEntry 2 = some .shipped ∧
      entryState hall 4 = some (.takenSelf (own 1)) ∧ loanState hall 1 = some .claimed ∧
      entryState dispatching 17 = some (.takenSelf (own 7)) ∧ loanState dispatching 7 = some .packed :=
  ⟨rfl, rfl, by decide, by decide, by decide, by decide, rfl, heldTx_no_bid 2, rfl, by decide, by decide, by decide,
    by decide, by decide, by decide⟩

/-- A RELEASE of station 9 with a count. -/
def releaseHall (s : State) (o : OrderNo) (c : BitVec 2) : State := hears s 0 9 (.release o c .copyFailed)

/-- Counts at, just above and at the top of the entry's count of 1, in each state of the entry. -/
theorem witness_ReleaseHeardByCount :
    Hears (releaseHall hall 77 2) 0 9 (.release 77 2 .copyFailed) ∧ hall.entry? 77 = none ∧
      (hall.entry? 4).map (·.releaseCount) = some 1 ∧ (1 : BitVec 2) ≤ 1 ∧ (1 : BitVec 2) < 2 ∧ (1 : BitVec 2) < 3 ∧
      entryState hall 4 = some (.takenSelf (own 1)) ∧ entryState hall 1 = some (.window 9990) ∧
      entryState hall 5 = some (.takenOther 9) ∧ entryState hall 2 = some (.queued copyPledge .none) ∧
      (queues hall [heldTx, bidTx 2 .copy false]).line.tx = [heldTx] ++ bidTx 2 .copy false :: [] ∧
      (∀ y ∈ [heldTx], ∀ z, y.frame.payload ≠ .bid 2 z) ∧ (bidTx 2 .copy true).inTransmission = true ∧
      hall.line.pacing = [] ∧ entryState hall 3 = some (.queued copyPledge (.awaited (some .void))) ∧
      entryState hall 7 = some (.queued copyPledge (.awaited (some (.heard 9)))) :=
  ⟨rfl, by decide, by decide, by decide, by decide, by decide, by decide, by decide, by decide, by decide, rfl,
    heldTx_no_bid 2, rfl, rfl, by decide, by decide⟩

theorem witness_DateAdvancesDay :
    Hears (hears hall 0 21 (.date 4214)) 0 21 (.date 4214) ∧ (4214 : Day) ≤ hall.tables.day ∧
      hall.tables.day < 4215 := by decide

/-- A LOST loan whose LOST was announced or not. -/
def lostHall (announced : Bool) (b : Option BraillePart) : State :=
  { hall with tables := { hallTables with loans := [{ sent 2 .lost with lostSent := announced, braille := b }] } }

/-- Another station's loan, a serial that is not the loan's, a return that closes the record, one that leaves a RECOVERED
owed and one that leaves a braille part out. -/
theorem witness_ReturnedHeardClosesPart :
    Hears (hears hall 0 9 (.returned (makeNumber 9 2) 500 4214 .kept)) 0 9 (.returned (makeNumber 9 2) 500 4214 .kept) ∧
      hall.start.own ≠ some ((makeNumber 9 2).extractLsb' 18 6) ∧ hall.start.own = some ((own 2).extractLsb' 18 6) ∧
      hall.loan? (own 2) = some (sent 2 .shipped) ∧ (sent 2 .shipped).cart = some ⟨.copy, .ready 500, 0⟩ ∧
      (500 : Serial) ≠ 501 ∧ (sent 2 .shipped).braille = none ∧ (sent 2 .shipped).recovery ≠ .owed ∧
      (lostHall true none).loan? (own 2) = some { sent 2 .lost with lostSent := true } ∧
      (lostHall false (some ⟨w1, .picked⟩)).loan? (own 2) = some { sent 2 .lost with braille := some ⟨w1, .picked⟩ } :=
  ⟨rfl, by decide, by decide, by decide, rfl, by decide, rfl, by decide, by decide, by decide⟩

/-- A book whose one window is not yet due. -/
def notDue : State := withEntry (entryOf 18 .cartridge (.window 20000))

/-- No window due; the first entry due at its very millisecond; LISTEN; an excluded order; no bid; a full queue; a bid. -/
theorem witness_WindowExpiryDecides :
    (∀ e ∈ notDue.book.entries, ¬ ∃ d, e.state = .window d ∧ (notDue.time.ms - d).toNat < 2147483648) ∧
      hall.book.entries = [] ++ entryOf 1 .cartridge (.window 9990) :: hall.book.entries.tail ∧
      (hall.time.ms - 9990).toNat < 2147483648 ∧ (hall.time.ms - 10000).toNat < 2147483648 ∧ (18 : OrderNo) ≠ 1 ∧
      (lineIn .listen).line.state = .listen ∧ { entryOf 1 .cartridge (.window 10000) with excluded := true }.excluded = true ∧
      hall.bid w2 .cartridge (some 0) = none ∧ 16 ≤ (queues hall (fullTx 16)).line.tx.length ∧
      hall.line.state ≠ .listen ∧ (entryOf 1 .cartridge (.window 9990)).excluded = false ∧
      hall.bid w1 .cartridge (some 0) = some ⟨.reissue, some 600, false, false, 181, 0, 0⟩ ∧
      (queues hall (fullTx 15)).line.tx.length < 16 :=
  ⟨by simp [notDue, withEntry, entryOf, hall], rfl, by decide, by decide, by decide, rfl, rfl, by decide, by decide,
    by decide, rfl, by decide +kernel, by decide⟩

/-- The four ways to no bid, and the three paths: no hit, 32,768 records, no cartridge, no set; BRAILLE, REISSUE, COPY. -/
theorem witness_BidAnswerByPath :
    hall.bid w1 .cartridge none = none ∧ hall.bid w2 .cartridge (some 0) = none ∧ hall.bid w2 .braille (some 0) = none ∧
      (hall.bid w1 .braille (some 0)).isSome ∧ (hall.bid w1 .both (some 0)).map (·.path) = some .reissue ∧
      (stationFive.bid w1 .cartridge (some 2)).map (·.path) = some .copy := by decide +kernel

/-- `hall` in a day scan. -/
def scanning (s : State) (last : Option LoanNo) (rescan : Bool) : State := { s with scan := ⟨true, last, rescan, none⟩ }

/-- `hall` with a lost interval of 115 days, so that a loan due on day 4,100 is not lost on day 4,214. -/
def patient : State := { hall with cfg := { hallCfg with lostInterval := 115 } }

/-- The scan idle; its pass at an end; a record that owes nothing; and one that owes an OVERDUE, with the line full and
with room for it. -/
theorem witness_DayScanVisitsNext :
    hall.scan.running = false ∧ (scanning hall none true).scan.running = true ∧ (scanning hall none true).scan.owed = none ∧
      (∀ y ∈ hall.tables.loans, aboveLast (some (own 8)) y.number = false) ∧
      hall.tables.loans = [] ++ loanOf 1 4 .claimed (some ⟨.copy, .queued, 0⟩) none :: hall.tables.loans.tail ∧
      patient.tables.loans = hallTables.loans.take 1 ++ sent 2 .shipped :: hallTables.loans.drop 2 ∧
      aboveLast (some (own 1)) (sent 2 .shipped).number = true ∧
      (∀ y ∈ hallTables.loans.take 1, aboveLast (some (own 1)) y.number = false) ∧
      (4100 : Day) < patient.tables.day ∧ (sent 2 .shipped).dueDay = some 4100 ∧ ¬ (4100 + 115 ≤ 4214) ∧
      (sent 2 .shipped).overdueSent = false ∧ 12 < (queues patient (fullTx 13)).line.tx.length ∧
      (queues patient (fullTx 12)).line.tx.length ≤ 12 ∧ patient.line.pacing = [] ∧
      (sent 2 .shipped).cart = some ⟨.copy, .ready 500, 0⟩ :=
  ⟨rfl, rfl, rfl, by decide, rfl, rfl, by decide, by decide, by decide, rfl, by decide, rfl, by decide, by decide, rfl, rfl⟩

/-- A scan at loan 2, which owes an OVERDUE and a LOST at once, and one whose parts are back, which owes a RECOVERED. -/
def recovered : Loan :=
  { sent 2 .lost with
    cart := some ⟨.copy, .back, 0⟩, overdueSent := true, lostSent := true, recovery := .owed }

theorem witness_DayScanVisitsNext_notices :
    (hall.tables.loans = hallTables.loans.take 1 ++ sent 2 .shipped :: hallTables.loans.drop 2) ∧
      (4100 : Day) < hall.tables.day ∧ 4100 + hall.cfg.lostInterval ≤ hall.tables.day.toNat ∧
      (sent 2 .shipped).overdueSent = false ∧ (sent 2 .shipped).lostSent = false ∧ (sent 2 .shipped).recovery = .none ∧
      (queues hall (fullTx 11)).line.tx.length ≤ 11 ∧
      (withLoan recovered hall).tables.loans = hallTables.loans.take 1 ++ recovered :: hallTables.loans.drop 2 ∧
      aboveLast (some (own 1)) recovered.number = true ∧ recovered.recovery = .owed ∧
      recovered.cart = some ⟨.copy, .back, 0⟩ ∧ recovered.braille = none := by decide

/-- A cartridge already there; an insertion that acts, one in a socket of role OFF, and the limit reached and not. -/
theorem witness_InsertionStartsIdentification :
    ((at1 (.blank true) none).socket 1).present = true ∧ (hall.socket 1).present = false ∧
      hall.start.phase = .running ∧ hall.line.state ≠ .listen ∧ hall.cfg.roles[(1 : Idx8)] ≠ .off ∧
      (hall.socket 1).state = .empty ∧ (hall.socket 7).present = false ∧ hall.cfg.roles[(7 : Idx8)] = .off ∧
      ((at1 (.identifying none) (some (.awaitReady 10000))).socket 1).op = some (.awaitReady 10000) ∧
      (hall.time.ms - 10000).toNat < 2147483648 ∧ ¬ (hall.time.ms - 10001).toNat < 2147483648 := by decide

/-- A gang of one member in socket 1, and of two. -/
def gangHall : State :=
  let s := holds hall (seated (.copying ⟨4, backlogJob 400 180, .preparing⟩) (some (blankView 700 165)) none)
  { s.setBuffer 2 ⟨.gang 4, [], none⟩ with
    copy := { (s.setBuffer 2 ⟨.gang 4, [], none⟩).copy with gangs := [⟨4, w1, 0, 400, some 2, 5, true, 4⟩], nextGang := 5 } }

def gangOfTwo : State :=
  gangHall.setSocket 2 (seated (.copying ⟨4, backlogJob 400 180, .working (.page 3) false⟩) (some (blankView 701 165)) none)

/-- An ingest in socket 1, before and after it has taken buffer 3. -/
def ingestHall (b : Option (Fin 4)) : State := at1 (.ingesting ⟨w2, b, 3, 9⟩) none

/-- A check in socket 1, for another station's loan 2 whose outbox entry stands. -/
def checkHall (c : Check) : State :=
  { at1 (.checking c) none with
    returns := ⟨[⟨own 2, 700, 4214, none, false, some 1⟩], [1, 3]⟩, line := { hall.line with pacing := [.returns] } }

/-- The states of the table of R92. -/
theorem witness_RemovalEmptiesSocket :
    (hall.socket 1).present = false ∧ ((at1 (.blank true) none).socket 1).present = true ∧
      ((at1 (.tagging (own 5) false) none).socket 1).state = .tagging (own 5) false ∧
      (gangHall.socket 1).state = .copying ⟨4, backlogJob 400 180, .preparing⟩ ∧
      gangHall.membersOf 4 = [(1, ⟨4, backlogJob 400 180, .preparing⟩)] ∧
      gangHall.gang? 4 = some ⟨4, w1, 0, 400, some 2, 5, true, 4⟩ ∧ gangHall.copy.current = none ∧
      (∃ p ∈ gangOfTwo.membersOf 4, p.1 ≠ 1 ∧ p.2.progress ≠ .finished) ∧
      ((ingestHall none).socket 1).state = .ingesting ⟨w2, none, 3, 9⟩ ∧
      ((ingestHall (some 3)).socket 1).state = .ingesting ⟨w2, some 3, 3, 9⟩ ∧
      ((checkHall ⟨.foreignReturn, some 2, some (own 2), .waitRoom⟩).socket 1).state =
        .checking ⟨.foreignReturn, some 2, some (own 2), .waitRoom⟩ ∧
      PacedOwner.returns ∈ (checkHall ⟨.foreignReturn, some 2, some (own 2), .verify 1 1⟩).line.pacing ∧
      ((checkHall ⟨.ownReturn, some 2, some (own 2), .closing⟩).socket 1).state =
        .checking ⟨.ownReturn, some 2, some (own 2), .closing⟩ ∧
      ((at1 (.erasing ⟨.foreignReturn, some 2, some (own 2), .closing⟩ 8191 (.block 2)) none).socket 1).state =
        .erasing ⟨.foreignReturn, some 2, some (own 2), .closing⟩ 8191 (.block 2) := by decide

/-- A sector of all ones, and one with the identity record of the stock cartridge 700. -/
def blankSector : List Byte := List.replicate 4096 255

def identity : List Byte := ascii "TBKC" ++ bytesOf 4 700 ++ [1, 1, 0, 100]

def identitySector : List Byte := identity ++ bytesOf 2 (crc16Bytes identity).toNat ++ List.replicate 4082 255

/-- An identification in socket 1 at an operation. -/
def identifying (sector0 : Option (List Byte)) (op : Op) : State := holds hall (seated (.identifying sector0) none (some op))

theorem witness_IdentificationReadsRecords :
    ((identifying none (.awaitReady 11000)).socket 1).op = some (.awaitReady 11000) ∧
      ((identifying none (.awaitReady 11000)).socket 1).hold = none ∧
      ((identifying none (.read 0 4096)).socket 1).op = some (.read 0 4096) ∧
      ((identifying none (.read 0 4096)).socket 1).state = .identifying none ∧ blankSector.length = 4096 ∧
      ((identifying (some blankSector) (.read 4096 4096)).socket 1).state = .identifying (some blankSector) ∧
      ((identifying (some blankSector) (.read 4096 4096)).socket 1).view = none ∧
      parseIdentity blankSector = none ∧ parseIdentity identitySector = some (700, .small, .stock) ∧
      blankSector.tail.length ≠ 4096 ∧ identitySector.length = 4096 :=
  ⟨rfl, rfl, rfl, rfl, List.length_replicate, rfl, rfl, by decide +kernel, by decide +kernel, by decide +kernel,
    by decide +kernel⟩

/-- A block of one byte's value. -/
def block (x : Byte) : List Byte := List.replicate 65536 x

/-- Socket 1 reads block `i` back for gang 4, whose buffer holds a block of fives, `again` after a first difference. -/
def comparing (i : Nat) (again : Bool) : State :=
  let s := holds hall (seated (.copying ⟨4, backlogJob 400 180, .working .reading again⟩) (some (blankView 700 165))
    (some (.read (i * 65536) 65536)))
  { s.setBuffer 2 ⟨.gang 4, block 5, none⟩ with
    copy :=
      { (s.setBuffer 2 ⟨.gang 4, block 5, none⟩).copy with gangs := [⟨4, w1, 0, 400, some 2, i, true, i - 1⟩], nextGang := 5 } }

/-- A second member still at work. -/
def comparingTwo : State :=
  (comparing 5 false).setSocket 2 (seated (.copying ⟨4, backlogJob 400 180, .working (.page 3) false⟩) (some (blankView 701 165)) none)

/-- The compare of a block, of the last block, and with a member still at work; equal bytes and others. -/
theorem witness_IdentificationReadsRecords_compare :
    ((comparing 5 false).socket 1).op = some (.read 327680 65536) ∧ ((comparing 5 false).socket 1).hold = none ∧
      ((comparing 5 false).socket 1).state = .copying ⟨4, backlogJob 400 180, .working .reading false⟩ ∧
      (comparing 5 false).gang? 4 = some ⟨4, w1, 0, 400, some 2, 5, true, 4⟩ ∧
      (comparing 400 true).gang? 4 = some ⟨4, w1, 0, 400, some 2, 400, true, 399⟩ ∧
      (comparing 5 false).membersOf 4 = [(1, ⟨4, backlogJob 400 180, .working .reading false⟩)] ∧
      (∃ p ∈ comparingTwo.membersOf 4, p.1 ≠ 1 ∧ p.2.progress ≠ .finished) ∧ (comparing 5 false).copy.current = none ∧
      (∀ q, ((comparing 5 false).buffer q).request = none) ∧
      ((comparing 5 false).socket 1).view = some (blankView 700 165) ∧ 400 < (blankView 700 165).capacity.blocks := by decide

theorem witness_IdentificationReadsRecords_block :
    (block 5).length = 65536 ∧ ((comparing 5 false).buffer 2).data = block 5 ∧ block 5 ≠ block 4 :=
  ⟨List.length_replicate, rfl, fun h => by simpa using (List.replicate_right_injective (n := 65536) (by decide) h)⟩

/-- Socket 1 reads a block of an ingest or of a check. -/
def ingestRead : State :=
  { at1 (.ingesting ⟨w2, some 2, 3, 9⟩) (some (.read 196608 65536)) with
    tables := { hallTables with directory := [⟨w1, 0, 400, 7, .valid⟩, ⟨w2, 400, 9, 7, .loading⟩] } }

/-- A cartridge of 9 blocks whose image check is that of three bytes. -/
def verifiedView (m : Byte) : View :=
  { blankView 700 m with content := m :: contentBytes w2 9 (imageFinish (imageAdd imagePreset [1, 2, 3])) 3 100 }

def checkRead (mode : CheckMode) (i : Nat) (m : Byte) (keepLimit : Nat) : State :=
  { holds hall (seated (.checking ⟨mode, some 2, some (own 2), .verify i imagePreset⟩) (some (verifiedView m))
      (some (.read (i * 65536) 3))) with
    cfg := { hallCfg with keepLimit := keepLimit } }

/-- An ingest's block, with the store at rest and busy; a check's block before the last and the last, whose sum matches or
not, wanted or not, with the marker spent or set, of a serial with a record and without. -/
theorem witness_IdentificationReadsRecords_owners :
    (ingestRead.socket 1).op = some (.read 196608 65536) ∧ (ingestRead.socket 1).state = .ingesting ⟨w2, some 2, 3, 9⟩ ∧
      ingestRead.dir? w2 = some ⟨w2, 400, 9, 7, .loading⟩ ∧ ingestRead.copy.current = none ∧
      (∀ q, (ingestRead.buffer q).request = none) ∧
      ((checkRead .noLoan 8 0 15).socket 1).state = .checking ⟨.noLoan, some 2, some (own 2), .verify 8 imagePreset⟩ ∧
      ((checkRead .noLoan 8 0 15).socket 1).op = some (.read 524288 3) ∧
      ((checkRead .noLoan 8 0 15).socket 1).view = some (verifiedView 0) ∧ (verifiedView 0).len = 9 ∧
      ~~~imageAdd imagePreset [1, 2, 3] = (verifiedView 0).check ∧
      ~~~imageAdd imagePreset [1, 2, 4] ≠ (verifiedView 0).check ∧
      ((checkRead .noLoan 9 0 15).tables.stock.countP fun y => y.work == w2) < 15 ∧
      ¬ (((checkRead .noLoan 9 0 0).tables.stock.countP fun y => y.work == w2) < 0) ∧
      (∀ e ∈ hall.book.entries, e.work ≠ (verifiedView 0).work) ∧ hall.stock? 700 = none ∧ (hall.stock? 601).isSome ∧
      (verifiedView 0).marker = .spent ∧ (verifiedView 165).marker = .set := by decide +kernel

/-- A cartridge identified in socket 1. -/
def identified (s : State) (v : View) : State := holds s (seated (.identifying none) (some v) none)

/-- A master of 9 blocks, and a stock cartridge with content of `l` blocks. -/
def masterView : View := { blankView 700 165 with kind := .master, content := (255 : Byte) :: contentBytes w2 9 7 3 100 }

def contentView (l : Nat) (m : Byte) : View := { blankView 700 m with content := m :: contentBytes w2 l 7 3 100 }

/-- A cartridge with a tag of a station in slot `k`. -/
def tagged (v : View) (k : Nat) (loan : LoanNo) (issuer : Station) : View := v.apply (tagWrite k loan issuer 4100)

/-- The serial is seated in no other socket. -/
theorem not_elsewhere {s : State} {n : Idx8} {x : Serial}
    (h : ∀ q : Idx8, q ≠ n → ((s.socket q).view.map (·.serial)) ≠ some x) :
    ¬ ∃ q, q ≠ n ∧ ∃ u, (s.socket q).view = some u ∧ u.serial = x := by
  rintro ⟨q, hq, u, hu, hs⟩
  exact h q hq (by simp [hu, hs])

/-- The cases before the content is looked at: seated elsewhere, quarantined, and none of these. -/
theorem witness_ClassificationTakesFirstCase :
    ((identified hall (blankView 700 165)).socket 1).view = some (blankView 700 165) ∧
      (blankView 700 165).slots.length = 64 ∧
      (∃ q, q ≠ 1 ∧ ∃ u, (((identified hall (blankView 700 165)).setSocket 3
        (seated .fault (some (blankView 700 165)) none)).socket q).view = some u ∧ u.serial = 700) ∧
      (¬ ∃ q, q ≠ 1 ∧ ∃ u, ((identified hall (blankView 700 165)).socket q).view = some u ∧ u.serial = 700) ∧
      (700 : Serial) ∈ ({ hall with quarantine := [700] } : State).quarantine ∧ (700 : Serial) ∉ hall.quarantine :=
  ⟨rfl, by decide, ⟨3, by decide, _, rfl, rfl⟩, not_elsewhere (by decide), by decide, by decide⟩

/-- `hall` with no free buffer. -/
def busyHall : State := { hall with copy := { hall.copy with buffers := Vector.replicate 4 ⟨.gang 4, [], none⟩ } }

/-- The masters: without content, not needed, in use, with the directory full, the store full by one block, and taken. -/
theorem witness_ClassificationTakesFirstCase_master :
    masterView.kind = .master ∧ masterView.contentPresent = true ∧
      { masterView with content := List.replicate 15 255 }.contentPresent = false ∧ masterView.work = w2 ∧
      masterView.len = 9 ∧ hall.dir? w2 = none ∧ hall.tables.directory.length < 512 ∧
      512 ≤ (List.replicate 512 (⟨w1, 0, 400, 7, .valid⟩ : DirEntry)).length ∧
      firstFit hall.tables.directory 408 9 = none ∧ firstFit hall.tables.directory 409 9 = some 400 ∧
      (hall.buffer 0).owner = .free ∧ (∀ b, (busyHall.buffer b).owner ≠ .free) := by
  decide +kernel

/-- The stock cartridges: awaited for a reissue and already tagged for it; an open slot of the first and the last number,
for a loan out in the post, for no loan, and of another station; and with no open slot, in the table, worn, with content
of most blocks, and blank. -/
theorem witness_ClassificationTakesFirstCase_stock :
    (hall.stock? 605).map (·.state) = some (.issuing (own 5)) ∧ { blankView 605 165 with serial := 605 }.nextFree = some 1 ∧
      (tagged (blankView 605 165) 1 (own 5) 17).alreadyTagged (own 5) = true ∧
      (tagged (blankView 700 165) 64 (own 2) 17).openSlot = some 64 ∧
      slotLoan ((tagged (blankView 700 165) 64 (own 2) 17).slot 64) = own 2 ∧ loanState hall 2 = some .shipped ∧
      (tagged (blankView 700 165) 1 (own 99) 17).openSlot = some 1 ∧ hall.loan? (own 99) = none ∧
      slotIssuer ((tagged (blankView 700 165) 1 (own 99) 17).slot 1) = 17 ∧
      slotIssuer ((tagged (blankView 700 165) 17 (own 99) 9).slot 17) = 9 ∧ hall.returns.outbox = [] ∧
      (blankView 600 165).openSlot = none ∧ (hall.stock? 600).isSome ∧ hall.stock? 700 = none ∧
      { blankView 700 165 with slots := List.replicate 64 (List.replicate 16 0) }.worn = true ∧
      (contentView 8191 0).contentPresent = true ∧ (contentView 8191 0).worn = false ∧
      (contentView 8192 165).contentPresent = false := by decide +kernel

/-- `hall` with the title of the master VOID, in an extent of `l` blocks. -/
def voidHall (l : Nat) : State :=
  { hall with tables := { hallTables with directory := [⟨w1, 0, 400, 7, .valid⟩, ⟨w2, 400, l, 6, .void⟩] } }

/-- A VOID title whose extent holds the image's 9 blocks, and one whose extent does not, with and without room elsewhere;
and one in use. -/
theorem witness_ClassificationTakesFirstCase_void :
    (voidHall 9).dir? masterView.work = some ⟨w2, 400, 9, 6, .void⟩ ∧ (voidHall 9).users w2 = 0 ∧
      (voidHall 8).dir? masterView.work = some ⟨w2, 400, 8, 6, .void⟩ ∧
      firstFit ((voidHall 8).tables.directory.filter fun y => y.work != w2) 408 9 = none ∧
      firstFit ((voidHall 8).tables.directory.filter fun y => y.work != w2) 409 9 = some 400 ∧
      0 < ({ voidHall 9 with copy := { hall.copy with queue := [{ backlogJob 400 180 with work := w2 }] } } : State).users w2 := by
  decide +kernel

/-- A cartridge tagged for a loan of its own, and closed. -/
def closedView (x : Serial) (l : LoanNo) : View :=
  (({ blankView x 0 with content := (0 : Byte) :: contentBytes w1 400 7 3 100 } : View).apply (tagWrite 1 l 17 4100)).apply
    (closeWrite 1 4200 17)

/-- A stale own tag of a CLAIMED loan, of a READY one with this serial, whose title is VALID or not, and of a PACKED one. -/
theorem witness_ClassificationTakesFirstCase_stale :
    doneView.openSlot = some 1 ∧ slotLoan (doneView.slot 1) = own 6 ∧ slotIssuer (doneView.slot 1) = 17 ∧
      hall.stock? 506 = none ∧ hall.loan? (own 6) = some (loanOf 6 16 .ready (some ⟨.copy, .ready 506, 0⟩) none) ∧
      hall.dir? w1 = some ⟨w1, 0, 400, 7, .valid⟩ ∧ hall.copyLoad ≤ 23 ∧ noTitle.dir? w1 = none ∧
      noTitle.entryOfLoan? (own 6) = some (entryOf 16 .cartridge (.takenSelf (own 6))) ∧
      loanState hall 1 = some .claimed ∧ (tagged (blankView 700 165) 1 (own 1) 17).openSlot = some 1 ∧
      (tagged (blankView 507 165) 1 (own 7) 17).openSlot = some 1 ∧ loanState hall 7 = some .packed ∧
      (blankView 506 165).openSlot = none ∧ (blankView 506 165).contentPresent = false := by decide +kernel

/-- The rows of a stale own tag: of a READY loan in no tray, and of a PACKED one. -/
theorem witness_ClassificationTakesFirstCase_tray :
    (∃ u, TrayRow hall (loanOf 6 16 .ready (some ⟨.copy, .ready 506, 0⟩) none) u) ∧
      ∃ u, TrayRow hall
        { loanOf 7 17 .packed (some ⟨.copy, .ready 507, 0⟩) none with container := some 9, tray := some 3 } u :=
  ⟨⟨_, .inl ⟨by decide, rfl⟩⟩, ⟨_, .inr ⟨rfl, 0, trayOf 3 .filling [own 7], rfl, rfl, tray_of_number (by decide), rfl⟩⟩⟩

/-- A cartridge whose slot is closed: of an own loan that is out with this serial, whose braille part is back, or is not;
and of a loan with no record. -/
theorem witness_ClassificationTakesFirstCase_late :
    (closedView 500 (own 2)).openSlot = none ∧ hall.stock? 500 = none ∧ (closedView 500 (own 2)).worn = false ∧
      (closedView 500 (own 2)).contentPresent = true ∧ slotClass ((closedView 500 (own 2)).slot 1) = .closed ∧
      slotIssuer ((closedView 500 (own 2)).slot 1) = 17 ∧ slotLoan ((closedView 500 (own 2)).slot 1) = own 2 ∧
      (∀ q < 65, 1 < q → slotClass ((closedView 500 (own 2)).slot q) ≠ .closed) ∧
      hall.loan? (own 2) = some (sent 2 .shipped) ∧ (sent 2 .shipped).cart = some ⟨.copy, .ready 500, 0⟩ ∧
      (sent 2 .shipped).recovery ≠ .owed ∧ (sent 2 .shipped).braille = none ∧
      hall.lateSlot (closedView 500 (own 99)) = some 1 ∧ hall.loan? (own 99) = none := by decide +kernel

/-- A cleaning socket at a step and a stage of its operation. -/
def cleaning (e : EraseStep) (stage : GuardStage) : State := at1 (.cleaning e) (some (.guarded e.operation stage))

theorem witness_GuardedOperationSteps :
    ((cleaning .sector (.beforeCommand none)).socket 1).hold = none ∧
      ((cleaning .sector (.beforeCommand none)).socket 1).op = some (.guarded (.sectorClear 1) (.beforeCommand none)) ∧
      ((cleaning (.block 8190) (.polling 10)).socket 1).op = some (.guarded (.blockClear 8190) (.polling 10)) ∧
      ((cleaning (.block 8191) (.polling 10)).socket 1).state = .cleaning (.block 8191) ∧
      ((cleaning .marker (.polling 10)).socket 1).state = .cleaning .marker ∧
      ((cleaning .marker (.polling 10)).socket 1).view = some (blankView 700 165) ∧
      (blankView 700 165).kind = .stock ∧ (blankView 700 165).capacity.blocks - 1 = 8191 := by decide

/-- A member of gang 4 in socket 1, at some point of its work, with a second member still at work or alone. -/
def member (p : Progress) (cleanNeeded : Bool) : SockState :=
  .copying ⟨4, { backlogJob 400 180 with cleanNeeded := cleanNeeded }, p⟩

def memberHall (p : Progress) (cleanNeeded loaded : Bool) : State :=
  let s := copyingHall.setSocket 1 (seated (member p cleanNeeded) (some (blankView 700 165)) none)
  { s with copy := { s.copy with gangs := [⟨4, w1, 0, 400, some 2, 1, loaded, 0⟩] } }

def finishingHall (tag : Bool) : State :=
  copyingTwo.setSocket 1
    (seated (.finishing ⟨4, backlogJob 400 180, .finishing tag⟩) (some (blankView 700 165)) none)

/-- A member prepared with the block loaded or not, and after each step of its work; one that finishes, and is tagged. -/
theorem witness_GuardedOperationSteps_member :
    ((memberHall .preparing false false).socket 1).state = member .preparing false ∧
      ((memberHall .preparing true true).socket 1).view = some (blankView 700 165) ∧
      (memberHall .preparing true true).gang? 4 = some ⟨4, w1, 0, 400, some 2, 1, true, 0⟩ ∧
      1 < (blankView 700 165).capacity.blocks ∧
      ((memberHall (.working .clearing false) true true).socket 1).state = member (.working .clearing false) true ∧
      ((memberHall (.working (.page 254) true) false true).socket 1).state = member (.working (.page 254) true) false ∧
      ((memberHall (.working (.page 255) true) false true).socket 1).state = member (.working (.page 255) true) false ∧
      ((finishingHall false).socket 1).state = .finishing ⟨4, backlogJob 400 180, .finishing false⟩ ∧
      (blankView 700 165).nextFree = some 1 ∧
      ((finishingHall true).socket 1).state = .finishing ⟨4, backlogJob 400 180, .finishing true⟩ ∧
      (∃ p ∈ (finishingHall true).membersOf 4, p.1 ≠ 1 ∧ p.2.progress ≠ .finished) ∧
      (∀ y ∈ (finishingHall true).tables.loans, y.number = own 1 →
        y = loanOf 1 4 .claimed (some ⟨.copy, .copying, 0⟩) none) := by decide

/-- Loan 1's second attempt at a copy. -/
def secondAttempt : State := withLoan (loanOf 1 4 .claimed (some ⟨.copy, .copying, 1⟩) none) copyingTwo

/-- The faults: of a member's first and second attempt, and of one whose loan no longer copies; of a tagging, whose loan
takes a copy job. -/
theorem witness_GuardedOperationSteps_faults :
    (copyingTwo.socket 1).state = .copying ⟨4, backlogJob 400 180, .preparing⟩ ∧
      (∃ p ∈ copyingTwo.membersOf 4, p.1 ≠ 1 ∧ p.2.progress ≠ .finished) ∧
      copyingTwo.loan? (own 1) = some (loanOf 1 4 .claimed (some ⟨.copy, .copying, 0⟩) none) ∧
      secondAttempt.loan? (own 1) = some (loanOf 1 4 .claimed (some ⟨.copy, .copying, 1⟩) none) ∧
      secondAttempt.entryOfLoan? (own 1) = some (entryOf 4 .cartridge (.takenSelf (own 1))) ∧
      secondAttempt.entry? 4 = some (entryOf 4 .cartridge (.takenSelf (own 1))) ∧ secondAttempt.book.owed = [] ∧
      secondAttempt.line.pacing = [] ∧ secondAttempt.line.tx.length ≤ 12 ∧
      (taggingHall.socket 1).state = .tagging (own 5) false ∧
      taggingHall.issuing? (own 5) = some ⟨605, w1, 3, .issuing (own 5), some 8⟩ ∧
      taggingHall.loan? (own 5) = some (loanOf 5 15 .claimed (some ⟨.reissue, .copying, 0⟩) none) ∧
      taggingHall.dir? w1 = some ⟨w1, 0, 400, 7, .valid⟩ ∧ taggingHall.copyLoad ≤ 23 ∧
      ((at1 (.tagging (own 99) true) none).socket 1).state = .tagging (own 99) true ∧
      hall.issuing? (own 99) = none ∧ hall.loan? (own 99) = none := by decide

/-- The sole member of gang 4 at its tag, the gang's buffer freed after its last block. -/
def lastTag : State :=
  let s := copyingHall.setSocket 1
    (seated (.finishing ⟨4, backlogJob 400 180, .finishing true⟩) (some (blankView 700 165)) none)
  { s.setBuffer 2 ⟨.free, [], none⟩ with
    copy := { (s.setBuffer 2 ⟨.free, [], none⟩).copy with gangs := [⟨4, w1, 0, 400, none, 400, true, 400⟩] } }

/-- A sole member's tag, and its fault, end the gang; the fault frees the buffer that the gang still holds. -/
theorem witness_GuardedOperationSteps_sole :
    (lastTag.socket 1).state = .finishing ⟨4, backlogJob 400 180, .finishing true⟩ ∧
      (∃ t, GangLeft (lastTag.setSocket 1 { lastTag.socket 1 with state := .done (own 1), op := none }) 4 t) ∧
      (copyingHall.socket 1).state = .copying ⟨4, backlogJob 400 180, .preparing⟩ ∧
      (∃ t, GangLeft
        ((copyingHall.setSocket 1 { copyingHall.socket 1 with state := .fault, op := none, hold := none }).raise
          (.socketFault 1 700)) 4 t) :=
  ⟨by decide, ⟨_, .inl ⟨by decide, _, rfl, .inl ⟨rfl, rfl⟩⟩⟩, by decide,
    ⟨_, .inl ⟨by decide, _, rfl, .inr ⟨2, rfl, .inl ⟨by decide, rfl⟩⟩⟩⟩⟩

/-- The tagging of a loan still there and of one withdrawn; a close for each mode, of a worn cartridge, of one with content
and of one without; the steps of an erase; and an abort, its cartridge tagged by this station or by none. -/
theorem witness_GuardedOperationSteps_returns :
    (∀ y ∈ taggingHall.tables.loans, y.number = own 5 → y = loanOf 5 15 .claimed (some ⟨.reissue, .copying, 0⟩) none) ∧
      (tagged (blankView 700 165) 3 (own 99) 17).latestUsed = some 3 ∧
      slotClass ((tagged (blankView 700 165) 3 (own 99) 17).slot 3) = .open ∧
      { blankView 700 165 with slots := List.replicate 64 (List.replicate 16 0) }.worn = true ∧
      (contentView 9 0).contentPresent = true ∧ (contentView 9 0).worn = false ∧ (contentView 9 0).kind = .stock ∧
      (blankView 700 165).contentPresent = false ∧ (blankView 700 165).worn = false ∧
      PacedOwner.returns ∈ (checkHall ⟨.foreignReturn, some 2, some (own 2), .closing⟩).line.pacing ∧
      ((at1 (.erasing ⟨.noLoan, some 2, none, .closing⟩ 8191 (.block 8191)) none).socket 1).state =
        .erasing ⟨.noLoan, some 2, none, .closing⟩ 8191 (.block 8191) ∧
      (blankView 700 165).openSlot = none ∧ (tagged (blankView 700 165) 3 (own 99) 17).openSlot = some 3 ∧
      slotIssuer ((tagged (blankView 700 165) 3 (own 99) 17).slot 3) = 17 ∧
      loanState hall 2 = some .shipped ∧ (hall.loan? (own 2)).map (·.cart) = some (some ⟨.copy, .ready 500, 0⟩) := by
  decide +kernel

/-- The poll limit at its millisecond and one before it, a hold, and operations of either kind and none. -/
theorem witness_LimitsAndHoldsFailOperation :
    (hall.time.ms - 10000).toNat < 2147483648 ∧ ¬ (hall.time.ms - 10001).toNat < 2147483648 ∧
      ((cleaning (.block 8191) (.polling 10001)).socket 1).op = some (.guarded (.blockClear 8191) (.polling 10001)) ∧
      ((identifying none (.read 0 4096)).socket 1).op = some (.read 0 4096) ∧ (hall.socket 1).op = none ∧
      ({ seated (.identifying none) none (some (.read 0 4096)) with hold := some 10000 } : Socket).hold = some 10000 ∧
      ((identifying none (.read 0 4096)).socket 1).hold = none := by decide

/-- The transfers of a guarded operation: the UNLOCK and the command before a hold and in one, and a STATE. -/
theorem witness_LimitsAndHoldsFailOperation_command :
    let unlocked : CartLink := ⟨false, true, false⟩
    ((cleaning .sector (.command 10400 unlocked)).socket 1).op = some (.guarded (.sectorClear 1) (.command 10400 unlocked)) ∧
      ((cleaning .sector (.command 10400 unlocked)).socket 1).hold = none ∧
      ((cleaning .sector (.beforeCommand (some unlocked))).socket 1).op =
        some (.guarded (.sectorClear 1) (.beforeCommand (some unlocked))) ∧
      ((cleaning .sector (.beforeCommand none)).socket 1).op = some (.guarded (.sectorClear 1) (.beforeCommand none)) ∧
      ((identifying none (.awaitReady 13000)).socket 1).op = some (.awaitReady 13000) ∧
      ((lineLow .unlock (cleaning .sector (.beforeCommand (some unlocked)))).socket 1).op =
        some (.guarded (.sectorClear 1) .unlocking) ∧
      ((lineLow .unlock (cleaning .sector (.beforeCommand (some unlocked)))).socket 1).hold = some 10050 ∧
      ((lineLow .command (cleaning .sector (.command 10400 unlocked))).socket 1).op =
        some (.guarded (.sectorClear 1) .commanding) ∧
      ((lineLow .command (cleaning .sector (.command 10400 unlocked))).socket 1).hold = some 10050 := by decide

/-- The transfer of a LOCK, before a hold and in one, after a failure and in an identification. -/
theorem witness_LimitsAndHoldsFailOperation_locks :
    ((at1 (.cleaning .sector) (some (.locking true))).socket 1).op = some (.locking true) ∧
      ((at1 (.cleaning .sector) (some (.locking true))).socket 1).hold = none ∧
      ((lineLow .lock (at1 (.cleaning .sector) (some (.locking true)))).socket 1).hold = some 10050 ∧
      ((lineLow .lock (at1 (.cleaning .sector) (some (.locking true)))).socket 1).op = some (.locking true) ∧
      ((lineLow .lock (at1 (.identifying none) (some (.locking false)))).socket 1).op = some (.locking false) ∧
      ((lineLow .lock (at1 (.identifying none) (some (.locking false)))).socket 1).hold = some 10050 ∧
      ((at1 (.cleaning .sector) (some .refused)).socket 1).op = some .refused ∧
      (10050 - (10050 : Millis)).toNat < 2147483648 ∧ ¬ ((10049 : Millis) - 10050).toNat < 2147483648 := by decide

/-- A request at the last page, a page write into sector 0 for a tag, and one beyond the capacity. -/
theorem witness_GuardRefusesWrites :
    (seated (.blank true) (some (blankView 700 165)) none).view = some (blankView 700 165) ∧
      (blankView 700 165).capacity.blocks * 65536 = 536870912 ∧ guardOk (blankView 700 165) (.page 536870656 [] .other) = true ∧
      guardOk (blankView 700 165) (.page 536870912 [] .other) = false ∧
      guardOk (blankView 700 165) (tagWrite 1 (own 2) 17 4100) = true ∧
      guardOk (blankView 700 165) (tagWrite 2 (own 2) 17 4100) = false ∧
      guardOk (blankView 700 165) (.sectorClear 0) = false ∧ guardOk (blankView 700 165) (.blockClear 8192) = false := by
  decide +kernel

theorem witness_TagAndCloseWriteSlot :
    (blankView 700 165).slots.length = 64 ∧ (∀ b ∈ (blankView 700 165).slots, b.length = 16) ∧
      (blankView 700 165).slot 1 = List.replicate 16 255 ∧ (blankView 700 165).slot 64 = List.replicate 16 255 := by
  decide +kernel

/-- A write that stopped after byte 4, as in 11_frame_cartridge_and_configuration_formats.md, section 11.4; and a whole
one. -/
theorem witness_MarkedCheckExposesCutWrite :
    ((tagBytes (own 3401) 17 4212).take 7).length ≤ 31 ∧
      List.Forall₂ (fun x y : Byte => y &&& x = x) ((tagBytes (own 3401) 17 4212).take 7)
        (((tagBytes (own 3401) 17 4212).take 5) ++ [255, 255]) ∧
      List.Forall₂ (fun x y : Byte => y &&& x = x) (markedCheck ((tagBytes (own 3401) 17 4212).take 7)) [255, 255] ∧
      (markedCheck (((tagBytes (own 3401) 17 4212).take 5) ++ [255, 255])).head? = some 30 := by decide +kernel

/-- The store's operation under way for buffer 2, and the buffer's record. -/
def storeHall (s : State) (current : Option StoreReq) (b : Buffer) : State :=
  let t := s.setBuffer 2 b
  { t with copy := { t.copy with current := current.map fun x => (2, x), pointer := 2 } }

/-- A read for gang 4 with its one member at work or waiting. -/
def readHall (p : Progress) : State :=
  let s := storeHall (holds hall (seated (.copying ⟨4, backlogJob 400 180, p⟩) (some (blankView 700 165)) none))
    (some (.read w1 0 4)) ⟨.gang 4, [], none⟩
  { s with copy := { s.copy with gangs := [⟨4, w1, 0, 400, some 2, 5, false, 4⟩], nextGang := 5 } }

/-- A write for the ingest in socket 1, at a block of its 9. -/
def writeHall (i : Nat) : State :=
  let s := storeHall (at1 (.ingesting ⟨w2, some 2, i, ~~~7⟩) none) (some (.write 408)) ⟨.ingest 1, [], none⟩
  { s with tables := { hallTables with directory := [⟨w1, 0, 400, 7, .valid⟩, ⟨w2, 400, 9, 7, .loading⟩] } }

/-- The Store Arbiter with the request that follows the pointer; a read that loads its buffer and one that starts a
block; a buffer whose owner has gone. -/
theorem witness_StoreBlockEnds :
    (∀ q, (hall.buffer q).request = none) ∧ hall.copy.current = none ∧
      ((hall.setBuffer 0 ⟨.ingest 1, [], some (.write 3)⟩).buffer 0).request = some (.write 3) ∧
      (readHall .preparing).copy.current = some (2, .read w1 0 4) ∧ (∀ q, ((readHall .preparing).buffer q).request = none) ∧
      ((readHall .preparing).buffer 2).owner = .gang 4 ∧
      (readHall .preparing).gang? 4 = some ⟨4, w1, 0, 400, some 2, 5, false, 4⟩ ∧
      (∀ p ∈ (readHall .preparing).membersOf 4, p.2.progress ≠ .waiting) ∧
      (readHall .waiting).membersOf 4 = [(1, ⟨4, backlogJob 400 180, .waiting⟩)] ∧
      ((readHall .waiting).socket 1).view = some (blankView 700 165) ∧ 5 < (blankView 700 165).capacity.blocks ∧
      ((storeHall hall (some (.read w1 0 4)) ⟨.draining, [], none⟩).buffer 2).owner = .draining ∧
      (storeHall hall (some (.write 4)) ⟨.draining, [], none⟩).copy.current = some (2, .write 4) := by decide

/-- A read that fails with no job, member or entry of its title left; and the blocks 8 and 9 of an ingest of 9. -/
theorem witness_StoreBlockEnds_failed :
    (storeHall notDue (some (.read w2 0 4)) ⟨.free, [], none⟩).copy.current = some (2, .read w2 0 4) ∧
      (∀ p ∈ notDue.members, p.2.job.work ≠ w2) ∧ (∀ j ∈ notDue.copy.queue, j.work ≠ w2) ∧
      (∀ e ∈ notDue.book.entries, e.work ≠ w2) ∧ notDue.dir? w2 = none ∧
      (writeHall 8).copy.current = some (2, .write 408) ∧ (∀ q, ((writeHall 8).buffer q).request = none) ∧
      ((writeHall 8).buffer 2).owner = .ingest 1 ∧
      ((writeHall 8).socket 1).state = .ingesting ⟨w2, some 2, 8, ~~~7⟩ ∧
      (writeHall 8).dir? w2 = some ⟨w2, 400, 9, 7, .loading⟩ ∧ ((writeHall 9).socket 1).view = some (blankView 700 165) ∧
      imageFinish (~~~7) = 7 ∧ imageFinish 7 ≠ 7 := by decide

/-- A read of title `w1` that fails: with one job of it queued for loan 1, with one member copying it for loan 1, and with
one BID queued for it. -/
def readFails (s : State) : State := { s with copy := { s.copy with current := some (2, .read w1 0 4), pointer := 2 } }

def freeTitle (s : State) (entries : List Entry) : State := { s with book := ⟨entries, []⟩ }

def jobHall : State :=
  readFails (freeTitle { hall with copy := { hall.copy with queue := [backlogJob 400 180] } }
    [entryOf 4 .cartridge (.takenSelf (own 1))])

def memberReads : State := readFails (freeTitle copyingHall [entryOf 4 .cartridge (.takenSelf (own 1))])

def bidReads : State :=
  readFails (queues (freeTitle hall [entryOf 2 .cartridge (.queued copyPledge .none), entryOf 6 .cartridge .unbid])
    [heldTx, bidTx 2 .copy false])

/-- The VALID entry of the title, and each of its users; a failed read of a title with no user but a VALID entry. -/
theorem witness_StoreBlockEnds_users :
    jobHall.copy.current = some (2, .read w1 0 4) ∧ jobHall.dir? w1 = some ⟨w1, 0, 400, 7, .valid⟩ ∧
      (jobHall.buffer 2).owner ≠ .draining ∧ (∀ e ∈ jobHall.book.entries, e.state.pledge?.map (·.path) ≠ some .copy) ∧
      (∀ p ∈ jobHall.members, p.2.job.work ≠ w1) ∧ jobHall.copy.queue = [] ++ backlogJob 400 180 :: [] ∧
      jobHall.loan? (own 1) = some (loanOf 1 4 .claimed (some ⟨.copy, .queued, 0⟩) none) ∧
      jobHall.entryOfLoan? (own 1) = some (entryOf 4 .cartridge (.takenSelf (own 1))) ∧
      jobHall.entry? 4 = some (entryOf 4 .cartridge (.takenSelf (own 1))) ∧
      memberReads.members.filter (fun p => p.2.job.work == w1) = [(1, ⟨4, backlogJob 400 180, .preparing⟩)] ∧
      memberReads.membersOf 4 = [(1, ⟨4, backlogJob 400 180, .preparing⟩)] ∧
      memberReads.gang? 4 = some ⟨4, w1, 0, 400, some 2, 1, true, 0⟩ ∧ (memberReads.buffer 2).owner = .gang 4 ∧
      (memberReads.socket 1).op ≠ none ∧ (∀ i ∈ memberReads.copy.queue, i.work ≠ w1) ∧
      memberReads.loan? (own 1) = some (loanOf 1 4 .claimed (some ⟨.copy, .copying, 0⟩) none) ∧
      bidReads.entry? 2 = some (entryOf 2 .cartridge (.queued copyPledge .none)) ∧ copyPledge.path = .copy ∧
      (bidReads.book.entries.filter fun z => z.order == 2) = [entryOf 2 .cartridge (.queued copyPledge .none)] ∧
      (∀ z ∈ bidReads.book.entries, z.order ≠ 2 → z.state.pledge?.map (·.path) ≠ some .copy) ∧
      bidReads.line.tx = [heldTx] ++ bidTx 2 .copy false :: [] ∧ bidReads.line.pacing = [] ∧
      (∀ e ∈ (readFails (freeTitle hall [])).book.entries, e.work ≠ w1) ∧
      (readFails (freeTitle hall [])).dir? w1 = some ⟨w1, 0, 400, 7, .valid⟩ := by decide

/-- The same with the buffer of the read draining. -/
def drains (s : State) : State := s.setBuffer 2 ⟨.draining, [], none⟩

/-- The member of `memberReads` and a waiting job of its title, for loan 5. -/
def memberAndJob : State :=
  let s := withLoan (loanOf 5 15 .claimed (some ⟨.copy, .queued, 0⟩) none)
    (freeTitle memberReads [entryOf 4 .cartridge (.takenSelf (own 1)), entryOf 15 .cartridge (.takenSelf (own 5))])
  { s with copy := { s.copy with queue := [{ backlogJob 400 180 with loan := own 5 }] } }

/-- The member of `memberReads` and a queued BID for its title. -/
def memberAndBid : State :=
  queues (freeTitle memberReads
    [entryOf 2 .cartridge (.queued copyPledge .none), entryOf 4 .cartridge (.takenSelf (own 1))])
    [heldTx, bidTx 2 .copy false]

/-- Each user of the title beside a draining buffer, and beside a member. -/
theorem witness_StoreBlockEnds_together :
    ((drains jobHall).buffer 2).owner = .draining ∧ (drains jobHall).copy.current = some (2, .read w1 0 4) ∧
      (drains jobHall).copy.queue = [] ++ backlogJob 400 180 :: [] ∧
      ((drains bidReads).buffer 2).owner = .draining ∧ (drains bidReads).copy.current = some (2, .read w1 0 4) ∧
      ((drains (readFails (freeTitle hall []))).buffer 2).owner = .draining ∧
      memberAndJob.members.filter (fun p => p.2.job.work == w1) = [(1, ⟨4, backlogJob 400 180, .preparing⟩)] ∧
      memberAndJob.copy.queue = [] ++ { backlogJob 400 180 with loan := own 5 } :: [] ∧
      memberAndJob.loan? (own 5) = some (loanOf 5 15 .claimed (some ⟨.copy, .queued, 0⟩) none) ∧
      memberAndJob.entryOfLoan? (own 5) = some (entryOf 15 .cartridge (.takenSelf (own 5))) ∧
      memberAndJob.entry? 15 = some (entryOf 15 .cartridge (.takenSelf (own 5))) ∧ own 5 ≠ own 1 ∧
      memberAndJob.line.tx.length ≤ 11 ∧
      memberAndBid.members.filter (fun p => p.2.job.work == w1) = [(1, ⟨4, backlogJob 400 180, .preparing⟩)] ∧
      memberAndBid.entry? 2 = some (entryOf 2 .cartridge (.queued copyPledge .none)) ∧
      (memberAndBid.book.entries.filter fun z => z.order == 2) = [entryOf 2 .cartridge (.queued copyPledge .none)] ∧
      (∀ z ∈ memberAndBid.book.entries, z.order ≠ 2 → z.state.pledge?.map (·.path) ≠ some .copy) ∧
      memberAndBid.line.tx = [heldTx] ++ bidTx 2 .copy false :: [] ∧ memberAndBid.line.tx.length ≤ 12 ∧
      memberAndBid.entryOfLoan? (own 1) = some (entryOf 4 .cartridge (.takenSelf (own 1))) := by decide

/-- Two members that wait, one of which must clear the block first. -/
def waitingTwo : State :=
  (readHall .waiting).setSocket 4
    (seated (.copying ⟨4, { backlogJob 400 180 with loan := own 98, cleanNeeded := true }, .waiting⟩)
      (some (blankView 704 0)) none)

theorem waitingTwo_state (q : Idx8) : (waitingTwo.socket q).state =
    if q = 1 then .copying ⟨4, backlogJob 400 180, .waiting⟩
    else if q = 4 then .copying ⟨4, { backlogJob 400 180 with loan := own 98, cleanNeeded := true }, .waiting⟩
    else .empty := by
  revert q; decide

theorem witness_StoreBlockEnds_waiting :
    waitingTwo.gang? 4 = some ⟨4, w1, 0, 400, some 2, 5, false, 4⟩ ∧ waitingTwo.copy.current = some (2, .read w1 0 4) ∧
      (waitingTwo.membersOf 4).map (·.1) = [1, 4] ∧
      (∀ p ∈ waitingTwo.membersOf 4, p.2.progress = .waiting → ((waitingTwo.socket p.1).view.map (·.kind)) = some .stock) ∧
      (waitingTwo.socket 4).view = some (blankView 704 0) ∧ (waitingTwo.socket 1).view = some (blankView 700 165) ∧
      ∀ n m, (waitingTwo.socket n).state = .finishing m → m.gang = 4 → m.progress ≠ .waiting :=
  ⟨by decide, by decide, by decide, by decide, by decide, by decide, fun n m h => by
    rw [waitingTwo_state] at h; split at h <;> [cases h; (split at h <;> cases h)]⟩

/-- A blank in a socket, clean or not. -/
def withBlank (n : Idx8) (clean : Bool) (s : State) : State :=
  s.setSocket n
    (seated (.blank clean) (some (blankView (BitVec.ofNat 32 (700 + n.val)) (if clean then 165 else 0))) none)

/-- `hall` with a job of as many blocks as a small cartridge holds. -/
def withJob (s : State) : State := { s with copy := { s.copy with queue := [backlogJob 8191 180] } }

/-- No job, no fitting blank, no free buffer; and a dirty blank below a clean one that fits. -/
theorem witness_GangFormsAroundHead :
    hall.copy.queue = [] ∧ (withJob hall).copy.queue = backlogJob 8191 180 :: [] ∧
      (∀ n, (withJob hall).fittingBlank 8191 n = none) ∧
      (∀ b, (busyHall.buffer b).owner ≠ .free) ∧
      (withJob (withBlank 1 false (withBlank 4 true hall))).fittingBlank 8191 4 = some true ∧
      (withJob (withBlank 1 false (withBlank 4 true hall))).fittingBlank 8191 1 = some false ∧
      (∀ q c, (withJob (withBlank 1 false (withBlank 4 true hall))).fittingBlank 8191 q = some c →
        (c = true → 4 ≤ q) ∧ (c = true → true = true)) ∧
      (∀ q, ((withJob hall).buffer q).request = none) ∧ ((withJob hall).buffer 0).owner = .free ∧
      (withJob hall).copy.current = none := by decide

/-- A head job that the end of an event dispatches, with no request refused before or after. -/
theorem witness_GangFormsAroundHead_finish :
    (∀ n, ((withJob (withBlank 1 false hall)).socket n).op ≠ some .refused) ∧
      ∃ t, (withJob (withBlank 1 false hall)).dispatchHead = some t ∧ ∀ n, (t.socket n).op ≠ some .refused := by
  refine ⟨by decide, _, rfl, by decide⟩

/-- Two sockets whose requests have been refused. -/
def refusedTwo : State :=
  (at1 (.identifying none) (some .refused)).setSocket 4
    (seated (.cleaning .sector) (some (blankView 704 0)) (some .refused))

/-- An ingest of socket 1 that waits for a buffer. -/
def ingestWaits : State := { ingestHall none with copy := { hall.copy with ingestWait := [1] } }

/-- Refused requests, of which socket 1's is taken first; a dirty blank and nothing else to do; an ingest that waits
with a buffer free; and nothing to do. -/
theorem witness_EndOfEventFrame_tests :
    (refusedTwo.socket 1).op = some .refused ∧ (∀ q < 1, (refusedTwo.socket q).op ≠ some .refused) ∧
      (∀ q ≤ 1, ((State.opFailed (refusedTwo.setSocket 1 { refusedTwo.socket 1 with op := none, hold := none }) 1).socket
        q).op ≠ some .refused) ∧
      (∀ n, ((withBlank 1 false hall).socket n).op ≠ some .refused) ∧ (withBlank 1 false hall).copy.queue = [] ∧
      (withBlank 1 false hall).line.state ≠ .listen ∧ (withBlank 1 false hall).cfg.roles[(1 : Idx8)] = .copy ∧
      ((withBlank 1 false hall).socket 1).state = .blank false ∧
      (∀ n, ((withBlank 1 false hall).socket n).state = .blank false →
        ((withBlank 1 false hall).socket n).view.map (·.kind) = some .stock) ∧
      (∀ n, (ingestWaits.socket n).op ≠ some .refused) ∧ ingestWaits.dispatchHead = none ∧
      (∀ n, (ingestWaits.socket n).state ≠ .blank false) ∧ ingestWaits.copy.ingestWait = 1 :: [] ∧
      (ingestWaits.buffer 0).owner = .free ∧ (ingestWaits.socket 1).state = .ingesting ⟨w2, none, 3, 9⟩ ∧
      (ingestWaits.socket 1).view = some (blankView 700 165) ∧ 3 < (blankView 700 165).capacity.blocks ∧
      (∀ n, (hall.socket n).op ≠ some .refused) ∧ hall.dispatchHead = none ∧
      (∀ n, (hall.socket n).state ≠ .blank false) ∧ hall.copy.ingestWait = [] := by decide

/-- At the end of an event a refused identification goes to FAULT, a dirty blank cleans itself, a head job takes a
blank, and a waiting ingest asks for its block. -/
theorem test_end_of_event :
    sockState (finish .completed refusedTwo) 1 = .fault ∧
      sockState (finish .completed (withBlank 1 false hall)) 1 = .cleaning .sector ∧
      (finish .completed (withJob (withBlank 1 false hall))).copy.queue = [] ∧
      ((finish .completed ingestWaits).socket 1).op = some (.read (3 * 65536) 65536) := by decide +kernel

/-- Two jobs of one title for a clean and a dirty blank, and a third that finds no blank. -/
def threeJobs : State :=
  let s := withBlank 1 false (withBlank 4 true hall)
  { s with
    copy :=
      { s.copy with
        queue := [backlogJob 8191 180, { backlogJob 8191 180 with loan := own 98 }, { backlogJob 8191 180 with loan := own 97 }] } }

/-- The first job takes the clean blank of socket 4, the second the dirty one of socket 1; and the store is at rest. -/
theorem witness_GangFormsAroundHead_several :
    threeJobs.copy.queue =
        [backlogJob 8191 180, { backlogJob 8191 180 with loan := own 98 }] ++ [{ backlogJob 8191 180 with loan := own 97 }] ∧
      threeJobs.fittingBlank 8191 4 = some true ∧ threeJobs.fittingBlank 8191 1 = some false ∧
      (∀ q c, threeJobs.fittingBlank 8191 q = some c → (c = true → 4 ≤ q) ∧ (c = true → true = true)) ∧
      (threeJobs.buffer 0).owner = .free ∧ threeJobs.copy.current = none ∧
      (∀ q, (threeJobs.buffer q).request = none) := by decide

theorem witness_GangFormsAroundHead_blanks :
    (∀ q c, q ≠ 4 → threeJobs.fittingBlank 8191 q = some c → (c = false → 1 ≤ q) ∧ (c = true → false = true)) ∧
      (∀ q, q ≠ 4 → q ≠ 1 → threeJobs.fittingBlank 8191 q = none) ∧
      (∀ n, n = 4 ∨ n = 1 → ((threeJobs.socket n).view.map (·.kind)) = some .stock) := by decide

theorem witness_FirstFitIsLowest : 1 ≤ 300 ∧ firstFit fragmented 20000 300 = some 9400 := by decide +kernel

/-- `hall` with other tray records. -/
def traysHall (v : Vector (Option Tray) 16) : State := { hall with tables := { hallTables with trays := v } }

/-- The records 0 to `k` - 1 CLOSED in group 1, the others FREE. -/
def closedTrays (k : Nat) : Vector (Option Tray) 16 :=
  Vector.ofFn fun q => if q.val < k then some { trayOf (BitVec.ofNat 16 (q.val + 100)) .closed [own 7] with group := 1 } else none

/-- A FILLING tray with no room left. -/
def fullTray : Tray := { trayOf 65535 .filling [own 7] with load := 60 }

/-- What holds of each of the 16 records holds of every tray. -/
theorem all_trays {s : State} {p : Fin 16 → Tray → Prop} (h : ∀ q, ∀ x ∈ s.tray q, p q x) :
    ∀ q x, s.tray q = some x → p q x := fun q x hx => h q x hx

/-- No record, a container out of range on either side, a loan not READY; a tray with room, none FILLING with a record
FREE and with none, and a full tray. -/
theorem witness_PackPlacesLoan :
    hall.start.phase = .running ∧ hall.line.state ≠ .listen ∧ hall.loan? (own 99) = none ∧
      own 6 = makeNumber (BitVec.ofNat 6 17) (BitVec.ofNat 18 6) ∧ loanState hall 6 = some .ready ∧
      loanState hall 1 = some .claimed ∧ hall.tray 0 = some (trayOf 3 .filling [own 7]) ∧
      hall.cfg.zoneMap[(12 : Zone).toFin] = 0 ∧ (trayOf 3 .filling [own 7]).load + 1 ≤ 60 ∧
      (traysHall (closedTrays 7)).tray 7 = none ∧ (∀ p < 7, (traysHall (closedTrays 7)).tray p ≠ none) ∧
      (∀ q, (traysHall (closedTrays 16)).tray q ≠ none) ∧
      (traysHall ((closedTrays 4).set 4 (some fullTray))).tray 4 = some fullTray ∧
      fullTray.capacity < fullTray.load + 1 ∧ fullTray.loans ≠ [] := by decide

theorem witness_PackPlacesLoan_filling :
    (∀ q y, (traysHall (closedTrays 16)).tray q = some y → ¬ (y.group = 0 ∧ y.state = .filling)) ∧
      (∀ q y, (traysHall ((closedTrays 16).set 4 (some fullTray))).tray q = some y →
        y.group = 0 ∧ y.state = .filling → q = 4) :=
  ⟨all_trays (by decide), all_trays (by decide)⟩

/-- A FILLING tray at its threshold in record 3, alone. -/
def readyTray : Tray := { trayOf 3 .filling [own 7] with load := 40 }

def readyHall : State := traysHall ((Vector.replicate 16 none).set 3 (some readyTray))

/-- Day 0; nothing ready; a tray ready behind another; one alone, which ships; and a tray at its age and a second before. -/
theorem witness_DispatchTakesReadyTrays :
    hall.start.phase = .running ∧ hall.line.state ≠ .listen ∧ hall.tables.day ≠ 0 ∧
      (∀ q, ∀ x ∈ hall.tray q, x.threshold ≤ x.load → x.state ≠ .filling) ∧ hall.bench.notices.length ≤ 48 ∧
      readyHall.tables.dispatchLine = [] ∧ readyHall.tray 3 = some readyTray ∧ readyTray.threshold ≤ readyTray.load ∧
      (∀ q, ∀ x ∈ readyHall.tray q, q = 3) ∧ readyTray.loans = [own 7] ∧ loanState readyHall 7 = some .packed ∧
      (readyHall.entryOfLoan? (own 7)).map (·.order) = some 17 ∧ readyHall.line.pacing = [] ∧
      (queues readyHall (fullTx 12)).line.tx.length ≤ 12 ∧
      (trayOf 3 .filling [own 7]).maxAge * 3600 ≤ ((86400 : Seconds) - 0).toNat ∧
      ¬ (trayOf 3 .filling [own 7]).maxAge * 3600 ≤ ((86399 : Seconds) - 0).toNat ∧
      (starting .recovery).start.phase ≠ .running := by decide

/-- A tray ready behind one that is dispatching, with 48 notices waiting. -/
theorem witness_DispatchTakesReadyTrays_line :
    let s : State := traysHall (((Vector.replicate 16 none).set 0 (some (trayOf 3 .dispatching [own 7]))).set 3
      (some { readyTray with number := 4 }))
    (s.tray 3).map (·.load) = some 40 ∧ (s.tray 3).map (·.threshold) = some 40 ∧
      (List.replicate 48 Notice.noDate).length ≤ 48 := by decide

/-- Another station's number, no record, and the loans of each command: PLEDGED, out with a set PICKED, awaiting a reissue
with its title VALID and without. -/
theorem witness_LoanCommandsAtBench :
    hall.start.phase = .running ∧ hall.line.state ≠ .listen ∧ hall.loan? (own 99) = none ∧
      (hall.start.own.map BitVec.toNat) = some 17 ∧
      hall.loan? (own 1) = some (loanOf 1 4 .claimed (some ⟨.copy, .queued, 0⟩) none) ∧
      hall.loan? (own 4) = some (loanOf 4 14 .claimed none (some ⟨w1, .pledged⟩)) ∧
      hall.entryOfLoan? (own 4) = some (entryOf 14 .braille (.takenSelf (own 4))) ∧
      hall.entry? 14 = some (entryOf 14 .braille (.takenSelf (own 4))) ∧ hall.book.owed = [] ∧ hall.line.pacing = [] ∧
      (queues hall (fullTx 12)).line.tx.length ≤ 12 ∧ (entryOf 14 .braille (.takenSelf (own 4))).releaseCount < 2 ∧
      loanState hall 3 = some .lost ∧ (hall.loan? (own 3)).map (·.braille) = some (some ⟨w1, .picked⟩) ∧
      (lostHall false (some ⟨w1, .picked⟩)).loan? (own 2) = some { sent 2 .lost with braille := some ⟨w1, .picked⟩ } ∧
      hall.loan? (own 5) = some (loanOf 5 15 .claimed (some ⟨.reissue, .queued, 0⟩) none) ∧
      hall.issuing? (own 5) = some ⟨605, w1, 3, .issuing (own 5), some 8⟩ ∧ hall.copyLoad ≤ 23 ∧
      hall.dir? w1 = some ⟨w1, 0, 400, 7, .valid⟩ ∧ noTitle.dir? w1 = none := by decide

/-- SHELVE at either end of its range; DROP of no entry, one LOADING, one in use and one of each kind that goes; SET below
and above each range, of other volumes, above 15 copies, to 15, and with the table full by one record. -/
theorem witness_StockCommandsAtBench :
    hall.start.phase = .running ∧ hall.line.state ≠ .listen ∧ (hall.stock? 601).isSome ∧ hall.stock? 602 = none ∧
      hall.dir? w2 = none ∧ hall.dir? w1 = some ⟨w1, 0, 400, 7, .valid⟩ ∧ hall.users w1 = 0 ∧
      0 < (withJob hall).users w1 ∧ ((writeHall 8).dir? w2).map (·.state) = some .loading ∧
      hall.set? w1 = some ⟨w1, 3, 2, 2, 1⟩ ∧ 15 < 2 + 14 ∧ 2 + 13 ≤ 15 ∧
      hall.set? ⟨BitVec.ofNat 20 1048575, BitVec.ofNat 4 15⟩ = none ∧ hall.tables.sets.length < 128 ∧
      128 ≤ (List.replicate 128 (⟨w1, 3, 2, 2, 1⟩ : SetRec)).length := by decide +kernel

/-- The input line: its buffer, the characters beyond 40, and the bad mark. -/
def typed (line : List Byte) (extra : Nat) (bad : Bool) : State :=
  { hall with bench := { hall.bench with buffer := line, extra := extra, bad := bad } }

theorem witness_BenchLineTests :
    (starting .recovery).start.phase ≠ .running ∧ hall.start.phase = .running ∧ (lineIn .listen).line.state = .listen ∧
      hall.bench.notices = [] ∧
      ({ hall with bench := { hall.bench with notices := [.noDate, .lineMuted], lost := true } } : State).bench.notices =
        .noDate :: [.lineMuted] ∧
      32 ≤ (32 : Byte).toNat ∧ (126 : Byte).toNat ≤ 126 ∧ (typed (List.replicate 39 65) 0 false).bench.buffer.length < 40 ∧
      40 ≤ (typed (List.replicate 40 65) 0 false).bench.buffer.length ∧ 126 < (127 : Byte).toNat ∧ (31 : Byte).toNat < 32 ∧
      0 < (typed (List.replicate 40 65) 1 true).bench.extra ∧ (typed (ascii "SHOW TRAYS") 0 true).bench.bad = true ∧
      hall.bench.extra = 0 ∧ hall.bench.bad = false ∧ hall.bench.buffer = [] ∧
      (typed (ascii "DISPATCH") 0 false).bench.buffer = ascii "DISPATCH" ∧ hall.line.state ≠ .listen := by decide

/-- A line for each outcome of R169: a loan at its bounds, SET's four numbers, a word that is none, SHOW with and without
a second word, and fields that are too long, too many, after two spaces, or not a loan. -/
theorem witness_BenchLineTests_lines :
    ascii "PACK 17.6 4294967295" = ascii "PACK" ++ [ascii "17.6", ascii "4294967295"].flatMap (fun f => 32 :: f) ∧
      ascii "17.6" = ascii "17" ++ 46 :: ascii "6" ∧ (ascii "4294967295").length = 10 ∧
      (∀ c ∈ ascii "4294967295", 48 ≤ c.toNat ∧ c.toNat ≤ 57) ∧
      (ascii "4294967295").foldl (fun a c => 10 * a + (c.toNat - 48)) 0 = 4294967295 ∧
      32 ∉ ascii "PAK" ∧ ascii "PAK 1" = ascii "PAK" ++ ascii " 1" ∧ (ascii " 1").head? = some 32 ∧
      String.ofList ((ascii "PAK").map fun c => Char.ofNat c.toNat) = "PAK" ∧
      ascii "SHOW TRAY" = ascii "SHOW" ++ 32 :: ascii "TRAY" ++ [] ∧ ascii "SHOW" = ascii "SHOW" ++ [] ∧
      (typed (ascii "PICK 17.6") 0 false).start.phase = .running ∧
      ({ typed (ascii "PICK 17.6") 0 false with start := (starting .config).start } : State).start.phase ≠ .running ∧
      ({ typed (ascii "PICK 17.6") 0 false with line := (lineIn .listen).line } : State).line.state = .listen := by
  decide +kernel

/-- R169: fields that are not the command's are refused with FORM, each case of the rule, and an unknown second word of
SHOW with UNKNOWN. -/
theorem test_line_forms :
    (["PICK", "PICK 17", "PICK 17.6 1", "PICK  17.6", "PICK 17.6 ", "PICK 17.x", "PICK 17.42949672960", "SHELVE 4294967296 1",
        "DISPATCH 1"].map fun l => (types (ascii l ++ [13]) hall).bench.notices) =
        ((List.replicate 7 [Notice.refused .form "PICK"]) ++ [[.refused .form "SHELVE"], [.refused .form "DISPATCH"]]) ∧
      (types (ascii "SHOW TRAY" ++ [13]) hall).bench.notices = [.refused .unknown "SHOW TRAY"] := by decide +kernel

theorem witness_ShowCommandsRaiseLines :
    hall.start.phase = .running ∧ (List.replicate 47 Notice.noDate).length ≤ 47 ∧
      (List.replicate 56 Notice.noDate).length ≤ 56 ∧ (List.replicate 63 Notice.noDate).length < 64 ∧
      (lineIn .listen).line.state = .listen ∧
      hall.line.state ≠ .listen ∧
      ((at1 (.rejected .worn) none).socket 1).state = .rejected .worn ∧
      (gangHall.socket 1).state = .copying ⟨4, backlogJob 400 180, .preparing⟩ ∧
      ((at1 (.done (own 6)) none).socket 1).state = .done (own 6) ∧
      ((writeHall 8).socket 1).state = .ingesting ⟨w2, some 2, 8, ~~~7⟩ ∧
      (writeHall 8).dir? w2 = some ⟨w2, 400, 9, 7, .loading⟩ ∧ hall.loan? (own 99) = none ∧
      hall.loan? (own 6) = some (loanOf 6 16 .ready (some ⟨.copy, .ready 506, 0⟩) none) ∧
      hall.issuing? (own 5) = some ⟨605, w1, 3, .issuing (own 5), some 8⟩ := by decide

/-- Each state whose detail depends on the cartridge view or on the socket's own record. -/
theorem witness_ShowCommandsRaiseLines_details :
    ((at1 (.blank false) none).socket 1).view = some (blankView 700 165) ∧
      ((at1 (.blank false) none).socket 1).state = .blank false ∧
      ((cleaning (.block 8191) (.beforeCommand none)).socket 1).state = .cleaning (.block 8191) ∧
      ((at1 (.erasing ⟨.noLoan, none, none, .closing⟩ 8191 .marker) none).socket 1).state =
        .erasing ⟨.noLoan, none, none, .closing⟩ 8191 .marker ∧
      ((at1 (.kept ⟨.noLoan, none, none, .closing⟩) none).socket 1).state = .kept ⟨.noLoan, none, none, .closing⟩ ∧
      ((finishingHall true).socket 1).state = .finishing ⟨4, backlogJob 400 180, .finishing true⟩ ∧
      (taggingHall.socket 1).state = .tagging (own 5) false ∧
      ((at1 (.checking ⟨.noLoan, some 2, none, .verify 9 7⟩) none).socket 1).state =
        .checking ⟨.noLoan, some 2, none, .verify 9 7⟩ ∧
      ((checkHall ⟨.foreignReturn, some 2, some (own 2), .closing⟩).socket 1).state =
        .checking ⟨.foreignReturn, some 2, some (own 2), .closing⟩ ∧
      ((at1 .aborting none).socket 1).state = .aborting := by decide

end Sys2Proof.Tests
end

section
/-! PROOFS. The DATE (R39, R61, R62): what a scan request and a DATE heard leave, each as one record update, and the row
DATE on a receive queue whose head is a DATE. -/

namespace Sys2Proof.Machine

/-- R62: the request changes the scan alone. -/
theorem State.requestScan_eq (s : State) :
    s.requestScan =
      { s with
        scan :=
          if s.scan.running then { s.scan with rescan := true } else { s.scan with running := true, last := none } } := by
  unfold State.requestScan
  split <;> rfl

/-- R61: a DATE of a day equal to or less than the held one is ignored. -/
theorem State.heardDate_of_le {s : State} {d : Day} (h : d ≤ s.tables.day) : s.heardDate d = s :=
  if_neg (BitVec.not_lt.mpr h)

/-- R39, R61, R62: a DATE of a later day is held, ages the book under the new day and requests a scan. -/
theorem State.heardDate_of_lt {s : State} {d : Day} (h : s.tables.day < d) :
    s.heardDate d =
      { s with
        tables := { s.tables with day := d }
        book := { s.book with entries := s.book.entries.filter fun e => !e.aged d }
        scan :=
          if s.scan.running then { s.scan with rescan := true } else { s.scan with running := true, last := none } } := by
  rw [State.heardDate, if_pos h, State.requestScan_eq]
  rfl

/-- The row DATE takes the DATE at the head of the receive queue, and the event ends (R13, R61). -/
theorem exec_date_of_head {s : State} {rest : List RxEntry} {time : Millis} {rank : BitVec 14} {x : Station} {d : Day}
    (w : RecordWrite) (h : s.line.rx = ⟨⟨rank, x, .date d⟩, time⟩ :: rest) :
    exec (.date w) s = .next (finish w (s.popRx.heardDate d)) := by
  have head : s.rxHead? = some ⟨⟨rank, x, .date d⟩, time⟩ := by rw [State.rxHead?, h, List.head?_cons]
  change execDate w s = _
  rw [execDate, head]

/-- Settles O38: the frame leaves the queue without touching the held day, so the day decides between the two cases of
`State.heardDate`, and the event ends there. -/
theorem dateAdvancesDay : Obligations.DateAdvancesDay := by
  intro s rest time rank x d w hrx
  have hexec := exec_date_of_head w hrx
  constructor
  · intro hle
    rw [State.heardDate_of_le (s := s.popRx) hle] at hexec
    exact .of_eq hexec
  · intro hlt
    rw [State.heardDate_of_lt (s := s.popRx) hlt] at hexec
    exact .of_eq hexec

end Sys2Proof.Machine
end

section
/-! PROOFS. The Bid Unit's answer (R42 to R49): its counts as counts over the records, the record the REISSUE path takes,
the four ways to no bid, and one equation of `State.bid` for each path. -/

namespace Sys2Proof.Machine

/-! ### The counts of R42 -/

theorem State.queuedBids_eq_countP (s : State) :
    s.queuedBids = s.book.entries.countP fun e => e.state.pledge?.isSome :=
  List.countP_eq_length_filter.symm

theorem State.pendingCopy_eq_countP (s : State) :
    s.pendingCopy = s.book.entries.countP fun e => e.state.pledge?.any (·.copySlot) := by
  rw [State.pendingCopy, ← List.countP_eq_length_filter]
  congr 1
  funext e
  cases e.state.pledge? <;> rfl

theorem State.nOpen_eq_countP (s : State) :
    s.nOpen = s.tables.loans.countP fun l => l.state == .claimed || l.state == .ready :=
  List.countP_eq_length_filter.symm

theorem State.copySockets_eq_countP (s : State) :
    s.copySockets = (List.finRange 8).countP fun n => s.cfg.roles[n] == .copy :=
  List.countP_eq_length_filter.symm

theorem State.copySockets_eq_zero_iff {s : State} : s.copySockets = 0 ↔ ∀ n : Idx8, s.cfg.roles[n] ≠ .copy := by
  simp [State.copySockets_eq_countP]

theorem State.blanks_eq_countP (s : State) (len : Nat) :
    s.blanks len = (List.finRange 8).countP fun n => (s.fittingBlank len n).isSome :=
  List.countP_eq_length_filter.symm

theorem State.cleanBlanks_eq_countP (s : State) (len : Nat) :
    s.cleanBlanks len = (List.finRange 8).countP fun n => s.fittingBlank len n == some true :=
  List.countP_eq_length_filter.symm

/-- R46, R97: which sockets hold a fitting blank. -/
theorem State.fittingBlank_eq_some_iff {s : State} {len : Nat} {n : Idx8} {c : Bool} :
    s.fittingBlank len n = some c ↔
      s.role n = .copy ∧ (s.socket n).state = .blank c ∧
        ∃ v, (s.socket n).view = some v ∧ len + 1 ≤ v.capacity.blocks := by
  unfold State.fittingBlank
  split
  next c' v hrole hstate hview =>
    simp only [hrole, hstate, hview, Option.ite_none_right_eq_some, Option.some.injEq, SockState.blank.injEq, true_and,
      exists_eq_left']
    exact and_comm
  next hno =>
    refine iff_of_false nofun ?_
    rintro ⟨hrole, hstate, v, hview, -⟩
    exact hno c v hrole hstate hview

/-- R46: L is read from a VALID directory entry. -/
theorem State.validLen_eq_some_iff {s : State} {w : Work} {len : Nat} :
    s.validLen w = some len ↔ ∃ d, s.dir? w = some d ∧ d.state = .valid ∧ d.len = len := by
  unfold State.validLen
  cases s.dir? w <;> simp

theorem State.validLen_eq_none_iff {s : State} {w : Work} :
    s.validLen w = none ↔ ∀ len, ¬ ∃ d, s.dir? w = some d ∧ d.state = .valid ∧ d.len = len := by
  simp only [Option.eq_none_iff_forall_ne_some, ne_eq, State.validLen_eq_some_iff]

/-! ### The record of the REISSUE path (R45) -/

/-- R45's order of choice: fewer used slots, and the lower serial among records with equal used slots. -/
def StockRec.AtLeastAsGood (a b : StockRec) : Prop := a.used < b.used ∨ (a.used = b.used ∧ a.serial ≤ b.serial)

theorem StockRec.AtLeastAsGood.refl (a : StockRec) : a.AtLeastAsGood a := .inr ⟨rfl, BitVec.le_refl _⟩

theorem StockRec.AtLeastAsGood.trans {a b c : StockRec} (hab : a.AtLeastAsGood b) (hbc : b.AtLeastAsGood c) :
    a.AtLeastAsGood c := by
  unfold StockRec.AtLeastAsGood at *
  bv_omega

theorem betterRecord_eq_or (a b : StockRec) : betterRecord a b = a ∨ betterRecord a b = b := by
  unfold betterRecord
  split
  · exact .inr rfl
  · exact .inl rfl

theorem betterRecord_atLeastAsGood_left (a b : StockRec) : (betterRecord a b).AtLeastAsGood a := by
  unfold betterRecord
  split
  next hb => exact hb.imp_right fun ⟨hused, hserial⟩ => ⟨hused, BitVec.le_of_lt hserial⟩
  next => exact .refl a

theorem betterRecord_atLeastAsGood_right (a b : StockRec) : (betterRecord a b).AtLeastAsGood b := by
  unfold betterRecord
  split
  next => exact .refl b
  next hb =>
    simp only [not_or, not_and, BitVec.not_lt, Nat.not_lt] at hb
    obtain ⟨hused, hserial⟩ := hb
    exact (Nat.lt_or_eq_of_le hused).imp_right fun heq => ⟨heq, hserial heq.symm⟩

theorem foldl_betterRecord_mem (r : StockRec) (rs : List StockRec) : rs.foldl betterRecord r ∈ r :: rs := by
  induction rs generalizing r with
  | nil => exact List.mem_singleton.mpr rfl
  | cons x xs ih =>
    rcases betterRecord_eq_or r x with h | h <;> rw [List.foldl_cons, h]
    · exact List.cons_subset_cons r (List.subset_cons_self x xs) (ih r)
    · exact List.mem_cons_of_mem r (ih x)

theorem foldl_betterRecord_atLeastAsGood (r : StockRec) (rs : List StockRec) :
    ∀ q ∈ r :: rs, (rs.foldl betterRecord r).AtLeastAsGood q := by
  induction rs generalizing r with
  | nil => exact List.forall_mem_singleton.mpr (.refl r)
  | cons x xs ih =>
    obtain ⟨hbest, hrest⟩ := List.forall_mem_cons.mp (ih (betterRecord r x))
    refine List.forall_mem_cons.mpr ⟨hbest.trans (betterRecord_atLeastAsGood_left r x), ?_⟩
    exact List.forall_mem_cons.mpr ⟨hbest.trans (betterRecord_atLeastAsGood_right r x), hrest⟩

/-- A FREE ready-stock record of the title and edition. -/
def State.FreeStock (s : State) (w : Work) (r : StockRec) : Prop := r ∈ s.tables.stock ∧ r.work = w ∧ r.state = .free

theorem State.freeStock_iff_mem_filter {s : State} {w : Work} {r : StockRec} :
    s.FreeStock w r ↔ r ∈ s.tables.stock.filter fun r => r.work == w && r.state == .free := by
  simp [State.FreeStock]

theorem State.chosenStock_eq_none_iff {s : State} {w : Work} : s.chosenStock w = none ↔ ∀ r, ¬ s.FreeStock w r := by
  simp only [State.freeStock_iff_mem_filter, ← List.eq_nil_iff_forall_not_mem, State.chosenStock]
  split
  next hnil => exact iff_of_true rfl hnil
  next hcons => exact iff_of_false nofun (by simp [hcons])

/-- R45: the chosen record is FREE and no FREE record comes before it. -/
theorem State.chosenStock_best {s : State} {w : Work} {r : StockRec} (h : s.chosenStock w = some r) :
    s.FreeStock w r ∧ ∀ q, s.FreeStock w q → r.AtLeastAsGood q := by
  simp only [State.freeStock_iff_mem_filter]
  unfold State.chosenStock at h
  split at h
  next => cases h
  next x xs hfree =>
    cases h
    rw [hfree]
    exact ⟨foldl_betterRecord_mem x xs, foldl_betterRecord_atLeastAsGood x xs⟩

/-! ### The four ways to no bid (R44) -/

theorem Format.hasCartridge_iff {f : Format} : f.hasCartridge = true ↔ f ≠ .braille := by
  cases f <;> decide

theorem Format.hasBraille_iff {f : Format} : f.hasBraille = true ↔ f ≠ .cartridge := by
  cases f <;> decide

theorem Format.hasBraille_eq_decide_both {f : Format} (h : f ≠ .braille) : f.hasBraille = decide (f = .both) := by
  cases f with
  | braille => exact absurd rfl h
  | cartridge | both => rfl

/-- R44, condition 4: the set record is absent or has no copy on the shelf beyond the pledged ones. -/
theorem State.noSetLeft_iff {s : State} {w : Work} :
    ((s.set? w).map fun r => decide (r.pledged < r.onShelf)).getD false = false ↔
      ∀ r, s.set? w = some r → r.onShelf < r.pledged + 1 := by
  cases s.set? w <;> simp

/-- R44, condition 2, where the records are at most 32,768 or not. -/
theorem State.freeLoans_le_queuedBids_iff {s : State} :
    s.freeLoans ≤ s.queuedBids ↔ 32768 ≤ s.tables.loans.length + s.queuedBids :=
  Nat.sub_le_iff_le_add'

/-- R44: stage 1 fails exactly in one of four cases. -/
theorem State.eligible_eq_false_iff {s : State} {w : Work} {f : Format} {hit : Option Idx8} :
    s.eligible w f hit = false ↔
      hit = none ∨ 32768 ≤ s.tables.loans.length + s.queuedBids ∨
        (f ≠ .braille ∧ s.chosenStock w = none ∧ (s.validLen w = none ∨ s.copySockets = 0 ∨ 24 ≤ s.copyLoad)) ∨
        (f ≠ .cartridge ∧ ∀ r, s.set? w = some r → r.onShelf < r.pledged + 1) := by
  simp only [State.eligible, Bool.and_eq_false_iff, Bool.or_eq_false_iff, State.noSetLeft_iff, decide_eq_false_iff_not,
    Nat.not_lt, State.freeLoans_le_queuedBids_iff, Bool.not_eq_false', bne_eq_false_iff_eq, Option.isSome_eq_false_iff,
    Option.isNone_iff_eq_none, Format.hasCartridge_iff, Format.hasBraille_iff, or_assoc, and_assoc]

/-! ### The answer on each path (R45 to R49) -/

/-- R48: the base time of the parts the format asks for. -/
def State.bidBase (s : State) (cartTime : Nat) : Format → Nat
  | .cartridge => cartTime
  | .braille => s.cfg.pick
  | .both => max cartTime s.cfg.pick

/-- R48, R49: the base with the hit's penalty and 4 for each open loan, brought to 1 to 16,382. -/
def State.bidCost (s : State) (f : Format) (h : Idx8) (cartTime : Nat) : Nat :=
  boundCost (s.bidBase cartTime f + (s.cfg.filters[h].penalty + 4 * s.nOpen))

section
variable {s : State} {w : Work} {f : Format} {h : Idx8}

/-- The answer of format BRAILLE, which has no cartridge time (R45). -/
theorem State.bid_braille (he : s.eligible w .braille (some h) = true) :
    s.bid w .braille (some h) = some ⟨.brailleOnly, none, true, false, s.bidCost .braille h 0, 0, 0⟩ := by
  simp only [State.bid, he]
  rfl

/-- The answer on the REISSUE path (R45). -/
theorem State.bid_reissue {r : StockRec} (hf : f ≠ .braille) (he : s.eligible w f (some h) = true)
    (hr : s.chosenStock w = some r) :
    s.bid w f (some h) =
      some ⟨.reissue, some r.serial, decide (f = .both), false, s.bidCost f h s.cfg.reissue, 0, 0⟩ := by
  simp only [State.bid, he, Format.hasCartridge_iff.mpr hf, hr, Format.hasBraille_eq_decide_both hf]
  cases f <;> rfl

/-- The answer on the COPY path (R46, R47). -/
theorem State.bid_copy {len : Nat} (hf : f ≠ .braille) (he : s.eligible w f (some h) = true)
    (hr : s.chosenStock w = none) (hl : s.validLen w = some len) :
    s.bid w f (some h) =
      some ⟨.copy, none, decide (f = .both), true,
        s.bidCost f h (baseTimeOf len (s.bidBlockMs len) + s.bidWait len), s.bidBlockMs len,
        baseTimeOf len (s.bidBlockMs len)⟩ := by
  simp only [State.bid, he, Format.hasCartridge_iff.mpr hf, hr, hl, Format.hasBraille_eq_decide_both hf]
  cases f <;> rfl

end

/-- An order that passes stage 1 has an answer: each path has one, and a format with a cartridge part has a FREE record
or a VALID entry. -/
theorem State.bid_eq_none_iff_not_eligible {s : State} {w : Work} {f : Format} {hit : Option Idx8} :
    s.bid w f hit = none ↔ s.eligible w f hit = false := by
  refine ⟨fun hbid => ?_, fun he => if_pos he⟩
  by_contra he
  have hpass := he
  rw [State.eligible_eq_false_iff, not_or, not_or, not_or] at hpass
  obtain ⟨hhit, -, hcart, -⟩ := hpass
  rw [Bool.not_eq_false] at he
  obtain ⟨h, rfl⟩ := Option.ne_none_iff_exists'.mp hhit
  by_cases hf : f = .braille
  · subst hf
    simp [State.bid_braille he] at hbid
  cases hr : s.chosenStock w with
  | some r => simp [State.bid_reissue hf he hr] at hbid
  | none =>
    cases hl : s.validLen w with
    | some len => simp [State.bid_copy hf he hr hl] at hbid
    | none => exact hcart ⟨hf, hr, .inl hl⟩

/-- Settles O41: stage 1 decides whether there is an answer, and the format, the FREE records and the directory decide
which path's equation gives it. -/
theorem bidAnswerByPath : Obligations.BidAnswerByPath := by
  intro s w f hit free valid queued copyBids jobs noBid nOpen cost
  have hno : s.eligible w f hit = false ↔ noBid := by
    rw [State.eligible_eq_false_iff, State.chosenStock_eq_none_iff, State.validLen_eq_none_iff,
      State.copySockets_eq_zero_iff, State.copyLoad, State.queuedBids_eq_countP, State.pendingCopy_eq_countP]
    exact Iff.rfl
  have hcost (h : Idx8) (cartTime : Nat) : s.bidCost f h cartTime = cost h cartTime := by
    rw [State.bidCost, State.nOpen_eq_countP, ← Nat.add_assoc]
    cases f <;> rfl
  refine ⟨State.bid_eq_none_iff_not_eligible.trans hno, fun _ _ _ => State.fittingBlank_eq_some_iff, ?_⟩
  rintro h rfl hbids
  have he : s.eligible w f (some h) = true := Bool.eq_true_of_not_eq_false (mt hno.mp hbids)
  refine ⟨?_, ?_, ?_⟩
  · rintro rfl
    rw [State.bid_braille he, hcost]
  · rintro hf ⟨q, hq⟩
    obtain ⟨r, hr⟩ : ∃ r, s.chosenStock w = some r :=
      Option.ne_none_iff_exists'.mp fun hnone => State.chosenStock_eq_none_iff.mp hnone q hq
    obtain ⟨hfree, hbest⟩ := State.chosenStock_best hr
    exact ⟨r, hfree, hbest, by rw [State.bid_reissue hf he hr, hcost]⟩
  · intro len hf hnone hlen a c m t0 sockets backlog wait
    have ha : s.blanks len = a := State.blanks_eq_countP s len
    have hm : s.bidBlockMs len = m := by rw [State.bidBlockMs, ha, State.cleanBlanks_eq_countP]
    have ht0 : baseTimeOf len m = t0 := rfl
    have hwait : s.bidWait len = wait := by
      rw [State.bidWait, ha, State.copySockets_eq_countP]
      rfl
    have hbid := State.bid_copy hf he (State.chosenStock_eq_none_iff.mpr hnone) (State.validLen_eq_some_iff.mpr hlen)
    rw [hbid, hm, ht0, hwait, hcost]

end Sys2Proof.Machine
end

section
/-! PROOFS. The loan records stand in ascending loan number (R62, R73): most operations leave them alone, a change in place
keeps their numbers, a removal keeps the rest, and a win inserts its record at its place. -/

namespace Sys2Proof.Machine

/-! ### Ascending records -/

/-- Loan records in ascending loan number. -/
def Ascending (ls : List Loan) : Prop := ls.Pairwise fun a b => a.number ≤ b.number

theorem mem_insertLoan {l x : Loan} {ls : List Loan} : x ∈ insertLoan l ls ↔ x = l ∨ x ∈ ls := by
  induction ls with
  | nil => simp [insertLoan]
  | cons y ys ih =>
    unfold insertLoan
    split
    · simp
    · simp [ih, or_left_comm]

theorem Ascending.insert {ls : List Loan} (h : Ascending ls) (l : Loan) : Ascending (insertLoan l ls) := by
  induction ls with
  | nil => simp [insertLoan, Ascending]
  | cons x xs ih =>
    obtain ⟨hx, hxs⟩ := List.pairwise_cons.mp h
    unfold insertLoan
    split
    next lt =>
      refine List.pairwise_cons.mpr ⟨fun y hy => ?_, h⟩
      obtain rfl | hy := List.mem_cons.mp hy
      · exact BitVec.le_of_lt lt
      · exact BitVec.le_trans (BitVec.le_of_lt lt) (hx y hy)
    next le =>
      refine List.pairwise_cons.mpr ⟨fun y hy => ?_, ih hxs⟩
      obtain rfl | hy := mem_insertLoan.mp hy
      · exact BitVec.not_lt.mp le
      · exact hx y hy

theorem ascending_map {f : Loan → Loan} (hf : ∀ l, (f l).number = l.number) (ls : List Loan) :
    Ascending (ls.map f) ↔ Ascending ls := by
  simp [Ascending, List.pairwise_map, hf]

namespace State

variable {s : State}

@[simp] theorem ascending_modLoan (s : State) (n : LoanNo) {f : Loan → Loan} (hf : ∀ l, (f l).number = l.number) :
    Ascending (s.modLoan n f).tables.loans ↔ Ascending s.tables.loans :=
  ascending_map (fun l => by split <;> simp [hf]) _

@[simp] theorem ascending_readinessTest (s : State) (n : LoanNo) :
    Ascending (s.readinessTest n).tables.loans ↔ Ascending s.tables.loans :=
  s.ascending_modLoan n fun l => by split <;> rfl

@[simp] theorem ascending_cartReport (s : State) (n : LoanNo) (p : CartPath) (x y : CartStatus) :
    Ascending (s.cartReport n p x y).tables.loans ↔ Ascending s.tables.loans :=
  s.ascending_modLoan n fun l => by (repeat' split) <;> rfl

theorem ascending_dropLoan (h : Ascending s.tables.loans) (n : LoanNo) : Ascending (s.dropLoan n).tables.loans :=
  h.filter _

theorem ascending_addLoan (h : Ascending s.tables.loans) (l : Loan) : Ascending (s.addLoan l).tables.loans :=
  h.insert l

theorem ascending_foldl {α : Type} {f : State → α → State}
    (hf : ∀ t x, Ascending t.tables.loans → Ascending (f t x).tables.loans) (l : List α) :
    ∀ {s : State}, Ascending s.tables.loans → Ascending (l.foldl f s).tables.loans := by
  induction l with
  | nil => exact fun h => h
  | cons x l ih => exact fun h => ih (hf _ _ h)

/-! ### Operations that leave the tables alone -/

theorem foldl_tables {α : Type} {f : State → α → State} (hf : ∀ t x, (f t x).tables = t.tables) (l : List α) (s : State) :
    (l.foldl f s).tables = s.tables := by
  induction l generalizing s with
  | nil => rfl
  | cons x l ih => exact (ih _).trans (hf _ _)

@[simp] theorem joinPacing_tables (s : State) (o : PacedOwner) : (s.joinPacing o).tables = s.tables := by
  unfold State.joinPacing
  split <;> rfl

@[simp] theorem offerPaced_tables (s : State) (o : PacedOwner) (p : Payload) :
    (s.offerPaced o p).1.tables = s.tables := by
  unfold State.offerPaced
  split <;> simp

theorem offerPaced_tables_eq {o : PacedOwner} {p : Payload} {t : State} {b : Bool} (h : s.offerPaced o p = (t, b)) :
    t.tables = s.tables := by
  rw [← s.offerPaced_tables o p, h]

theorem offerUrgent_tables {r : BitVec 14} {p : Payload} {t : State} (h : s.offerUrgent r p = some t) :
    t.tables = s.tables := by
  unfold State.offerUrgent at h
  split at h
  · cases h; rfl
  · cases h

@[simp] theorem closeFirst_tables (s : State) (n : Idx8) (k : Nat) : (s.closeFirst n k).tables = s.tables := rfl

@[simp] theorem releaseSent_tables (s : State) (e : Entry) : (s.releaseSent e).tables = s.tables := by
  unfold State.releaseSent
  dsimp only
  split <;> rfl

@[simp] theorem bookOffer_tables (s : State) (k : Nat) : (s.bookOffer k).tables = s.tables := by
  induction k generalizing s with
  | zero => rfl
  | succ k ih =>
    unfold State.bookOffer
    split
    · rfl
    · split
      next h => rw [ih, releaseSent_tables, offerPaced_tables_eq h]
      next h => exact offerPaced_tables_eq h

@[simp] theorem sendBackMark_tables (s : State) (n : Idx8) (c : Check) : (s.sendBackMark n c).tables = s.tables := by
  unfold State.sendBackMark
  dsimp only
  (repeat' split) <;> rfl

@[simp] theorem serveWaiting_tables (s : State) (n : Idx8) : (s.serveWaiting n).tables = s.tables := by
  unfold State.serveWaiting
  (repeat' split) <;> simp

@[simp] theorem serveWaitList_tables (s : State) : s.serveWaitList.tables = s.tables :=
  foldl_tables serveWaiting_tables _ s

@[simp] theorem returnsOffer_tables (s : State) (k : Nat) : (s.returnsOffer k).tables = s.tables := by
  induction k generalizing s with
  | zero => rfl
  | succ k ih =>
    unfold State.returnsOffer
    split
    · rfl
    · split
      next h => rw [ih, serveWaitList_tables, offerPaced_tables_eq h]
      next h => exact offerPaced_tables_eq h

@[simp] theorem setCondition_tables (s : State) (n : LoanNo) (c : Condition) (b : Bool) :
    (s.setCondition n c b).tables = s.tables := by
  unfold State.setCondition
  dsimp only
  split <;> simp

@[simp] theorem condition_tables (s : State) (c : Check) (x : Condition) (b : Bool) :
    (s.condition c x b).tables = s.tables := by
  unfold State.condition
  split <;> simp

@[simp] theorem requestScan_tables (s : State) : s.requestScan.tables = s.tables := by
  rw [requestScan_eq]

@[simp] theorem visitEnd_tables (s : State) : s.visitEnd.tables = s.tables := by
  unfold State.visitEnd
  dsimp only
  (repeat' split) <;> rfl

@[simp] theorem sendHeld_tables (s : State) (e : Entry) : (s.sendHeld e).tables = s.tables := by
  unfold State.sendHeld
  split
  · rfl
  · split
    next h => exact (modEntry_tables _ _ _).trans (offerUrgent_tables h)
    · rfl

@[simp] theorem ownRelease_tables (s : State) (e : Entry) (w : Reason) : (s.ownRelease e w).tables = s.tables := by
  unfold State.ownRelease
  dsimp only
  split <;> simp

@[simp] theorem grant_tables (s : State) : s.grant.tables = s.tables := by
  unfold State.grant
  split
  · rfl
  · split <;> rfl

@[simp] theorem requestBlock_tables (s : State) (b : Fin 4) (r : StoreReq) : (s.requestBlock b r).tables = s.tables := by
  simp [State.requestBlock]

@[simp] theorem freeBuffer_tables (s : State) (b : Fin 4) : (s.freeBuffer b).tables = s.tables := by
  unfold State.freeBuffer
  split <;> rfl

@[simp] theorem requestRead_tables (s : State) (g : Gang) (b : Fin 4) : (s.requestRead g b).tables = s.tables :=
  s.requestBlock_tables _ _

@[simp] theorem putProgress_tables (s : State) (n : Idx8) (m : Member) (p : Progress) :
    (s.putProgress n m p).tables = s.tables := rfl

@[simp] theorem startFinishing_tables (s : State) (n : Idx8) (m : Member) : (s.startFinishing n m).tables = s.tables := rfl

@[simp] theorem startWork_tables (s : State) (n : Idx8) (m : Member) (g : Gang) (b : Bool) :
    (s.startWork n m g b).tables = s.tables := by
  unfold State.startWork
  split <;> rfl

@[simp] theorem gangAdvance_tables (s : State) (g : Nat) : (s.gangAdvance g).tables = s.tables := by
  unfold State.gangAdvance
  split
  · rfl
  · split
    · rfl
    · dsimp only
      split
      · split
        · rw [requestRead_tables, foldl_tables (fun t p => by simp), modGang_tables]
        · rw [freeBuffer_tables, foldl_tables (fun t p => by simp), modGang_tables]
      · rfl

@[simp] theorem leaveGang_tables (s : State) (g : Nat) : (s.leaveGang g).tables = s.tables := by
  unfold State.leaveGang
  dsimp only
  (repeat' split) <;> simp

@[simp] theorem memberPrepared_tables (s : State) (n : Idx8) (m : Member) : (s.memberPrepared n m).tables = s.tables := by
  unfold State.memberPrepared
  split
  · rfl
  · split
    · simp
    · rfl

@[simp] theorem memberFinished_tables (s : State) (n : Idx8) (m : Member) : (s.memberFinished n m).tables = s.tables :=
  gangAdvance_tables _ _

@[simp] theorem workNext_tables (s : State) (n : Idx8) (m : Member) (t : WorkStep) (b : Bool) :
    (s.workNext n m t b).tables = s.tables := by
  unfold State.workNext
  split
  · rfl
  · cases t <;> dsimp only <;> (repeat' split) <;> rfl

@[simp] theorem cleanTest_tables (s : State) : s.cleanTest.tables = s.tables := by
  unfold State.cleanTest
  split
  · exact foldl_tables (fun t n => by split <;> rfl) _ s
  · rfl

@[simp] theorem serveIngest_tables (s : State) (k : Nat) : (s.serveIngest k).tables = s.tables := by
  induction k generalizing s with
  | zero => rfl
  | succ k ih =>
    unfold State.serveIngest
    split
    · dsimp only
      split
      · exact ih _
      · exact ih _
    · rfl

@[simp] theorem leaveAborting_tables (s : State) (n : Idx8) : (s.leaveAborting n).tables = s.tables := by
  unfold State.leaveAborting
  (repeat' split) <;> simp

@[simp] theorem abortMember_tables (s : State) (n : Idx8) (m : Member) : (s.abortMember n m).tables = s.tables := by
  unfold State.abortMember
  dsimp only
  split <;> simp

@[simp] theorem abortAll_tables (s : State) (ms : List (Idx8 × Member)) : (s.abortAll ms).tables = s.tables := by
  unfold State.abortAll
  dsimp only
  rw [foldl_tables (fun t p => by split <;> simp), foldl_tables (fun t p => by simp),
    foldl_tables fun t p => by simp]

@[simp] theorem leaveIngest_tables (s : State) (n : Idx8) (i : Ingest) : (s.leaveIngest n i).tables = s.tables := by
  unfold State.leaveIngest
  dsimp only
  split <;> simp

@[simp] theorem sendLock_true_tables (s : State) (n : Idx8) (b : Bool) : (s.sendLock n true b).tables = s.tables := rfl

@[simp] theorem holdStarts_tables (s : State) (n : Idx8) (t : HeldTransfer) : (s.holdStarts n t).tables = s.tables := by
  obtain e | ⟨x, -, -, e⟩ := s.holdStarts_cases n t <;> rw [e]
  rfl

@[simp] theorem drainBuffer_tables (s : State) (b : Fin 4) : (s.drainBuffer b).tables = s.tables := by
  unfold State.drainBuffer
  split <;> rfl

@[simp] theorem blockLoaded_tables (s : State) (b : Fin 4) (d : List Byte) : (s.blockLoaded b d).tables = s.tables := by
  unfold State.blockLoaded
  split
  · split
    · dsimp only
      rw [foldl_tables (fun t p => by split <;> simp)]
      rfl
    · rfl
  · rfl

@[simp] theorem showSockets_tables (s : State) : s.showSockets.tables = s.tables :=
  foldl_tables (fun t _ => t.raise_tables _) _ s

@[simp] theorem showTrays_tables (s : State) : s.showTrays.tables = s.tables := by
  unfold State.showTrays
  rw [foldl_tables (fun t r => by split <;> simp), raise_tables]

@[simp] theorem showLoan_tables (s : State) (b : BenchLoan) : (s.showLoan b).tables = s.tables := by
  unfold State.showLoan
  split <;> simp

@[simp] theorem seatedInsertions_tables (s : State) : s.seatedInsertions.tables = s.tables :=
  foldl_tables (fun t n => by split <;> rfl) _ s

@[simp] theorem setBenchRate_tables (s : State) : s.setBenchRate.tables = s.tables := by
  unfold State.setBenchRate
  split <;> rfl

@[simp] theorem startScan_tables (s : State) : s.startScan.tables = s.tables := by
  unfold State.startScan
  split <;> simp

/-! ### Operations that leave the loan records alone -/

@[simp] theorem modDir_loans (s : State) (w : Work) (f : DirEntry → DirEntry) :
    (s.modDir w f).tables.loans = s.tables.loans := rfl
@[simp] theorem dropDir_loans (s : State) (w : Work) : (s.dropDir w).tables.loans = s.tables.loans := rfl
@[simp] theorem modStock_loans (s : State) (x : Serial) (f : StockRec → StockRec) :
    (s.modStock x f).tables.loans = s.tables.loans := rfl
@[simp] theorem stockState_loans (s : State) (x : Serial) (t : StockState) :
    (s.stockState x t).tables.loans = s.tables.loans := rfl
@[simp] theorem dropStock_loans (s : State) (x : Serial) : (s.dropStock x).tables.loans = s.tables.loans := rfl
@[simp] theorem modSet_loans (s : State) (w : Work) (f : SetRec → SetRec) :
    (s.modSet w f).tables.loans = s.tables.loans := rfl
@[simp] theorem loseSet_loans (s : State) (w : Work) : (s.loseSet w).tables.loans = s.tables.loans := rfl
@[simp] theorem setTray_loans (s : State) (r : Fin 16) (t : Option Tray) :
    (s.setTray r t).tables.loans = s.tables.loans := rfl
@[simp] theorem freeTray_loans (s : State) (r : Fin 16) : (s.freeTray r).tables.loans = s.tables.loans := rfl
@[simp] theorem abandonIngest_loans (s : State) (n : Idx8) (i : Ingest) :
    (s.abandonIngest n i).tables.loans = s.tables.loans := by simp [State.abandonIngest]
@[simp] theorem startIngest_loans (s : State) (n : Idx8) (v : View) (b : Nat) :
    (s.startIngest n v b).tables.loans = s.tables.loans := by
  unfold State.startIngest State.loadEntry
  dsimp only
  (repeat' split) <;> rfl

@[simp] theorem dropIssuing_loans (s : State) (n : LoanNo) : (s.dropIssuing n).tables.loans = s.tables.loans := by
  unfold State.dropIssuing
  split <;> rfl

@[simp] theorem freeIssuing_loans (s : State) (n : LoanNo) : (s.freeIssuing n).tables.loans = s.tables.loans := by
  unfold State.freeIssuing
  split <;> rfl

@[simp] theorem makePledges_loans (s : State) (o : OrderNo) (w : Work) (x : Option Serial) (b : Bool) :
    (s.makePledges o w x b).tables.loans = s.tables.loans := by
  unfold State.makePledges
  cases x <;> cases b <;> rfl

@[simp] theorem undoPledges_loans (s : State) (o : OrderNo) (w : Work) (p : Pledge) :
    (s.undoPledges o w p).tables.loans = s.tables.loans := by
  unfold State.undoPledges
  cases p.serial <;> cases p.set <;> rfl

@[simp] theorem storeTray_loans (s : State) (r : Fin 16) (t : Tray) : (s.storeTray r t).tables.loans = s.tables.loans := by
  unfold State.storeTray
  split <;> rfl

@[simp] theorem closeTray_loans (s : State) (r : Fin 16) (x : Tray) : (s.closeTray r x).tables.loans = s.tables.loans := by
  simp [State.closeTray]

@[simp] theorem closeFull_loans (s : State) (g : Idx8) (u : Nat) : (s.closeFull g u).tables.loans = s.tables.loans := by
  unfold State.closeFull
  (repeat' split) <;> simp

theorem openTray_loans {g : Idx8} {t : State} (h : s.openTray g = some t) : t.tables.loans = s.tables.loans := by
  unfold State.openTray at h
  split at h
  · cases h
  · cases h; rfl

@[simp] theorem keepRecord_loans (s : State) (v : View) : (s.keepRecord v).tables.loans = s.tables.loans := by
  rw [keepRecord_eq]

@[simp] theorem keep_loans (s : State) (n : Idx8) (c : Check) (v : View) :
    (s.keep n c v).tables.loans = s.tables.loans := by
  simp [State.keep]

@[simp] theorem startErase_tables (s : State) (n : Idx8) (c : Check) (k : Nat) : (s.startErase n c k).tables = s.tables := by
  simp [State.startErase]

@[simp] theorem startVerify_tables (s : State) (n : Idx8) (c : Check) (i : Nat) (x : BitVec 32) :
    (s.startVerify n c i x).tables = s.tables := rfl

@[simp] theorem dispose_tables (s : State) (n : Idx8) (c : Check) : (s.dispose n c).tables = s.tables := by
  unfold State.dispose State.retire
  (repeat' split) <;> simp

@[simp] theorem verifyEnd_loans (s : State) (n : Idx8) (c : Check) (v : View) (x : BitVec 32) :
    (s.verifyEnd n c v x).tables.loans = s.tables.loans := by
  unfold State.verifyEnd
  (repeat' split) <;> simp

@[simp] theorem verifyRead_loans (s : State) (n : Idx8) (c : Check) (i : Nat) (x : BitVec 32) (b : List Byte) :
    (s.verifyRead n c i x b).tables.loans = s.tables.loans := by
  unfold State.verifyRead
  dsimp only
  (repeat' split) <;> simp

@[simp] theorem eraseDone_tables (s : State) (n : Idx8) (c : Check) : (s.eraseDone n c).tables = s.tables := by
  simp [State.eraseDone]

@[simp] theorem eraseFailed_tables (s : State) (n : Idx8) (c : Check) : (s.eraseFailed n c).tables = s.tables := by
  simp [State.eraseFailed]

@[simp] theorem enterReturn_tables (s : State) (n : Idx8) (k : Nat) (l : LoanNo) (b : Bool) :
    (s.enterReturn n k l b).tables = s.tables := by
  unfold State.enterReturn
  dsimp only
  (repeat' split) <;> simp

@[simp] theorem startTag_tables (s : State) (n : Idx8) (l : LoanNo) : (s.startTag n l).tables = s.tables := by
  unfold State.startTag
  split <;> rfl

@[simp] theorem ingestEnd_loans (s : State) (n : Idx8) (i : Ingest) (d : DirEntry) :
    (s.ingestEnd n i d).tables.loans = s.tables.loans := by
  unfold State.ingestEnd
  dsimp only
  split <;> simp

@[simp] theorem ingestWritten_loans (s : State) (n : Idx8) (i : Ingest) (b : Bool) :
    (s.ingestWritten n i b).tables.loans = s.tables.loans := by
  unfold State.ingestWritten
  (repeat' split) <;> simp

@[simp] theorem ingestRead_tables (s : State) (n : Idx8) (i : Ingest) (b : List Byte) :
    (s.ingestRead n i b).tables = s.tables := by
  unfold State.ingestRead
  dsimp only
  split <;> simp

@[simp] theorem blockWritten_loans (s : State) (b : Fin 4) (x : Bool) : (s.blockWritten b x).tables.loans = s.tables.loans := by
  unfold State.blockWritten
  (repeat' split) <;> simp

@[simp] theorem placeBid_loans (s : State) (e : Entry) (x : BidAnswer) : (s.placeBid e x).tables.loans = s.tables.loans := by
  unfold State.placeBid
  split
  next h => simp [offerUrgent_tables h]
  · simp

@[simp] theorem expireWindow_loans (s : State) (e : Entry) : (s.expireWindow e).tables.loans = s.tables.loans := by
  unfold State.expireWindow
  (repeat' split) <;> simp

theorem bookRoom_tables {t : State} (h : s.bookRoom = some t) : t.tables = s.tables := by
  unfold State.bookRoom at h
  split at h
  · cases h; rfl
  · obtain ⟨e, -, rfl⟩ := Option.map_eq_some_iff.mp h
    rfl

@[simp] theorem bookOrder_tables (s : State) (e : Entry) : (s.bookOrder e).tables = s.tables := by
  unfold State.bookOrder
  split
  · rfl
  · split
    next h => exact (addEntry_tables _ _).trans (bookRoom_tables h)
    · rfl

@[simp] theorem takeTray_loans (s : State) (p : Fin 16 × Tray) : (s.takeTray p).tables.loans = s.tables.loans := by
  simp [State.takeTray]

@[simp] theorem recoverDirectory_loans (s : State) : s.recoverDirectory.tables.loans = s.tables.loans := rfl

@[simp] theorem recoverBook_tables (s : State) : s.recoverBook.tables = s.tables := rfl

@[simp] theorem recoverTray_loans (s : State) (r : Fin 16) : (s.recoverTray r).tables.loans = s.tables.loans := by
  unfold State.recoverTray
  split
  · rfl
  · exact storeTray_loans _ _ _

end State

end Sys2Proof.Machine
end

section
/-! PROOFS. Every step keeps the loan records, the register's and record memory's, in ascending loan number (R62, R73). -/

namespace Sys2Proof.Machine

namespace State

variable {s : State}

/-! ### Operations that change or remove loan records -/

@[simp] theorem ascending_removeFromTray (s : State) (l : Loan) :
    Ascending (s.removeFromTray l).tables.loans ↔ Ascending s.tables.loans := by
  unfold State.removeFromTray
  split
  · rfl
  · dsimp only
    split <;> simp

theorem ascending_joinTray (h : Ascending s.tables.loans) (l : Loan) (c : Container) (g : Idx8) :
    Ascending (s.joinTray l c g).tables.loans := by
  unfold State.joinTray
  split <;> simp [h]

theorem ascending_shipLoan (h : Ascending s.tables.loans) (r : Fin 16) (x : Tray) (l : Loan) :
    Ascending (s.shipLoan r x l).tables.loans := by
  unfold State.shipLoan
  dsimp only
  split <;> simp [h]

theorem ascending_trayOffer (h : Ascending s.tables.loans) (k : Nat) : Ascending (s.trayOffer k).tables.loans := by
  induction k generalizing s with
  | zero => exact h
  | succ k ih =>
    unfold State.trayOffer
    split
    · exact h
    · split
      · exact h
      · split
        next ht => exact ih (ascending_shipLoan (offerPaced_tables_eq ht ▸ h) _ _ _)
        next ht => exact offerPaced_tables_eq ht ▸ h

theorem ascending_closeTest (h : Ascending s.tables.loans) (n : LoanNo) : Ascending (s.closeTest n).tables.loans := by
  unfold State.closeTest
  (repeat' split) <;> simp [h, ascending_dropLoan]

@[simp] theorem noticeSent_number (l : Loan) (t : LoanStatus) : (l.noticeSent t).number = l.number := by
  cases t <;> rfl

theorem ascending_scanOffer (h : Ascending s.tables.loans) (n : LoanNo) (k : Nat) :
    Ascending (s.scanOffer n k).tables.loans := by
  induction k generalizing s with
  | zero => exact h
  | succ k ih =>
    unfold State.scanOffer
    split
    · simp [h]
    · split
      · simp [h]
      · split
        next ht =>
          have ht := offerPaced_tables_eq ht
          exact ih (ascending_closeTest (by simp [ht, h]) _)
        next ht => exact offerPaced_tables_eq ht ▸ h

theorem ascending_ownerOffer (h : Ascending s.tables.loans) (o : PacedOwner) :
    Ascending (s.ownerOffer o).tables.loans := by
  cases o <;> unfold State.ownerOffer
  · simp [h]
  · simp [h]
  · exact ascending_trayOffer h _
  · dsimp only
    split <;> simp [h, ascending_scanOffer]

theorem ascending_roomEvent (h : Ascending s.tables.loans) (k : Nat) : Ascending (s.roomEvent k).tables.loans := by
  induction k generalizing s with
  | zero => exact h
  | succ k ih =>
    unfold State.roomEvent
    split
    · exact h
    · split
      · exact h
      · split
        · exact ascending_ownerOffer h _
        · refine ih ?_
          unfold State.nothingToOffer
          dsimp only
          split <;> simp [h]

@[simp] theorem bidWithdrawn_loans (s : State) (o : OrderNo) (c : Option Cause) :
    (s.bidWithdrawn o c).tables.loans = s.tables.loans := by
  unfold State.bidWithdrawn
  split
  · rfl
  · dsimp only
    (repeat' split) <;> simp

theorem ascending_withdrawBid (h : Ascending s.tables.loans) (o : OrderNo) (c : Cause) :
    Ascending (s.withdrawBid o c).tables.loans := by
  unfold State.withdrawBid
  (repeat' split) <;> simp [h, ascending_roomEvent]

theorem ascending_titleVoid (h : Ascending s.tables.loans) (w : Work) : Ascending (s.titleVoid w).tables.loans :=
  ascending_foldl (fun _ _ ht => ascending_withdrawBid ht _ _) _ h

@[simp] theorem ascending_takeJob (s : State) (g : Nat) (n : Idx8) (j : Job) :
    Ascending (s.takeJob g n j).tables.loans ↔ Ascending s.tables.loans := by
  simp [State.takeJob]

theorem ascending_dispatchHead (h : Ascending s.tables.loans) {t : State} (ht : s.dispatchHead = some t) :
    Ascending t.tables.loans := by
  unfold State.dispatchHead at ht
  split at ht
  · cases ht
  · split at ht
    · cases ht
      rw [requestRead_tables]
      exact ascending_foldl (fun t p ht => (t.ascending_takeJob _ _ _).mpr ht) _ h
    · cases ht

theorem ascending_dispatchAll (h : Ascending s.tables.loans) (k : Nat) : Ascending (s.dispatchAll k).tables.loans := by
  induction k generalizing s with
  | zero => exact h
  | succ k ih =>
    unfold State.dispatchAll
    split
    next ht => exact ih (ascending_dispatchHead h ht)
    · exact h

/-! ### The Loan Register -/

@[simp] theorem unwindCart_loans (s : State) (n : LoanNo) (c : CartPart) :
    (s.unwindCart n c).tables.loans = s.tables.loans := by
  unfold State.unwindCart
  dsimp only
  (repeat' split) <;> simp

@[simp] theorem unwindBraille_loans (s : State) (b : BraillePart) : (s.unwindBraille b).tables.loans = s.tables.loans := by
  unfold State.unwindBraille
  split <;> simp

theorem ascending_unwind (h : Ascending s.tables.loans) (l : Loan) (k : Skip) :
    Ascending (s.unwind l k).tables.loans := by
  unfold State.unwind
  refine ascending_dropLoan ?_ _
  (repeat' split) <;> simp [h]

theorem ascending_withdraw (h : Ascending s.tables.loans) (n : LoanNo) : Ascending (s.withdraw n).1.tables.loans := by
  unfold State.withdraw
  (repeat' split) <;> simp [h, ascending_unwind]

theorem ascending_withdraw_eq (h : Ascending s.tables.loans) {n : LoanNo} {t : State} {b : Bool}
    (ht : s.withdraw n = (t, b)) : Ascending t.tables.loans := by
  have := ascending_withdraw h n
  rwa [ht] at this

theorem ascending_release (h : Ascending s.tables.loans) (n : LoanNo) (w : Reason) (k : Skip) :
    Ascending (s.release n w k).tables.loans := by
  unfold State.release
  dsimp only
  (repeat' split) <;> simp [h, ascending_unwind]

theorem ascending_titleVoidFailure (h : Ascending s.tables.loans) (n : LoanNo) :
    Ascending (s.titleVoidFailure n).tables.loans := by
  unfold State.titleVoidFailure
  split <;> simp [h, ascending_release]

theorem ascending_createJob (h : Ascending s.tables.loans) (n : LoanNo) (w : Work) (m e : Nat) :
    Ascending (s.createJob n w m e).tables.loans := by
  unfold State.createJob
  split <;> simp [h, ascending_titleVoidFailure]

theorem ascending_fallback (h : Ascending s.tables.loans) (l : Loan) : Ascending (s.fallback l).tables.loans := by
  unfold State.fallback
  (repeat' split) <;> simp [h, ascending_release, ascending_createJob]

theorem ascending_cartFault (h : Ascending s.tables.loans) (j : Job) : Ascending (s.cartFault j).tables.loans := by
  unfold State.cartFault
  (repeat' split) <;> simp [h, ascending_release]

theorem ascending_taggingFault (h : Ascending s.tables.loans) (n : LoanNo) :
    Ascending (s.taggingFault n).tables.loans := by
  unfold State.taggingFault
  (repeat' split) <;> simp [h, ascending_fallback]

theorem ascending_cartridgeLost (h : Ascending s.tables.loans) (n : LoanNo) (x : Serial) :
    Ascending (s.cartridgeLost n x).tables.loans := by
  unfold State.cartridgeLost
  dsimp only
  (repeat' split) <;> simp [h, ascending_fallback]

@[simp] theorem ascending_recoveryNotice (s : State) (l : Loan) :
    Ascending (s.recoveryNotice l).tables.loans ↔ Ascending s.tables.loans := by
  unfold State.recoveryNotice
  (repeat' split) <;> simp

theorem ascending_cartReturn (h : Ascending s.tables.loans) (n : LoanNo) (x : Serial) :
    Ascending (s.cartReturn n x).tables.loans := by
  unfold State.cartReturn
  (repeat' split) <;> simp [h, ascending_closeTest]

theorem ascending_startCart (h : Ascending s.tables.loans) (e : Entry) (p : Pledge) (n : LoanNo) :
    Ascending (s.startCart e p n).tables.loans := by
  unfold State.startCart
  (repeat' split) <;> simp [h, ascending_createJob]

@[simp] theorem startBraille_tables (s : State) (e : Entry) (n : LoanNo) : (s.startBraille e n).tables = s.tables := by
  unfold State.startBraille
  split <;> simp

theorem ascending_win (h : Ascending s.tables.loans) (e : Entry) (p : Pledge) : Ascending (s.win e p).tables.loans := by
  unfold State.win
  dsimp only
  rw [startBraille_tables]
  exact ascending_startCart (h.insert _) _ _ _

/-! ### The ends of an operation -/

theorem ascending_handOver (h : Ascending s.tables.loans) (n : Idx8) (c : Check) :
    Ascending (s.handOver n c).tables.loans := by
  unfold State.handOver
  split <;> simp [h, ascending_cartReturn]

theorem ascending_slotCloseFailed (h : Ascending s.tables.loans) (n : Idx8) (c : Check) :
    Ascending (s.slotCloseFailed n c).tables.loans := by
  simp [State.slotCloseFailed, h, ascending_handOver]

theorem ascending_lateClose (h : Ascending s.tables.loans) (v : View) : Ascending (s.lateClose v).tables.loans := by
  unfold State.lateClose
  split <;> simp [h, ascending_cartReturn]

@[simp] theorem ascending_reissueDone (s : State) (n : Idx8) (l : LoanNo) :
    Ascending (s.reissueDone n l).tables.loans ↔ Ascending s.tables.loans := by
  simp [State.reissueDone]

theorem ascending_classify (h : Ascending s.tables.loans) (n : Idx8) (v : View) :
    Ascending (s.classify n v).tables.loans := by
  unfold State.classify State.enterTagging State.classifyRest State.classifyOpen State.enterNoLoan
  have late : ∀ f, Ascending ((s.modSocket n f).lateClose v).tables.loans := fun f =>
    ascending_lateClose (s := s.modSocket n f) h v
  dsimp only
  (repeat' split) <;> simp [h, ascending_cartridgeLost, late]

theorem ascending_identified (h : Ascending s.tables.loans) (n : Idx8) (x y : List Byte) :
    Ascending (s.identified n x y).tables.loans := by
  unfold State.identified
  split
  · simp [h]
  · exact ascending_classify (s := s.modSocket n _) h _ _

theorem ascending_memberFault (h : Ascending s.tables.loans) (n : Idx8) (m : Member) :
    Ascending (s.memberFault n m).tables.loans := by
  simp [State.memberFault, h, ascending_cartFault]

theorem ascending_opSucceeded (h : Ascending s.tables.loans) (n : Idx8) : Ascending (s.opSucceeded n).tables.loans := by
  unfold State.opSucceeded State.finishingNext State.finishDone State.tagWritten State.slotClosed
  (repeat' split) <;> simp [h, ascending_handOver]

theorem ascending_readEnded (h : Ascending s.tables.loans) (n : Idx8) (b : List Byte) :
    Ascending (s.readEnded n b).tables.loans := by
  unfold State.readEnded
  (repeat' split) <;> simp [h, ascending_identified, ascending_memberFault]

theorem ascending_opFailed (h : Ascending s.tables.loans) (n : Idx8) : Ascending (s.opFailed n).tables.loans := by
  unfold State.opFailed State.tagFailed
  (repeat' split) <;> simp [h, ascending_memberFault, ascending_slotCloseFailed, ascending_taggingFault]

/-! ### The end of an event -/

theorem ascending_drainRefused (h : Ascending s.tables.loans) : Ascending s.drainRefused.tables.loans := by
  unfold State.drainRefused
  refine ascending_foldl (fun t n ht => ?_) _ h
  split
  · exact ascending_opFailed (s := t.clearOp n) ht n
  · exact ht

theorem ascending_tests (h : Ascending s.tables.loans) : Ascending s.tests.tables.loans := by
  simp [State.tests, h, ascending_dispatchAll]

theorem ascending_settle (h : Ascending s.tables.loans) (k : Nat) : Ascending (s.settle k).tables.loans := by
  induction k generalizing s with
  | zero => exact h
  | succ k ih =>
    unfold State.settle
    dsimp only
    have hd : Ascending (if s.anyRefused then s.drainRefused else s).tests.tables.loans := by
      refine ascending_tests ?_
      cases s.anyRefused
      · rwa [if_neg Bool.false_ne_true]
      · rw [if_pos rfl]
        exact ascending_drainRefused h
    generalize (if s.anyRefused then s.drainRefused else s).tests = t at hd
    split
    · exact ih hd
    · exact hd

end State

end Sys2Proof.Machine
end

section
/-! PROOFS. What every command keeps: record memory as the tables wherever it may be written (R72, R165, R178), the
capacities of the queues, lists and buffers, and the loan records in ascending loan number (R62, R73). -/

namespace Sys2Proof.Machine

/-! ### The end of an event and the three invariants -/

/-- The record memory write leaves record memory as the tables, or no longer to be written, whatever the event has done. -/
theorem commit_recordsKept (w : RecordWrite) (s : State) : (commit w s).recordsKept := by
  obtain ⟨hw, e⟩ | ⟨-, -, e⟩ | ⟨-, -, hn, e⟩ | ⟨-, -, -, e⟩ := commit_cases w s <;> rw [e]
  · exact fun h => absurd (hw ▸ h) Bool.false_ne_true
  · exact fun _ => rfl
  · exact fun _ => hn
  · intro h
    simp at h

theorem commit_capacities (w : RecordWrite) {s : State} (h : s.Capacities) : (commit w s).Capacities := by
  obtain ⟨-, e⟩ | ⟨-, -, e⟩ | ⟨-, -, -, e⟩ | ⟨-, -, -, e⟩ := commit_cases w s <;> rw [e]
  · exact h
  · exact ⟨h.1, h.2, h.3, h.4, h.5, h.6, h.7⟩
  · exact h
  · exact ((Within.refl _).raise _).cap ⟨h.1, h.2, h.3, h.4, h.5, h.6, h.7⟩

theorem commit_loansAscending (w : RecordWrite) {s : State} (h : s.LoansAscending) : (commit w s).LoansAscending := by
  obtain ⟨-, e⟩ | ⟨-, -, e⟩ | ⟨-, -, -, e⟩ | ⟨-, -, -, e⟩ := commit_cases w s <;> rw [e]
  · exact h
  · exact ⟨h.1, h.1⟩
  · exact h
  · unfold State.LoansAscending
    rw [State.raise_tables, State.raise_nv]
    exact h

/-- The three invariants hold after an event where they held before it. -/
structure Keeps (s t : State) : Prop where
  records : s.recordsKept → t.recordsKept
  cap     : s.Capacities → t.Capacities
  loans   : s.LoansAscending → t.LoansAscending

namespace Keeps

variable {s t u : State}

@[simp] theorem refl (s : State) : Keeps s s := ⟨id, id, id⟩

/-- An event that leaves alone the tables, record memory and whether it may be written. -/
theorem of_frame (ht : t.tables = s.tables) (hn : t.nv = s.nv) (hw : t.start.writable = s.start.writable)
    (cap : s.Capacities → t.Capacities) : Keeps s t where
  records h := by
    intro w
    rw [ht, hn]
    exact h (hw ▸ w)
  cap := cap
  loans h := by
    unfold State.LoansAscending
    rw [ht, hn]
    exact h

/-- An event of the blocks alone that leaves the tables alone. -/
theorem of_within (h : Within s t) (ht : t.tables = s.tables) : Keeps s t :=
  of_frame ht h.nv (by rw [h.start]) h.cap

/-- An event that ends with the tests of its end and the record memory write. -/
theorem finish (w : RecordWrite) (cap : s.Capacities → t.Capacities) (hn : t.nv = s.nv)
    (asc : Ascending s.tables.loans → Ascending t.tables.loans) : Keeps s (finish w t) where
  records _ := commit_recordsKept w _
  cap h := commit_capacities w (((Within.refl t).settle 40).cap (cap h))
  loans h := commit_loansAscending w
    ⟨State.ascending_settle (asc h.1) 40, by rw [((Within.refl t).settle 40).nv, hn]; exact h.2⟩

/-- An event of the blocks alone that ends with the tests of its end and the record memory write. -/
theorem finish_within (w : RecordWrite) (h : Within s t) (asc : Ascending s.tables.loans → Ascending t.tables.loans) :
    Keeps s (Machine.finish w t) :=
  finish w h.cap h.nv asc

theorem popRx_cap (h : s.Capacities) : s.popRx.Capacities :=
  ⟨by have := h.1; simp; omega, h.2, h.3, h.4, h.5, h.6, h.7⟩

/-- An event that takes the head of the receive queue and ends. -/
theorem finish_popRx (w : RecordWrite) (h : Within s.popRx t) (asc : Ascending s.tables.loans → Ascending t.tables.loans) :
    Keeps s (Machine.finish w t) :=
  finish w (fun c => h.cap (popRx_cap c)) h.nv asc

end Keeps

/-! ### Resets and start -/

theorem firstStart_ascending : Ascending Records.firstStart.loans := List.Pairwise.nil

theorem afterReset_keeps (s : State) : Keeps s s.afterReset where
  records _ h := absurd h Bool.false_ne_true
  cap _ := by constructor <;> simp [State.afterReset, State.reset, Line.reset, Bench.reset]
  loans h := ⟨firstStart_ascending, h.2⟩

theorem loadConfig_keeps (s : State) (bytes : List Byte) : Keeps s (s.loadConfig bytes) := by
  unfold State.loadConfig
  dsimp only
  split
  · refine .of_frame (by simp) (by simp) (by simp) fun h => ?_
    exact ((Within.refl _).raise _).cap ⟨h.1, h.2, h.3, h.4, h.5, h.6, h.7⟩
  · exact .of_frame rfl rfl rfl fun h => ⟨h.1, h.2, h.3, h.4, h.5, h.6, h.7⟩

theorem invalidate_capacities {s : State} (h : s.Capacities) (c : ConfigCause) : (s.invalidate c).Capacities :=
  ((Within.refl _).raise _).cap ⟨h.1, h.2, h.3, h.4, h.5, h.6, h.7⟩

theorem opened_capacities {s : State} (h : s.Capacities) (r : Records) (o : Option Station) (w : Bool) (k : Nat) :
    (s.opened r o w k).Capacities :=
  ⟨h.1, h.2, h.3, h.4, h.5, h.6, h.7⟩

@[simp] theorem invalidate_nv (s : State) (c : ConfigCause) : (s.invalidate c).nv = s.nv := by simp [State.invalidate]

/-- The opening takes the tables of record memory, or those of a first start; where record memory may be written the two are
the same (R178). -/
theorem openRecords_keeps (s : State) (answer : Option Nat) : Keeps s (s.openRecords answer) where
  records _ := by
    unfold State.openRecords
    dsimp only
    (repeat' split) <;> simp [State.recordsKept, State.opened]
  cap h := by
    unfold State.openRecords
    dsimp only
    (repeat' split)
    · exact opened_capacities (invalidate_capacities h _) _ _ _ _
    · exact opened_capacities h _ _ _ _
    · exact opened_capacities (invalidate_capacities h _) _ _ _ _
    · exact ⟨h.1, h.2, h.3, h.4, h.5, h.6, h.7⟩
    · exact opened_capacities h _ _ _ _
    · exact opened_capacities h _ _ _ _
  loans h := by
    have hf := firstStart_ascending
    obtain ⟨-, hn⟩ := h
    unfold State.openRecords
    dsimp only
    (repeat' split) <;> simp_all [State.LoansAscending, State.opened, Ascending]

theorem recover_within (s : State) : Within s s.recover := by
  have jobs : ∀ {t : State}, Within s t → Within s t.recoverJobs :=
    fun h => Within.foldl (fun _ _ ht => ht.createJob _ _ _ _) _ h
  have trays : ∀ {t : State}, Within s t → Within s t.recoverTrays := by
    refine fun h => Within.foldl (fun t r ht => ?_) _ h
    unfold State.recoverTray
    split
    · exact ht
    · exact ht.storeTray _ _
  exact trays (jobs (((((Within.refl s).tables _).scan _).tables _).book _))

theorem ascending_recoverJobs {s : State} (h : Ascending s.tables.loans) : Ascending s.recoverJobs.tables.loans :=
  State.ascending_foldl (fun _ _ ht => State.ascending_createJob ht _ _ _ _) _ h

@[simp] theorem recoverTrays_loans (s : State) : s.recoverTrays.tables.loans = s.tables.loans := by
  unfold State.recoverTrays
  generalize allTrays = l
  induction l generalizing s with
  | nil => rfl
  | cons r l ih => rw [List.foldl_cons, ih, State.recoverTray_loans]

theorem ascending_recoverRegister {s : State} (h : Ascending s.tables.loans) : Ascending s.recoverRegister.tables.loans := by
  unfold State.recoverRegister
  exact (ascending_map (fun _ => by rfl) _).mpr h

theorem ascending_recover {s : State} (h : Ascending s.tables.loans) : Ascending s.recover.tables.loans := by
  unfold State.recover
  rw [recoverTrays_loans]
  refine ascending_recoverJobs ?_
  rw [State.recoverBook_tables, State.recoverDirectory_loans]
  exact ascending_recoverRegister h

theorem setBenchRate_capacities {s : State} (h : s.Capacities) : s.setBenchRate.Capacities := by
  unfold State.setBenchRate
  split
  · exact h
  · exact ⟨h.1, h.2, h.3, h.4, h.5, h.6, h.7⟩

/-- The end of start is made of operations of the blocks, once the phase, the line's state and the bench rate are set. -/
theorem endOfStart_within (s : State) : Within s.startRunning.lineStarts.setBenchRate s.endOfStart := by
  have seats : ∀ {a t : State}, Within a t → Within a t.seatedInsertions := by
    refine fun h => Within.foldl (fun t n ht => ?_) _ h
    split
    · exact ht.startIdentify _
    · exact ht
  have scan : ∀ {a t : State}, Within a t → Within a t.startScan := by
    intro a t h
    unfold State.startScan
    split
    · exact h
    · exact h.requestScan
  exact (scan (seats (.refl _))).trayOffer 17

@[simp] theorem setBenchRate_nv (s : State) : s.setBenchRate.nv = s.nv := by
  unfold State.setBenchRate
  split <;> rfl

theorem lineStarts_capacities {s : State} (h : s.Capacities) : s.startRunning.lineStarts.Capacities :=
  ⟨h.1, h.2, h.3, h.4, h.5, h.6, h.7⟩

theorem ascending_endOfStart {s : State} (h : Ascending s.tables.loans) : Ascending s.endOfStart.tables.loans := by
  unfold State.endOfStart
  exact State.ascending_trayOffer (by simpa using h) 17

theorem recovery_keeps (s : State) : Keeps s (finish .completed s.recover.endOfStart) := by
  have hr := recover_within s
  have asc : Ascending s.tables.loans → Ascending s.recover.tables.loans := ascending_recover
  generalize s.recover = r at hr asc
  have he := endOfStart_within r
  have hn : r.endOfStart.nv = s.nv := by
    rw [he.nv, setBenchRate_nv, State.lineStarts_nv, State.startRunning_nv, hr.nv]
  refine Keeps.finish .completed (fun h => ?_) hn fun h => ?_
  · exact he.cap (setBenchRate_capacities (lineStarts_capacities (hr.cap h)))
  · exact ascending_endOfStart (asc h)

/-! ### The floor line -/

theorem rxFrame_keeps (s : State) (r : RawFrame) : Keeps s (s.rxFrame r) := by
  have push : ∀ f : Frame, ∀ a : State, a.tables = s.tables → a.nv = s.nv → a.start = s.start →
      (s.Capacities → a.Capacities) → Keeps s (a.pushRx f) := by
    intro f a ht hn hs hc
    unfold State.pushRx
    split
    next hl =>
      refine .of_frame ht hn (by rw [← hs]) fun c => ?_
      obtain ⟨h1, h2, h3, h4, h5, h6, h7⟩ := hc c
      exact ⟨by simp; omega, h2, h3, h4, h5, h6, h7⟩
    · split
      · exact .of_frame ht hn (by rw [← hs]) hc
      · refine .of_frame (by simp [ht]) (by simp [hn]) (by simp [hs]) fun c => ?_
        obtain ⟨h1, h2, h3, h4, h5, h6, h7⟩ := hc c
        exact ((Within.refl _).raise _).cap ⟨h1, h2, h3, h4, h5, h6, h7⟩
  have keeps : s.Capacities →
      State.Capacities { s with line := { s.line with ackDriven := s.acknowledges, finishing := false, sentBits := 0 } } :=
    fun h => ⟨h.1, h.2, h.3, h.4, h.5, h.6, h.7⟩
  unfold State.rxFrame
  dsimp only
  split
  · split
    · exact .of_frame rfl rfl rfl keeps
    · exact push _ _ rfl rfl rfl keeps
  · exact .of_frame rfl rfl rfl keeps

/-- A change of the Line Interface that leaves the receive queue and the pacing list alone, and no entry more in the transmit
queue. -/
theorem line_keeps {s t : State} {l : Line} (ht : t = { s with line := l }) (hr : l.rx = s.line.rx)
    (hp : l.pacing = s.line.pacing) (hx : l.tx.length ≤ s.line.tx.length) : Keeps s t := by
  subst ht
  exact .of_frame rfl rfl rfl fun h =>
    ⟨by simp [hr, h.1], Nat.le_trans hx h.2, by simp [hp, h.3], h.4, h.5, h.6, h.7⟩

/-! ### Commands -/

theorem stopSending_capacities {s : State} (h : s.Capacities) (x : TxEntry) : (s.stopSending x).Capacities :=
  ⟨h.1, by simp [State.stopSending, Within.modFirst_length, h.2], h.3, h.4, h.5, h.6, h.7⟩

theorem countFailure_capacities {s : State} (h : s.Capacities) : s.countFailure.Capacities := by
  have hc : ∀ n, State.Capacities { s with line := { s.line with failCount := n } } := fun n =>
    ⟨h.1, h.2, h.3, h.4, h.5, h.6, h.7⟩
  unfold State.countFailure
  dsimp only
  split
  · exact ((Within.refl _).raise _).cap ⟨h.1, h.2, h.3, h.4, h.5, h.6, h.7⟩
  · exact hc _

@[simp] theorem countFailure_tables (s : State) : s.countFailure.tables = s.tables := by
  unfold State.countFailure
  dsimp only
  split <;> simp

@[simp] theorem countFailure_nv (s : State) : s.countFailure.nv = s.nv := by
  unfold State.countFailure
  dsimp only
  split <;> simp

theorem ascending_removeWithdrawn {s : State} (h : Ascending s.tables.loans) (x : TxEntry) :
    Ascending (s.removeWithdrawn x).tables.loans := by
  unfold State.removeWithdrawn
  split
  · dsimp only
    exact State.ascending_roomEvent (by simp [h]) 5
  · exact h

theorem ascending_bidCompleted {s : State} (h : Ascending s.tables.loans) (o : OrderNo) :
    Ascending (s.bidCompleted o).tables.loans := by
  unfold State.bidCompleted
  (repeat' split) <;> simp [h, State.ascending_win]

theorem ascending_completion {s : State} (h : Ascending s.tables.loans) (p : Payload) :
    Ascending (s.completion p).tables.loans := by
  unfold State.completion
  split <;> simp [h, ascending_bidCompleted]

/-- What a transmission leaves of an event of the line alone, before the entry that was withdrawn is removed. -/
theorem removeWithdrawn_keeps {s a : State} (w : RecordWrite) (x : TxEntry) (cap : s.Capacities → a.Capacities)
    (hn : a.nv = s.nv) (ht : a.tables = s.tables) : Keeps s (finish w (a.removeWithdrawn x)) := by
  have hw := (Within.refl a).removeWithdrawn x
  exact .finish w (fun h => hw.cap (cap h)) (hw.nv.trans hn) fun h => ascending_removeWithdrawn (ht ▸ h) x

theorem ascending_heardHolder {s : State} (h : Ascending s.tables.loans) (o : OrderNo) (x : Station) :
    Ascending (s.heardHolder o x).tables.loans := by
  unfold State.heardHolder
  (repeat' split) <;> simp [h, State.ascending_withdrawBid]

theorem ascending_yieldTo {s : State} (h : Ascending s.tables.loans) (o : OrderNo) (l : LoanNo) (x : Station) :
    Ascending (s.yieldTo o l x).tables.loans := by
  unfold State.yieldTo
  split
  next ht =>
    rw [State.setEntryState_tables]
    exact State.ascending_withdraw_eq h ht
  next ht => exact State.ascending_withdraw_eq h ht

theorem ascending_heardHeld {s : State} (h : Ascending s.tables.loans) (o : OrderNo) (x : Station) :
    Ascending (s.heardHeld o x).tables.loans := by
  unfold State.heardHeld
  (repeat' split) <;> simp [h, ascending_heardHolder, ascending_yieldTo]

theorem ascending_endOrder {s : State} (h : Ascending s.tables.loans) (o : OrderNo) :
    Ascending (s.endOrder o).tables.loans := by
  unfold State.endOrder
  split
  · exact h
  · split
    · split
      next ht =>
        rw [State.dropEntry_tables]
        exact State.ascending_withdraw_eq h ht
      next ht => exact State.ascending_withdraw_eq h ht
    all_goals simp [h, State.ascending_withdrawBid]

theorem ascending_heardRelease {s : State} (h : Ascending s.tables.loans) (o : OrderNo) (c : BitVec 2) (t : Millis) :
    Ascending (s.heardRelease o c t).tables.loans := by
  unfold State.heardRelease State.reopenOrder
  have counted : ∀ e : Entry, Ascending ((s.setCount e.order c).withdrawBid e.order .remove).tables.loans := fun e =>
    State.ascending_withdrawBid (s := s.setCount e.order c) h _ _
  (repeat' split) <;> simp [h, counted]

theorem ascending_heardDate {s : State} (h : Ascending s.tables.loans) (d : Day) :
    Ascending (s.heardDate d).tables.loans := by
  by_cases hd : s.tables.day < d
  · rw [State.heardDate_of_lt hd]
    exact h
  · rwa [State.heardDate_of_le (BitVec.not_lt.mp hd)]

end Sys2Proof.Machine
end

section
/-! PROOFS. Every step keeps the three invariants: one lemma for each family of commands says that its command keeps them. -/

namespace Sys2Proof.Machine

/-! ### Start -/

theorem exec_start_keeps (i : Instr) (s t : State)
    (hi : i = .powerOnReset ∨ i = .reset ∨ (∃ b, i = .configRead b) ∨ (∃ k, i = .recordMemoryOpen k) ∨ i = .recovery)
    (h : exec i s = .next t) : Keeps s t := by
  obtain rfl | rfl | ⟨b, rfl⟩ | ⟨k, rfl⟩ | rfl := hi <;> injection h with h <;> subst h
  · exact afterReset_keeps s
  · exact afterReset_keeps s
  · split
    · exact loadConfig_keeps s b
    · exact .refl s
  · split
    · exact openRecords_keeps s k
    · exact .refl s
  · split
    · exact recovery_keeps s
    · exact .refl s

/-! ### The floor line -/

theorem exec_frameReceived_keeps (wave : List Bool) (s t : State) (h : exec (.frameReceived wave) s = .next t) : Keeps s t := by
  injection h with h
  subst h
  split
  · split
    · exact rxFrame_keeps s _
    · exact line_keeps rfl rfl rfl (Nat.le_refl _)
    · exact .refl s
  · exact .refl s

/-- The commands of the line that start, stop or follow nothing else. -/
theorem exec_line_keeps (i : Instr) (s t : State)
    (hi : (∃ e, i = .receiveError e) ∨ i = .lineIdle ∨ i = .joiningIdle ∨ (∃ u, i = .muteExpiry u) ∨ i = .transmitStart)
    (h : exec i s = .next t) : Keeps s t := by
  obtain ⟨e, rfl⟩ | rfl | rfl | ⟨u, rfl⟩ | rfl := hi <;> injection h with h <;> subst h
  · split
    · exact line_keeps rfl rfl rfl (Nat.le_refl _)
    · exact .refl s
  · split
    iterate 3 exact line_keeps rfl rfl rfl (Nat.le_refl _)
    exact .refl s
  · split
    · exact line_keeps rfl rfl rfl (Nat.le_refl _)
    · exact .refl s
  · split
    · exact line_keeps rfl rfl rfl (Nat.le_refl _)
    · exact .refl s
  · split
    · split
      · exact line_keeps rfl rfl rfl (Nat.le_of_eq (Within.modFirst_length _ _ _))
      · exact .refl s
    · exact .refl s

theorem exec_lostArbitration_keeps (e : SendEnd) (s t : State) (h : exec (.lostArbitration e) s = .next t) : Keeps s t := by
  injection h with h
  subst h
  split
  next x k _ _ =>
    refine removeWithdrawn_keeps _ _ (fun h => ?_) rfl rfl
    obtain ⟨h1, h2, h3, h4, h5, h6, h7⟩ := stopSending_capacities h x
    exact ⟨h1, h2, h3, h4, h5, h6, h7⟩
  · exact .refl s

theorem exec_transmitFailure_keeps (wave : List Bool) (w : RecordWrite) (s t : State)
    (h : exec (.transmitFailure wave w) s = .next t) : Keeps s t := by
  injection h with h
  subst h
  split
  next x _ _ =>
    refine removeWithdrawn_keeps _ _ (fun h => countFailure_capacities ?_) (by simp) (by simp)
    obtain ⟨h1, h2, h3, h4, h5, h6, h7⟩ := stopSending_capacities h x
    exact ⟨h1, h2, h3, h4, h5, h6, h7⟩
  next x _ _ =>
    exact removeWithdrawn_keeps _ _ (fun h => countFailure_capacities (stopSending_capacities h x)) (by simp) (by simp)
  · exact .refl s

theorem completion_keeps {s a : State} (w : RecordWrite) (p : Payload) (cap : s.Capacities → a.Capacities)
    (hn : a.nv = s.nv) (ht : a.tables = s.tables) : Keeps s (finish w ((a.completion p).roomEvent 5)) := by
  have hw := ((Within.refl a).completion p).roomEvent 5
  exact .finish w (fun h => hw.cap (cap h)) (hw.nv.trans hn)
    fun h => State.ascending_roomEvent (ascending_completion (ht ▸ h) p) 5

theorem exec_transmitSuccess_keeps (e : SendEnd) (s t : State) (h : exec (.transmitSuccess e) s = .next t) : Keeps s t := by
  injection h with h
  subst h
  split
  next x _ _ =>
    refine completion_keeps _ _ (fun h => ?_) rfl rfl
    obtain ⟨h1, h2, h3, h4, h5, h6, h7⟩ := ((Within.refl s).dropTx x).cap h
    exact ⟨h1, h2, h3, h4, h5, h6, h7⟩
  · exact .refl s

/-! ### Frames heard, and the Order Book's and the day scan's events -/

theorem bookOrder_keeps (s : State) (e : Entry) : Keeps s (s.popRx.bookOrder e) := by
  have hw := (Within.refl s.popRx).bookOrder e
  exact .of_frame (by simp) hw.nv (by rw [hw.start]; rfl) fun c => hw.cap (Keeps.popRx_cap c)

theorem exec_order_keeps (s t : State) (h : exec .order s = .next t) : Keeps s t := by
  injection h with h
  subst h
  split
  · exact bookOrder_keeps s _
  · exact .refl s

theorem ascending_cancelOrder {s : State} (h : Ascending s.tables.loans) (o : OrderNo) (x : Station) :
    Ascending (s.cancelOrder o x).tables.loans := by
  unfold State.cancelOrder
  split <;> simp [h, ascending_endOrder]

theorem ascending_heardReturned {s : State} (h : Ascending s.tables.loans) (n : LoanNo) (x : Serial) :
    Ascending (s.heardReturned n x).tables.loans := by
  unfold State.heardReturned
  split <;> simp [h, State.ascending_cartReturn]

/-- The commands that take a frame at the head of the receive queue and end their event. -/
theorem exec_heard_keeps (i : Instr) (s t : State) (w : RecordWrite)
    (hi : i = .bidHeard w ∨ i = .heldHeard w ∨ i = .shippedHeard w ∨ i = .releaseHeard w ∨ i = .cancel w ∨ i = .date w ∨
      i = .returnedHeard w) (h : exec i s = .next t) : Keeps s t := by
  have hw := Within.refl s.popRx
  obtain rfl | rfl | rfl | rfl | rfl | rfl | rfl := hi <;> injection h with h <;> subst h
  · split
    · exact .finish_popRx w (hw.heardHolder _ _) fun h => ascending_heardHolder (s := s.popRx) h _ _
    · exact .refl s
  · split
    · exact .finish_popRx w (hw.heardHeld _ _) fun h => ascending_heardHeld (s := s.popRx) h _ _
    · exact .refl s
  · split
    · exact .finish_popRx w (hw.endOrder _) fun h => ascending_endOrder (s := s.popRx) h _
    · exact .refl s
  · split
    · exact .finish_popRx w (hw.heardRelease _ _ _) fun h => ascending_heardRelease (s := s.popRx) h _ _ _
    · exact .refl s
  · split
    · exact .finish_popRx w (hw.cancelOrder _ _) fun h => ascending_cancelOrder (s := s.popRx) h _ _
    · exact .refl s
  · split
    · exact .finish_popRx w (hw.heardDate _) fun h => ascending_heardDate (s := s.popRx) h _
    · exact .refl s
  · split
    · exact .finish_popRx w (hw.heardReturned _ _) fun h => ascending_heardReturned (s := s.popRx) h _ _
    · exact .refl s

@[simp] theorem updated_number (l : Loan) (today : Day) (k : Nat) : (l.updated today k).number = l.number := by
  unfold Loan.updated
  dsimp only
  (repeat' split) <;> rfl

theorem exec_windowExpiry_keeps (o : OrderNo) (w : RecordWrite) (s t : State) (h : exec (.windowExpiry o w) s = .next t) :
    Keeps s t := by
  injection h with h
  subst h
  split
  · split
    · exact .finish_within w ((Within.refl s).expireWindow _) fun h => by simpa using h
    · exact .refl s
  · exact .refl s

theorem exec_dayScanVisit_keeps (w : RecordWrite) (s t : State) (h : exec (.dayScanVisit w) s = .next t) : Keeps s t := by
  injection h with h
  subst h
  split
  · split
    · refine .finish_within w ((Within.refl s).visit _) fun h => ?_
      unfold State.visit
      exact State.ascending_scanOffer (by simpa using h) _ 4
    · exact .finish_within w (Within.refl s).visitEnd fun h => by simpa using h
  · exact .refl s

/-! ### The sockets and the store -/

theorem exec_seat_keeps (i : Instr) (s t : State)
    (hi : (∃ n, i = .cartridgeInsertion n) ∨ (∃ n, i = .identifyLimitExpiry n)) (h : exec i s = .next t) : Keeps s t := by
  have hw := Within.refl s
  obtain ⟨n, rfl⟩ | ⟨n, rfl⟩ := hi <;> injection h with h <;> subst h
  · (repeat' split)
    · exact .refl s
    · exact .of_within ((hw.seat n).startIdentify n) rfl
    · exact .of_within (hw.seat n) rfl
  · (repeat' split)
    · exact .of_within (hw.faultSocket n) (by simp)
    · exact .refl s
    · exact .refl s

theorem ascending_removed {s : State} (h : Ascending s.tables.loans) (n : Idx8) : Ascending (s.removed n).tables.loans := by
  unfold State.removed State.memberRemoved State.checkRemoved
  (repeat' split) <;> simp [h, State.ascending_handOver]

theorem ascending_sendLock {s : State} (h : Ascending s.tables.loans) (n : Idx8) (held failed : Bool) :
    Ascending (s.sendLock n held failed).tables.loans := by
  unfold State.sendLock State.locked
  split
  · exact h
  · split
    · exact State.ascending_opFailed (s := (s.lockSocket n).clearOp n) h n
    · exact h

theorem ascending_answered {s : State} (h : Ascending s.tables.loans) (n : Idx8) (op : Op) (a : StateAnswer) (held : Bool) :
    Ascending (s.answered n op a held).tables.loans := by
  have succeeded : ∀ g, Ascending (s.guardSucceeds n g).tables.loans := fun g =>
    State.ascending_opSucceeded (s := s.modSocket n _) h n
  unfold State.answered
  (repeat' split) <;> simp [h, ascending_sendLock, succeeded]

theorem ascending_holdFails {s : State} (h : Ascending s.tables.loans) (n : Idx8) (op : Op) (held : Bool) :
    Ascending (s.holdFails n op held).tables.loans := by
  unfold State.holdFails
  split
  · exact ascending_sendLock h _ _ _
  · exact State.ascending_opFailed (s := s.clearOp n) h n

/-- The commands of a socket link that end their event. -/
theorem exec_socket_keeps (i : Instr) (n : Idx8) (s t : State)
    (hi : (∃ w, i = .cartridgeRemoval n w) ∨ (∃ b w, i = .readCompletion n b w) ∨ (∃ a e, i = .stateCompletion n a e) ∨
      (∃ e, i = .pollLimitExpiry n e) ∨ (∃ e, i = .holdTimeout n e)) (h : exec i s = .next t) : Keeps s t := by
  have hw := Within.refl s
  obtain ⟨w, rfl⟩ | ⟨b, w, rfl⟩ | ⟨a, e, rfl⟩ | ⟨e, rfl⟩ | ⟨e, rfl⟩ := hi <;> injection h with h <;> subst h
  · split
    · exact .finish_within w (hw.removed n) fun h => ascending_removed h n
    · exact .refl s
  · split
    · split
      · exact .finish_within w ((hw.clearOp n).readEnded n b) fun h => State.ascending_readEnded (s := s.clearOp n) h n b
      · exact .refl s
    · exact .refl s
  · split
    · split
      next op _ _ _ =>
        exact .finish_within e.write ((hw.modSocket n _).answered n op a e.lockHeld)
          fun h => ascending_answered (s := s.modSocket n _) h n op a _
      · exact .refl s
    · exact .refl s
  · split
    · split
      · exact .finish_within e.write (hw.sendLock n _ _) fun h => ascending_sendLock h n _ _
      · exact .refl s
    · exact .refl s
  · split
    · split
      · exact .finish_within e.write (hw.holdFails n _ _) fun h => ascending_holdFails h n _ _
      · exact .refl s
    · exact .refl s

theorem exec_readyLineHold_keeps (n : Idx8) (l : ReadyLine) (s t : State) (h : exec (.readyLineHold n l) s = .next t) :
    Keeps s t := by
  have hw := Within.refl s
  injection h with h
  subst h
  split
  · exact .of_within (hw.holdStarts n _) (by simp)
  · unfold State.holdEnds
    split
    · exact .finish_within _ (hw.sendLock n _ _) fun h => ascending_sendLock h n _ _
    · exact .of_within (hw.modSocket n _) rfl
    · exact .refl s

theorem ascending_titleVoidFailures {s : State} (h : Ascending s.tables.loans) (ls : List LoanNo) :
    Ascending (s.titleVoidFailures ls).tables.loans :=
  State.ascending_foldl (fun _ _ ht => State.ascending_titleVoidFailure ht _) _ h

theorem ascending_voidJobs {s : State} (h : Ascending s.tables.loans) (w : Work) : Ascending (s.voidJobs w).tables.loans := by
  unfold State.voidJobs
  refine ascending_titleVoidFailures ?_ _
  exact h

theorem ascending_voidTitle {s : State} (h : Ascending s.tables.loans) (w : Work) (k : Nat) :
    Ascending (s.voidTitle w k).tables.loans := by
  unfold State.voidTitle
  have entry : Ascending (s.voidEntry w k).tables.loans := by
    unfold State.voidEntry
    split
    · split
      · exact State.ascending_titleVoid (s := s.modDir w _) h w
      · exact h
    · exact h
  refine ascending_voidJobs (ascending_titleVoidFailures ?_ _) w
  simpa using entry

theorem exec_store_keeps (i : Instr) (s t : State)
    (hi : (∃ b g w, i = .storeBlockReadEnd b g w) ∨ (∃ x w, i = .storeBlockWriteEnd x w)) (h : exec i s = .next t) :
    Keeps s t := by
  have hw := (Within.refl s).storeFree
  obtain ⟨block, good, w, rfl⟩ | ⟨x, w, rfl⟩ := hi <;> injection h with h <;> subst h
  · split
    next b work start _ _ =>
      cases good
      · exact .finish_within w ((hw.voidTitle work start).drainBuffer b).grant
          fun h => by simpa using ascending_voidTitle (s := s.storeFree) h work start
      · exact .finish_within w ((hw.blockLoaded b block).drainBuffer b).grant fun h => by simpa using h
    · exact .refl s
  · split
    next b _ _ => exact .finish_within w ((hw.blockWritten b x).drainBuffer b).grant fun h => by simpa using h
    · exact .refl s

/-! ### The bench -/

theorem emptyBuffer_capacities {s : State} (h : s.Capacities) : s.emptyBuffer.Capacities :=
  ⟨h.1, h.2, h.3, h.4, h.5, h.6, Nat.zero_le _⟩

/-- A command line refused for its word. -/
theorem refuse_emptyBuffer_keeps (s : State) (why : RefuseReason) (word : String) : Keeps s (s.emptyBuffer.refuse why word) :=
  .of_frame (by simp) (by simp) (by simp) fun h => ((Within.refl _).refuse why word).cap (emptyBuffer_capacities h)

/-- The tests of a command line's word keep what the owner keeps. -/
theorem tested_keeps (s : State) (word : String) (f : State → State)
    (hf : Keeps s (f s.emptyBuffer)) : Keeps s (s.tested word f) := by
  unfold State.tested
  split
  · exact refuse_emptyBuffer_keeps s _ _
  · split
    · exact refuse_emptyBuffer_keeps s _ _
    · exact hf

theorem owned_keeps (s : State) (word : String) (w : RecordWrite) (f : State → State)
    (hw : Within s.emptyBuffer (f s.emptyBuffer))
    (asc : Ascending s.tables.loans → Ascending (f s.emptyBuffer).tables.loans) :
    Keeps s (s.tested word (·.owned w f)) :=
  tested_keeps s _ _ (.finish w (fun h => hw.cap (emptyBuffer_capacities h)) hw.nv asc)

theorem shown_keeps (s : State) (word : String) (f : State → State) (hw : Within s.emptyBuffer (f s.emptyBuffer))
    (ht : (f s.emptyBuffer).tables = s.tables) : Keeps s (s.tested word f) :=
  tested_keeps s _ _ (.of_frame ht hw.nv (by rw [hw.start]; rfl) fun h => hw.cap (emptyBuffer_capacities h))

section Owners

variable {s : State} (h : Ascending s.tables.loans)
include h

theorem ascending_pack (l : BenchLoan) (c : Nat) : Ascending (s.pack l c).tables.loans := by
  have ready : ∀ x c, Ascending (s.packReady x c).tables.loans := by
    intro x c
    have full : Ascending (s.closeFull (s.groupOf x) x.mailUnits).tables.loans := by simpa using h
    unfold State.packReady
    dsimp only
    split
    · exact State.ascending_joinTray full _ _ _
    · split
      next ht => exact State.ascending_joinTray (State.openTray_loans ht ▸ full) _ _ _
      · simpa [State.refuse] using h
  unfold State.pack
  (repeat' split) <;> simp [h, ready]

theorem ascending_pick (l : BenchLoan) : Ascending (s.pick l).tables.loans := by
  unfold State.pick
  (repeat' split) <;> simp [h]

theorem ascending_back (l : BenchLoan) : Ascending (s.back l).tables.loans := by
  have returned : ∀ l w, Ascending (s.brailleReturn l w).tables.loans := by
    intro l w
    unfold State.brailleReturn
    refine State.ascending_closeTest ?_ _
    simpa using h
  unfold State.back
  (repeat' split) <;> simp [h, returned]

theorem ascending_nocart (l : BenchLoan) : Ascending (s.nocart l).tables.loans := by
  unfold State.nocart
  (repeat' split) <;> simp [h, State.ascending_fallback]

theorem ascending_noset (l : BenchLoan) : Ascending (s.noset l).tables.loans := by
  have lost : ∀ w n, Ascending ((s.loseSet w).release n .stockMissing ⟨false, true⟩).tables.loans := fun w n =>
    State.ascending_release (s := s.loseSet w) h _ _ _
  unfold State.noset
  (repeat' split) <;> simp [h, lost]

theorem ascending_shelve (x k : Nat) : Ascending (s.shelve x k).tables.loans := by
  unfold State.shelve
  (repeat' split) <;> simp [h]

theorem ascending_drop (t e : Nat) : Ascending (s.drop t e).tables.loans := by
  have void : ∀ w, Ascending ((s.dropDir w).titleVoid w).tables.loans := fun w =>
    State.ascending_titleVoid (s := s.dropDir w) h w
  unfold State.drop
  (repeat' split) <;> simp [h, void]

theorem ascending_installSet (t e v k : Nat) : Ascending (s.installSet t e v k).tables.loans := by
  unfold State.installSet
  dsimp only
  (repeat' split) <;> simp [h]

theorem ascending_dispatch : Ascending s.dispatch.tables.loans := by
  unfold State.dispatch
  split
  · simpa using h
  · split
    · simpa using h
    · have taken : ∀ ps : List (Fin 16 × Tray), Ascending (ps.foldl State.takeTray s).tables.loans := fun ps =>
        State.ascending_foldl (fun _ _ ht => by simpa using ht) ps h
      dsimp only
      split
      · exact State.ascending_trayOffer (taken _) 17
      · exact taken _

end Owners

/-- What the owner of a bench command does keeps the three invariants. -/
theorem runCommand_keeps (s : State) (w : RecordWrite) (c : BenchCommand) : Keeps s (s.runCommand w c) := by
  have hw := Within.refl s.emptyBuffer
  cases c with
  | pack l k => exact owned_keeps s _ w (·.pack l k) (hw.pack l k) fun h => ascending_pack (s := s.emptyBuffer) h l k
  | pick l => exact owned_keeps s _ w (·.pick l) (hw.pick l) fun h => ascending_pick (s := s.emptyBuffer) h l
  | back l => exact owned_keeps s _ w (·.back l) (hw.back l) fun h => ascending_back (s := s.emptyBuffer) h l
  | shelve x k =>
    exact owned_keeps s _ w (·.shelve x k) (hw.shelve x k) fun h => ascending_shelve (s := s.emptyBuffer) h x k
  | nocart l => exact owned_keeps s _ w (·.nocart l) (hw.nocart l) fun h => ascending_nocart (s := s.emptyBuffer) h l
  | noset l => exact owned_keeps s _ w (·.noset l) (hw.noset l) fun h => ascending_noset (s := s.emptyBuffer) h l
  | dispatch => exact owned_keeps s _ w (·.dispatch) hw.dispatch fun h => ascending_dispatch (s := s.emptyBuffer) h
  | drop t e => exact owned_keeps s _ w (·.drop t e) (hw.drop t e) fun h => ascending_drop (s := s.emptyBuffer) h t e
  | set t e v k =>
    exact owned_keeps s _ w (·.installSet t e v k) (hw.installSet t e v k) fun h =>
      ascending_installSet (s := s.emptyBuffer) h t e v k
  | showSockets => exact shown_keeps s _ (·.showSockets) hw.showSockets (by simp)
  | showTrays => exact shown_keeps s _ (·.showTrays) hw.showTrays (by simp)
  | showLoan l => exact shown_keeps s _ (·.showLoan l) (hw.showLoan l) (by simp)
  | reset => exact afterReset_keeps s

/-- The command lines of the bench as commands of their own are what their owners do. -/
theorem exec_bench_keeps (i : Instr) (s t : State)
    (hi : (∃ l k w, i = .pack l k w) ∨ (∃ l w, i = .pick l w) ∨ (∃ l w, i = .back l w) ∨ (∃ x k w, i = .shelve x k w) ∨
      (∃ l w, i = .nocart l w) ∨ (∃ l w, i = .noset l w) ∨ (∃ w, i = .dispatch w) ∨ (∃ a b w, i = .drop a b w) ∨
      (∃ a b v k w, i = .set a b v k w) ∨ i = .showSockets ∨ i = .showTrays ∨ (∃ l, i = .showLoan l))
    (h : exec i s = .next t) : Keeps s t := by
  obtain ⟨l, k, w, rfl⟩ | ⟨l, w, rfl⟩ | ⟨l, w, rfl⟩ | ⟨x, k, w, rfl⟩ | ⟨l, w, rfl⟩ | ⟨l, w, rfl⟩ | ⟨w, rfl⟩ |
    ⟨a, b, w, rfl⟩ | ⟨a, b, v, k, w, rfl⟩ | rfl | rfl | ⟨l, rfl⟩ := hi <;> injection h with h <;> subst h
  · exact runCommand_keeps s w (.pack l k)
  · exact runCommand_keeps s w (.pick l)
  · exact runCommand_keeps s w (.back l)
  · exact runCommand_keeps s w (.shelve x k)
  · exact runCommand_keeps s w (.nocart l)
  · exact runCommand_keeps s w (.noset l)
  · exact runCommand_keeps s w .dispatch
  · exact runCommand_keeps s w (.drop a b)
  · exact runCommand_keeps s w (.set a b v k)
  · exact runCommand_keeps s .completed .showSockets
  · exact runCommand_keeps s .completed .showTrays
  · exact runCommand_keeps s .completed (.showLoan l)

theorem emptyBuffer_keeps (s : State) : Keeps s s.emptyBuffer := .of_frame rfl rfl rfl emptyBuffer_capacities

theorem Keeps.trans {s t u : State} (h : Keeps s t) (k : Keeps t u) : Keeps s u :=
  ⟨fun x => k.records (h.records x), fun x => k.cap (h.cap x), fun x => k.loans (h.loans x)⟩

theorem keepCharacter_keeps (s : State) (b : Byte) : Keeps s (s.keepCharacter b) := by
  unfold State.keepCharacter
  split
  next hl => exact .of_frame rfl rfl rfl fun h => ⟨h.1, h.2, h.3, h.4, h.5, h.6, by simp; omega⟩
  · exact .of_frame rfl rfl rfl fun h => ⟨h.1, h.2, h.3, h.4, h.5, h.6, h.7⟩

theorem markBad_keeps (s : State) : Keeps s s.markBad :=
  .of_frame rfl rfl rfl fun h => ⟨h.1, h.2, h.3, h.4, h.5, h.6, h.7⟩

theorem exec_character_keeps (code : Byte) (framing : Bool) (w : RecordWrite) (s t : State)
    (h : exec (.benchCharacterReceived code framing w) s = .next t) : Keeps s t := by
  injection h with h
  subst h
  split
  · exact markBad_keeps s
  · split
    · unfold State.endLine
      split
      · exact refuse_emptyBuffer_keeps s _ _
      · exact emptyBuffer_keeps s
      · exact (emptyBuffer_keeps s).trans (runCommand_keeps _ w _)
    · (repeat' split)
      · exact .refl s
      · exact keepCharacter_keeps s code
      · exact markBad_keeps s

theorem exec_notice_keeps (i : Instr) (s t : State) (hi : i = .noticeSend ∨ i = .benchLineRefused)
    (h : exec i s = .next t) : Keeps s t := by
  obtain rfl | rfl := hi <;> injection h with h <;> subst h
  · split
    · exact .refl s
    next x xs hn =>
      refine .of_frame rfl rfl rfl fun h => ⟨h.1, h.2, h.3, h.4, h.5, ?_, h.7⟩
      have := h.6
      rw [hn, List.length_cons] at this
      exact Nat.le_of_succ_le this
  · split
    · exact refuse_emptyBuffer_keeps s _ _
    · exact .refl s

theorem exec_trayAgeExpiry_keeps (r : Fin 16) (w : RecordWrite) (s t : State) (h : exec (.trayAgeExpiry r w) s = .next t) :
    Keeps s t := by
  have hw := Within.refl s
  injection h with h
  subst h
  split
  next x _ =>
    split
    · refine .finish_within w ?_ ?_
      · split
        · exact hw.setTray r none
        · exact hw.closeTray r x
      · intro h
        split <;> simpa using h
    · exact .refl s
  · exact .refl s

/-! ### The step -/

/-- Every command keeps the three invariants. -/
theorem exec_keeps (i : Instr) (s t : State) (h : exec i s = .next t) : Keeps s t := by
  cases i with
  | powerOnReset => exact exec_start_keeps _ s t (by simp) h
  | reset => exact exec_start_keeps _ s t (by simp) h
  | configRead bytes => exact exec_start_keeps _ s t (by simp) h
  | recordMemoryOpen size => exact exec_start_keeps _ s t (by simp) h
  | recovery => exact exec_start_keeps _ s t (by simp) h
  | frameReceived wave => exact exec_frameReceived_keeps wave s t h
  | receiveError e => exact exec_line_keeps _ s t (by simp) h
  | order => exact exec_order_keeps s t h
  | bidHeard w => exact exec_heard_keeps _ s t w (by simp) h
  | heldHeard w => exact exec_heard_keeps _ s t w (by simp) h
  | shippedHeard w => exact exec_heard_keeps _ s t w (by simp) h
  | releaseHeard w => exact exec_heard_keeps _ s t w (by simp) h
  | cancel w => exact exec_heard_keeps _ s t w (by simp) h
  | date w => exact exec_heard_keeps _ s t w (by simp) h
  | returnedHeard w => exact exec_heard_keeps _ s t w (by simp) h
  | transmitStart => exact exec_line_keeps _ s t (by simp) h
  | lostArbitration e => exact exec_lostArbitration_keeps e s t h
  | transmitFailure wave w => exact exec_transmitFailure_keeps wave w s t h
  | transmitSuccess e => exact exec_transmitSuccess_keeps e s t h
  | joiningIdle => exact exec_line_keeps _ s t (by simp) h
  | muteExpiry u => exact exec_line_keeps _ s t (by simp) h
  | windowExpiry o w => exact exec_windowExpiry_keeps o w s t h
  | dayScanVisit w => exact exec_dayScanVisit_keeps w s t h
  | cartridgeInsertion n => exact exec_seat_keeps _ s t (by simp) h
  | identifyLimitExpiry n => exact exec_seat_keeps _ s t (by simp) h
  | cartridgeRemoval n w => exact exec_socket_keeps _ n s t (by simp) h
  | readCompletion n b w => exact exec_socket_keeps _ n s t (by simp) h
  | stateCompletion n a e => exact exec_socket_keeps _ n s t (by simp) h
  | pollLimitExpiry n e => exact exec_socket_keeps _ n s t (by simp) h
  | holdTimeout n e => exact exec_socket_keeps _ n s t (by simp) h
  | storeBlockReadEnd b g w => exact exec_store_keeps _ s t (by simp) h
  | storeBlockWriteEnd x w => exact exec_store_keeps _ s t (by simp) h
  | trayAgeExpiry r w => exact exec_trayAgeExpiry_keeps r w s t h
  | noticeSend => exact exec_notice_keeps _ s t (by simp) h
  | benchLineRefused => exact exec_notice_keeps _ s t (by simp) h
  | pack l k w => exact exec_bench_keeps _ s t (by simp) h
  | pick l w => exact exec_bench_keeps _ s t (by simp) h
  | back l w => exact exec_bench_keeps _ s t (by simp) h
  | shelve x k w => exact exec_bench_keeps _ s t (by simp) h
  | nocart l w => exact exec_bench_keeps _ s t (by simp) h
  | noset l w => exact exec_bench_keeps _ s t (by simp) h
  | dispatch w => exact exec_bench_keeps _ s t (by simp) h
  | drop a b w => exact exec_bench_keeps _ s t (by simp) h
  | set a b v k w => exact exec_bench_keeps _ s t (by simp) h
  | showSockets => exact exec_bench_keeps _ s t (by simp) h
  | showTrays => exact exec_bench_keeps _ s t (by simp) h
  | showLoan l => exact exec_bench_keeps _ s t (by simp) h
  | lineIdle => exact exec_line_keeps _ s t (by simp) h
  | benchCharacterReceived c f w => exact exec_character_keeps c f w s t h
  | readyLineHold n l => exact exec_readyLineHold_keeps n l s t h

theorem tick_keeps (s : State) : Keeps s s.tick := by
  have cap : ∀ x, s.Capacities → State.Capacities { s with time := x } := fun x h => ⟨h.1, h.2, h.3, h.4, h.5, h.6, h.7⟩
  unfold State.tick
  (repeat' split) <;> exact .of_frame rfl rfl rfl (cap _)

theorem step_keeps (s t : State) (h : step s = .next t) : Keeps s t := by
  unfold step at h
  split at h
  · injection h with h
    exact h ▸ tick_keeps s
  next c rest _ =>
    have popped : Keeps s { s with pending := rest } :=
      .of_frame rfl rfl rfl fun h => ⟨h.1, h.2, h.3, h.4, h.5, h.6, h.7⟩
    exact popped.trans (exec_keeps c _ t h)

/-- Settles O4. -/
theorem stepKeepsRecordMemory : Obligations.StepKeepsRecordMemory :=
  fun s t hs h => (step_keeps s t h).records hs

/-- Settles O5. -/
theorem stepKeepsCapacities : Obligations.StepKeepsCapacities :=
  fun s t hs h => (step_keeps s t h).cap hs

/-- Settles O6. -/
theorem stepKeepsLoansAscending : Obligations.StepKeepsLoansAscending :=
  fun s t hs h => (step_keeps s t h).loans hs

end Sys2Proof.Machine
end

section
/-! PROOFS. The step, the millisecond count, the reset state, the record memory write and the resets. -/

namespace Sys2Proof.Machine

/-- Settles O1. -/
theorem stepRunsFrontCommand : Obligations.StepRunsFrontCommand := by
  intro s c rest h
  rw [step, h]

/-- A millisecond event of a running station (R174). -/
theorem State.tick_running {s : State} (h : s.start.phase = .running) (hsub : s.time.sub < 1000) :
    s.tick =
      { s with
        time :=
          ⟨s.time.ms + 1, s.time.sec + BitVec.ofNat 32 ((s.time.sub + 1) / 1000), (s.time.sub + 1) % 1000⟩ } := by
  rw [State.tick, if_pos h]
  split
  next lt => simp [Nat.div_eq_of_lt lt, Nat.mod_eq_of_lt lt]
  next ge =>
    have last : s.time.sub = 999 := by omega
    simp [last]

/-- `n` millisecond events of a running station. -/
theorem State.tick_iterate (n : Nat) (s : State) (h : s.start.phase = .running) (hsub : s.time.sub < 1000) :
    State.tick^[n] s =
      { s with
        time :=
          ⟨s.time.ms + BitVec.ofNat 32 n, s.time.sec + BitVec.ofNat 32 ((s.time.sub + n) / 1000),
            (s.time.sub + n) % 1000⟩ } := by
  induction n generalizing s with
  | zero => simp [Nat.div_eq_of_lt hsub, Nat.mod_eq_of_lt hsub]
  | succ n ih =>
    rw [Function.iterate_succ_apply, State.tick_running h hsub]
    refine (ih _ ?_ ?_).trans ?_
    · exact h
    · exact Nat.mod_lt _ (by decide)
    have hsec : (s.time.sub + 1) / 1000 + ((s.time.sub + 1) % 1000 + n) / 1000 = (s.time.sub + (n + 1)) / 1000 := by
      omega
    have hrest : ((s.time.sub + 1) % 1000 + n) % 1000 = (s.time.sub + (n + 1)) % 1000 := by omega
    have hms : s.time.ms + (1 + BitVec.ofNat 32 n) = s.time.ms + BitVec.ofNat 32 (n + 1) := by
      rw [Nat.add_comm n, BitVec.ofNat_add]
      rfl
    simp only [BitVec.add_assoc, ← BitVec.ofNat_add, hsec, hrest, hms]

/-- Settles O2: the seconds are the thousands of the millisecond events, by induction on their number. -/
theorem idleStepsCountTime : Obligations.IdleStepsCountTime := by
  refine ⟨fun s hp hr => ?_, fun s hp => ?_, State.tick_iterate⟩
  · rw [step, hp]
    simp [State.tick, hr, hp]
  · rw [step, hp]

/-- Settles O3. -/
theorem resetStateIsSafe : Obligations.ResetStateIsSafe :=
  ⟨fun h => absurd h Bool.false_ne_true, by constructor <;> decide, firstStart_ascending, firstStart_ascending⟩

/-- Settles O8: the rows of `commit_cases`. -/
theorem recordMemoryWriteOutcomes : Obligations.RecordMemoryWriteOutcomes := by
  intro s
  refine ⟨fun hw w => ?_, fun hw => ?_, fun hw hn => ?_, fun hw hn => ?_⟩
  · simp [commit, hw]
  · simp [commit, hw]
  · simp [commit, hw, hn]
  · simp only [commit, hw, Bool.true_eq_false, if_false, hn, State.raise]
    split <;> rfl

/-- Settles O9: both commands are `State.afterReset`. -/
theorem resetsClearVolatileState : Obligations.ResetsClearVolatileState := by
  intro c s hc
  refine ⟨s.afterReset, by obtain rfl | rfl := hc <;> rfl, rfl, rfl, rfl, rfl, rfl, rfl, rfl, rfl, rfl, fun n => ?_, rfl, rfl,
    rfl, rfl, rfl, fun b => ?_, rfl, rfl, rfl, rfl, rfl, rfl⟩
  · simp [State.afterReset, State.socket, Socket.reset]
  · simp [State.afterReset, State.buffer, State.reset, CopyEngine.reset]

end Sys2Proof.Machine
end

section
/-! PROOFS. Numbers as bits and bytes (11, opening; R3): the number of a run of bytes or bits determines it, and the bytes of
a number give it back. -/

namespace Sys2Proof.Machine

/-! ### Bytes -/

@[simp] theorem numOfBytes_nil : numOfBytes [] = 0 := rfl

theorem numOfBytes_concat (bs : List Byte) (b : Byte) : numOfBytes (bs ++ [b]) = 256 * numOfBytes bs + b.toNat := by
  simp [numOfBytes]

theorem numOfBytes_lt (bs : List Byte) : numOfBytes bs < 256 ^ bs.length := by
  induction bs using List.reverseRecOn with
  | nil => simp
  | append_singleton bs b ih =>
    rw [numOfBytes_concat, List.length_append, List.length_singleton, Nat.pow_succ]
    have := b.isLt
    omega

@[simp] theorem numOfBytes_singleton (b : Byte) : numOfBytes [b] = b.toNat := by simp [numOfBytes]

@[simp] theorem length_bytesOf (n x : Nat) : (bytesOf n x).length = n := by simp [bytesOf]

theorem bytesOf_succ (n x : Nat) : bytesOf (n + 1) x = bytesOf n (x / 256) ++ [BitVec.ofNat 8 x] := by
  rw [bytesOf, List.range_succ, List.map_append, bytesOf]
  congr 1
  · refine List.map_congr_left fun i hi => ?_
    have hi := List.mem_range.mp hi
    rw [Nat.div_div_eq_div_mul, ← Nat.pow_succ']
    congr 3
    omega
  · simp

/-- The bytes of a number give it back, as far as they hold it. -/
theorem numOfBytes_bytesOf (n x : Nat) : numOfBytes (bytesOf n x) = x % 256 ^ n := by
  induction n generalizing x with
  | zero => simp [bytesOf, Nat.mod_one]
  | succ n ih =>
    rw [bytesOf_succ, numOfBytes_concat, ih, Nat.pow_succ' (n := n), Nat.mod_mul, BitVec.toNat_ofNat]
    omega

theorem numOfBytes_bytesOf_of_lt {n x : Nat} (h : x < 256 ^ n) : numOfBytes (bytesOf n x) = x := by
  rw [numOfBytes_bytesOf, Nat.mod_eq_of_lt h]

/-- A run of bytes is that of its number. -/
theorem bytesOf_numOfBytes {n : Nat} {bs : List Byte} (h : bs.length = n) : bytesOf n (numOfBytes bs) = bs := by
  subst h
  induction bs using List.reverseRecOn with
  | nil => rfl
  | append_singleton bs b ih =>
    have := b.isLt
    have hdiv : (256 * numOfBytes bs + b.toNat) / 256 = numOfBytes bs := by omega
    rw [List.length_append, List.length_singleton, bytesOf_succ, numOfBytes_concat, hdiv, ih]
    congr 2
    apply BitVec.eq_of_toNat_eq
    rw [BitVec.toNat_ofNat]
    omega

theorem slice_zero (bs : List Byte) (a : Nat) : slice bs a 0 = [] := List.take_zero

theorem slice_succ {bs : List Byte} {a n : Nat} (h : a + n < bs.length) :
    slice bs a (n + 1) = slice bs a n ++ [bs.getD (a + n) 0] := by
  have hn : n < (bs.drop a).length := by rw [List.length_drop]; omega
  rw [slice, slice, List.take_add_one, List.getElem?_eq_getElem hn, List.getElem_drop, List.getD_eq_getElem _ _ h]
  rfl

@[simp] theorem numAt_zero (bs : List Byte) (a : Nat) : numAt bs a 0 = 0 := by rw [numAt, slice_zero, numOfBytes_nil]

/-- The number in `n + 1` bytes of a record. -/
theorem numAt_succ {bs : List Byte} {a n : Nat} (h : a + n < bs.length) :
    numAt bs a (n + 1) = 256 * numAt bs a n + (bs.getD (a + n) 0).toNat := by
  rw [numAt, slice_succ h, numOfBytes_concat, numAt]

theorem numAt_one {bs : List Byte} {a : Nat} (h : a < bs.length) : numAt bs a 1 = (bs.getD a 0).toNat := by
  rw [numAt_succ h, numAt_zero, Nat.mul_zero, Nat.zero_add]
  rfl

theorem numAt_two {bs : List Byte} {a : Nat} (h : a + 1 < bs.length) :
    numAt bs a 2 = 256 * (bs.getD a 0).toNat + (bs.getD (a + 1) 0).toNat := by
  rw [numAt_succ h, numAt_one (by omega)]

theorem numAt_three {bs : List Byte} {a : Nat} (h : a + 2 < bs.length) :
    numAt bs a 3 = 65536 * (bs.getD a 0).toNat + (256 * (bs.getD (a + 1) 0).toNat + (bs.getD (a + 2) 0).toNat) := by
  rw [numAt_succ h, numAt_two (by omega)]
  omega

theorem numAt_four {bs : List Byte} {a : Nat} (h : a + 3 < bs.length) :
    numAt bs a 4 = 65536 * (256 * (bs.getD a 0).toNat + (bs.getD (a + 1) 0).toNat) +
      (256 * (bs.getD (a + 2) 0).toNat + (bs.getD (a + 3) 0).toNat) := by
  rw [numAt_succ h, numAt_three (by omega)]
  omega

/-! ### Bits -/

theorem numOfBits_concat (bs : List Bool) (b : Bool) : numOfBits (bs ++ [b]) = 2 * numOfBits bs + b.toNat := by
  simp [numOfBits]

theorem numOfBits_lt (bs : List Bool) : numOfBits bs < 2 ^ bs.length := by
  induction bs using List.reverseRecOn with
  | nil => simp [numOfBits]
  | append_singleton bs b ih =>
    rw [numOfBits_concat, List.length_append, List.length_singleton, Nat.pow_succ]
    have := b.toNat_lt
    omega

@[simp] theorem length_bitsOf {w : Nat} (x : BitVec w) : (bitsOf x).length = w := by simp [bitsOf]

theorem numOfBits_append (as bs : List Bool) : numOfBits (as ++ bs) = numOfBits as * 2 ^ bs.length + numOfBits bs := by
  induction bs using List.reverseRecOn with
  | nil => simp [numOfBits]
  | append_singleton bs b ih =>
    rw [← List.append_assoc, numOfBits_concat, numOfBits_concat, ih, List.length_append, List.length_singleton, Nat.pow_succ]
    ring

/-- The first `k` bits of a field are those of the number shifted. -/
theorem numOfBits_map_getMsbD {w : Nat} (x : BitVec w) (k : Nat) (hk : k ≤ w) :
    numOfBits ((List.range k).map x.getMsbD) = x.toNat / 2 ^ (w - k) := by
  induction k with
  | zero =>
    have := x.isLt
    rw [Nat.sub_zero, Nat.div_eq_of_lt this]
    rfl
  | succ k ih =>
    rw [List.range_succ, List.map_append, List.map_singleton, numOfBits_concat, ih (by omega)]
    have hs : w - k = (w - (k + 1)) + 1 := by omega
    have hbit : (x.getMsbD k).toNat = x.toNat / 2 ^ (w - (k + 1)) % 2 := by
      rw [BitVec.getMsbD_eq_getLsbD, decide_eq_true (by omega : k < w), Bool.true_and, BitVec.getLsbD,
        show w - 1 - k = w - (k + 1) by omega, Nat.testBit, Nat.shiftRight_eq_div_pow, Nat.one_and_eq_mod_two]
      rcases Nat.mod_two_eq_zero_or_one (x.toNat / 2 ^ (w - (k + 1))) with h | h <;> simp [h]
    rw [hbit, hs, Nat.pow_succ, ← Nat.div_div_eq_div_mul]
    omega

/-- The number of a field's bits is the field. -/
@[simp] theorem numOfBits_bitsOf {w : Nat} (x : BitVec w) : numOfBits (bitsOf x) = x.toNat := by
  rw [bitsOf, numOfBits_map_getMsbD x w (Nat.le_refl _), Nat.sub_self, Nat.pow_zero, Nat.div_one]

end Sys2Proof.Machine
end

section
/-! PROOFS. The configuration image (R175, R176, R186), the header of record memory (R187) and the opening of record memory
(R178). -/

namespace Sys2Proof.Machine

/-! ### The configuration read (R175, R176) -/

theorem exec_configRead {s : State} (bytes : List Byte) (h : s.start.phase = .config) :
    exec (.configRead bytes) s = .next (s.loadConfig bytes) := by
  change execConfigRead bytes s = _
  rw [execConfigRead, if_pos h]

theorem loadConfig_cfg (s : State) (bytes : List Byte) :
    (s.loadConfig bytes).cfg = if bytes.length = 256 then imageCfg bytes else Cfg.noImage := by
  unfold State.loadConfig
  dsimp only
  split <;> simp

theorem loadConfig_timing (s : State) (bytes : List Byte) :
    (s.loadConfig bytes).line.timing = some (s.loadConfig bytes).cfg.timing := by
  unfold State.loadConfig
  dsimp only
  split <;> simp

theorem loadConfig_start (s : State) (bytes : List Byte) :
    (s.loadConfig bytes).start =
      { s.start with
        phase := .records, invalid := imageCause bytes
        configured := if (imageCause bytes).isNone then some (BitVec.ofNat 6 (numAt bytes 4 1)) else none } := by
  unfold State.loadConfig
  dsimp only
  split <;> simp

theorem loadConfig_notices (s : State) (bytes : List Byte) (h : s.bench.notices.length < 64) :
    (s.loadConfig bytes).bench.notices = s.bench.notices ++ ((imageCause bytes).map Notice.configInvalid).toList := by
  unfold State.loadConfig
  dsimp only
  split
  next c hc => simp [State.raise, h, hc]
  next hc => simp [hc]

/-! ### The values of an image (R186) -/

section Image

variable {b : List Byte} (h : b.length = 256)
include h

/-- One byte of an image. -/
theorem image_byte {a : Nat} (ha : a < 256) : numAt b a 1 = (b.getD a 0).toNat := numAt_one (by omega)

theorem image_half {a : Nat} (ha : a + 1 < 256) : numAt b a 2 = 256 * (b.getD a 0).toNat + (b.getD (a + 1) 0).toNat :=
  numAt_two (by omega)

theorem imageFilter_values (f : Idx8) :
    let byte (i : Nat) : Nat := (b.getD i 0).toNat
    let half (i : Nat) : Nat := 256 * byte i + byte (i + 1)
    let k := 33 + 10 * f.val
    (imageFilter b f).enabled = decide (byte k ≠ 0) ∧
      (imageFilter b f).value.toNat = (65536 * byte (k + 1) + half (k + 2)) % 1048576 ∧
      (imageFilter b f).mask.toNat = (65536 * byte (k + 4) + half (k + 5)) % 1048576 ∧
      (imageFilter b f).cartridge = (byte (k + 7)).testBit 0 ∧ (imageFilter b f).braille = (byte (k + 7)).testBit 1 ∧
      (imageFilter b f).both = (byte (k + 7)).testBit 2 ∧ (imageFilter b f).penalty = min 1023 (half (k + 8)) := by
  have hf := f.isLt
  have h34 : 33 + 10 * f.val + 1 = 34 + 10 * f.val := by omega
  have h37 : 33 + 10 * f.val + 4 = 37 + 10 * f.val := by omega
  have h40 : 33 + 10 * f.val + 7 = 40 + 10 * f.val := by omega
  have h41 : 33 + 10 * f.val + 8 = 41 + 10 * f.val := by omega
  dsimp only
  refine ⟨?_, ?_, ?_, ?_, ?_, ?_, ?_⟩
  · rw [imageFilter, image_byte h (by omega)]
    rw [decide_not]
    rfl
  · simp only [imageFilter, BitVec.toNat_ofNat, ← h34, numAt_three (bs := b) (a := 33 + 10 * f.val + 1) (by omega)]
  · simp only [imageFilter, BitVec.toNat_ofNat, ← h37, numAt_three (bs := b) (a := 33 + 10 * f.val + 4) (by omega)]
  · rw [imageFilter, h40]; rfl
  · rw [imageFilter, h40]; rfl
  · rw [imageFilter, h40]; rfl
  · rw [imageFilter, image_half h (by omega), h41]
    simp [clamp]

theorem imageGroup_values (g : Idx8) :
    let byte (i : Nat) : Nat := (b.getD i 0).toNat
    let k := 177 + 3 * g.val
    (imageGroup b g).capacity = clamp 1 255 (byte k) ∧
      (imageGroup b g).threshold = min (byte (k + 1)) (clamp 1 255 (byte k)) ∧
      (imageGroup b g).maxAge = clamp 1 72 (byte (k + 2)) := by
  have hg := g.isLt
  have h178 : 177 + 3 * g.val + 1 = 178 + 3 * g.val := by omega
  have h179 : 177 + 3 * g.val + 2 = 179 + 3 * g.val := by omega
  have hbyte := (b.getD (178 + 3 * g.val) 0).isLt
  dsimp only
  refine ⟨?_, ?_, ?_⟩
  · rw [imageGroup, image_byte h (by omega)]
  · rw [imageGroup, image_byte h (by omega), image_byte h (by omega), h178]
    simp only [clamp]
    omega
  · simp only [imageGroup, image_byte h (show 179 + 3 * g.val < 256 by omega), h179]

theorem imageTiming_values :
    let byte (i : Nat) : Nat := (b.getD i 0).toNat
    (imageTiming b).prescaler = clamp 1 64 (byte 5) ∧ (imageTiming b).settle = clamp 1 16 (byte 6) ∧
      (imageTiming b).tail = clamp 2 8 (byte 7) ∧ (imageTiming b).jump = min (clamp 1 4 (byte 8)) (clamp 2 8 (byte 7)) := by
  have hb (a : Nat) (ha : a < 256) := image_byte h ha
  simp [imageTiming, hb]

end Image

/-- Settles O10: each value is read from its bytes, which `image_byte`, `image_half` and their kin give. -/
theorem configReadClampsValues : Obligations.ConfigReadClampsValues := by
  intro bytes s hp hl
  have hcfg : (s.loadConfig bytes).cfg = imageCfg bytes := by rw [loadConfig_cfg, if_pos hl]
  have hb (a : Nat) (ha : a < 256) := image_byte hl ha
  have hh (a : Nat) (ha : a + 1 < 256) := image_half hl ha
  obtain ⟨t1, t2, t3, t4⟩ := imageTiming_values hl
  refine ⟨_, exec_configRead bytes hp, by rw [loadConfig_start], loadConfig_timing s bytes, ?_⟩
  rw [hcfg]
  refine ⟨t1, t2, t3, t4, ?_, fun n => ?_, ?_, ?_, ?_, ?_, ?_, ?_, ?_, ?_, fun f => ?_, fun z => ?_, fun g => ?_, ?_⟩
  · simp [imageCfg, hb]
  · have := n.isLt
    simp [imageCfg, roleOf, hb (10 + n.val) (by omega)]
  · simp [imageCfg, hh]
  · simp [imageCfg, hh]
  · simp [imageCfg, hh]
  · simp [imageCfg, hh]
  · simp [imageCfg, hh, clamp]
  · simp [imageCfg, hh]
  · simp [imageCfg, hh]
  · simp [imageCfg, hb, clamp]
  · have hv : (imageCfg bytes).filters[f] = imageFilter bytes f := by simp [imageCfg]
    rw [hv]
    exact imageFilter_values hl f
  · have := z.isLt
    simp [imageCfg, hb (113 + z.val) (by omega)]
  · have hv : (imageCfg bytes).groups[g] = imageGroup bytes g := by simp [imageCfg]
    rw [hv]
    exact imageGroup_values hl g
  · simp [imageCfg, numAt_four (bs := bytes) (a := 201) (by omega)]

/-! ### The tests of an image (R175) -/

theorem signature_iff {b : List Byte} (h : b.length = 256) :
    slice b 0 4 = ascii "LSCF" ↔
      (b.getD 0 0).toNat = 76 ∧ (b.getD 1 0).toNat = 83 ∧ (b.getD 2 0).toNat = 67 ∧ (b.getD 3 0).toNat = 70 := by
  have hs : slice b 0 4 = [b.getD 0 0, b.getD 1 0, b.getD 2 0, b.getD 3 0] := by
    rw [slice_succ (by omega), slice_succ (by omega), slice_succ (by omega), slice_succ (by omega), slice_zero]
    rfl
  rw [hs, show ascii "LSCF" = [76, 83, 67, 70] by decide]
  simp only [List.cons.injEq, and_true, ← BitVec.toNat_inj]
  rfl

/-- Settles O11: the cause is `imageCause`, whose tests are those of the bytes. -/
theorem configTestsGiveCause : Obligations.ConfigTestsGiveCause := by
  intro bytes s hp hle hn
  dsimp only
  have hcause : imageCause bytes =
      if bytes.length ≠ 256 then some .noImage
      else if ¬ ((bytes.getD 0 0).toNat = 76 ∧ (bytes.getD 1 0).toNat = 83 ∧ (bytes.getD 2 0).toNat = 67 ∧
        (bytes.getD 3 0).toNat = 70) then some .signature
      else if 256 * (bytes.getD 254 0).toNat + (bytes.getD 255 0).toNat ≠
        ((bytes.take 254).map BitVec.toNat).sum % 65536 then some .check
      else if (bytes.getD 4 0).toNat = 0 ∨ 63 < (bytes.getD 4 0).toNat then some .station
      else none := by
    by_cases hl : bytes.length = 256
    · simp only [imageCause, imageSum, hl, ne_eq, not_true_eq_false, if_false, signature_iff hl,
        image_byte hl (show 4 < 256 by decide), image_half hl (show 254 + 1 < 256 by decide)]
    · simp [imageCause, hl]
  refine ⟨_, exec_configRead bytes hp, by rw [loadConfig_start, ← hcause], fun k => ?_, ?_, fun hl => ?_⟩
  · rw [loadConfig_start, ← hcause]
    cases hc : imageCause bytes with
    | some c => simp
    | none =>
      have hl : bytes.length = 256 := by
        by_contra hl
        simp [imageCause, hl] at hc
      have h4 : (bytes.getD 4 0).toNat ≤ 63 := by
        by_contra hs
        rw [hcause, if_neg (not_not.mpr hl), if_pos (Or.inr (by omega : 63 < (bytes.getD 4 0).toNat))] at hc
        split_ifs at hc
      simp only [Option.isNone_none, if_true, Option.some.injEq, true_and, image_byte hl (show 4 < 256 by decide)]
      rw [← BitVec.toNat_inj, BitVec.toNat_ofNat, Nat.mod_eq_of_lt (by omega), eq_comm]
  · rw [loadConfig_notices s bytes hn, ← hcause]
  · rw [loadConfig_cfg, if_neg hl]
    simp [Cfg.noImage, Filter.disabled]

/-! ### The header of record memory (R187) -/

theorem numAt_eq_iff {b : List Byte} {a n x : Nat} (h : (slice b a n).length = n) (hx : x < 256 ^ n) :
    numAt b a n = x ↔ slice b a n = bytesOf n x := by
  constructor
  · intro e
    rw [← e, numAt, bytesOf_numOfBytes h]
  · intro e
    rw [numAt, e, numOfBytes_bytesOf_of_lt hx]

theorem bytesOf_two (x : BitVec 16) : bytesOf 2 x.toNat = [x.extractLsb' 8 8, x.extractLsb' 0 8] := by
  have : bytesOf 2 x.toNat = [BitVec.ofNat 8 (x.toNat / 256), BitVec.ofNat 8 x.toNat] := by
    rw [bytesOf_succ, bytesOf_succ]
    rfl
  rw [this]
  congr 2
  · exact (Nat.shiftRight_eq_div_pow x.toNat 8).symm

/-- Settles O12: the tests of `headerStation` are those of the bytes, and a written header passes them. -/
theorem recordHeaderNamesStation : Obligations.RecordHeaderNamesStation := by
  constructor
  · intro b k hl
    have hsig : slice b 0 4 = b.take 4 := rfl
    have hcov : slice b 0 5 = b.take 5 := rfl
    have hchk : slice b 5 2 = (b.drop 5).take 2 := rfl
    have hcrc := (crc16Bytes (b.take 5)).isLt
    have hk := k.isLt
    have h4 : b[4]? = some (k.setWidth 8) ↔ (b.getD 4 0).toNat = k.toNat := by
      rw [List.getD_eq_getElem?_getD, List.getElem?_eq_getElem (by omega), Option.getD_some, Option.some.injEq,
        ← BitVec.toNat_inj, BitVec.toNat_setWidth, Nat.mod_eq_of_lt (by omega)]
    have h0 : k ≠ 0 ↔ k.toNat ≠ 0 := by simp [← BitVec.toNat_inj]
    have hcheck := numAt_eq_iff (b := b) (a := 5) (n := 2) (by simp [slice, hl]) (x := (crc16Bytes (b.take 5)).toNat) hcrc
    simp only [headerStation, hsig, hcov, hcheck, hchk, bytesOf_two, numAt_one (show 4 < b.length by omega),
      show ascii "LSRM" = [76, 83, 82, 77] by decide, h4, h0]
    split
    next hc =>
      obtain ⟨c1, c2, c3, c4⟩ := hc
      rw [Option.some.injEq, ← BitVec.toNat_inj, BitVec.toNat_ofNat, Nat.mod_eq_of_lt (by omega)]
      exact ⟨fun e => ⟨c1, c2, by omega, e⟩, fun e => e.2.2.2⟩
    next hc =>
      refine ⟨fun e => by simp at e, fun ⟨c1, c2, c3, c4⟩ => absurd ⟨c1, c2, by omega, by omega⟩ hc⟩
  · intro k hk
    have hk0 : k.toNat ≠ 0 := by simpa [← BitVec.toNat_inj] using hk
    have hk64 := k.isLt
    have hone : bytesOf 1 k.toNat = [k.setWidth 8] := by
      rw [bytesOf_succ]
      simp [bytesOf, BitVec.ofNat_toNat]
    have hhead : headerBytes k = [76, 83, 82, 77, k.setWidth 8] ++ bytesOf 2 (crc16Bytes [76, 83, 82, 77, k.setWidth 8]).toNat := by
      rw [headerBytes, hone, show ascii "LSRM" = [76, 83, 82, 77] by decide]
      rfl
    have hsig : slice (headerBytes k) 0 4 = ascii "LSRM" := by
      rw [hhead, show ascii "LSRM" = [76, 83, 82, 77] by decide]
      rfl
    have hcov : slice (headerBytes k) 0 5 = [76, 83, 82, 77, k.setWidth 8] := by rw [hhead]; rfl
    have hst : numAt (headerBytes k) 4 1 = k.toNat := by
      rw [numAt_one (by simp [hhead]), hhead]
      simp [List.getD_eq_getElem?_getD]
      omega
    have hchk : numAt (headerBytes k) 5 2 = (crc16Bytes [76, 83, 82, 77, k.setWidth 8]).toNat := by
      have : slice (headerBytes k) 5 2 = bytesOf 2 (crc16Bytes [76, 83, 82, 77, k.setWidth 8]).toNat := by rw [hhead]; simp [slice]
      rw [numAt, this, numOfBytes_bytesOf_of_lt (BitVec.isLt _)]
    refine ⟨?_, by simp [hhead]⟩
    rw [headerStation, if_pos ⟨hsig, by rw [hchk, hcov], by omega, by omega⟩, hst, BitVec.ofNat_toNat, BitVec.setWidth_eq]

/-! ### The opening of record memory (R178) -/

theorem exec_recordMemoryOpen {s : State} (size : Option Nat) (h : s.start.phase = .records) :
    exec (.recordMemoryOpen size) s = .next (s.openRecords size) := by
  change execRecordMemoryOpen size s = _
  rw [execRecordMemoryOpen, if_pos h]

/-- Settles O13: the rows of `State.openRecords`. -/
theorem recordMemoryOpenOutcomes : Obligations.RecordMemoryOpenOutcomes := by
  intro s hp hn
  refine ⟨fun size => ⟨_, exec_recordMemoryOpen size hp, ?_⟩, fun size k hk hh => ?_, fun size k hk hh => ?_,
    fun size k h hk hh hne => ?_, ?_, fun size h hk hh => ?_, fun size hk hh => ?_, ?_⟩
  · unfold State.openRecords
    dsimp only
    (repeat' split) <;> rfl
  · rw [exec_recordMemoryOpen _ hp, State.openRecords]
    simp [hk, hh, State.opened]
  · rw [exec_recordMemoryOpen _ hp, State.openRecords]
    simp [hk, hh, State.opened]
  · rw [exec_recordMemoryOpen _ hp, State.openRecords]
    simp [hk, hh, hne, State.opened, State.invalidate, State.raise, hn]
  · rw [exec_recordMemoryOpen _ hp, State.openRecords]
    simp [State.opened, State.invalidate, State.raise, hn]
  · rw [exec_recordMemoryOpen _ hp, State.openRecords]
    simp [hk, hh, State.opened]
  · rw [exec_recordMemoryOpen _ hp, State.openRecords]
    simp [hk, hh, State.opened]
  · simp [Records.firstStart]

end Sys2Proof.Machine
end

section
/-! PROOFS. The two queues of the Line Interface (R13 to R15) and the events of the receiving side that take no frame
(R4, R9, R10, R12). -/

namespace Sys2Proof.Machine

/-! ### The entry in transmission (R9, R14) -/

section
variable {s : State} {pre post : List TxEntry} {x : TxEntry}

theorem State.sending?_eq_none (h : ∀ e ∈ s.line.tx, e.inTransmission = false) : s.sending? = none := by
  rw [State.sending?, List.find?_eq_none]
  intro e he
  simp [h e he]

theorem State.sending?_eq_some (h : s.line.tx = pre ++ x :: post) (hpre : ∀ y ∈ pre, y.inTransmission = false)
    (hx : x.inTransmission = true) : s.sending? = some x := by
  have : pre.find? (·.inTransmission) = none := by
    rw [List.find?_eq_none]
    intro y hy
    simp [hpre y hy]
  rw [State.sending?, h, List.find?_append, this, Option.none_or, List.find?_cons_of_pos hx]

theorem not_mem_of_sending (hpre : ∀ y ∈ pre, y.inTransmission = false) (hx : x.inTransmission = true) : x ∉ pre := by
  intro hmem
  rw [hpre x hmem] at hx
  cases hx

/-- The first entry equal to `x`, where none before it is. -/
theorem modFirst_append_cons (f : TxEntry → TxEntry) (h : x ∉ pre) :
    modFirst x f (pre ++ x :: post) = pre ++ f x :: post := by
  induction pre with
  | nil => simp [modFirst]
  | cons y ys ih =>
    obtain ⟨hne, hys⟩ := not_or.mp (mt List.mem_cons.mpr h)
    rw [List.cons_append, modFirst, if_neg (Ne.symm hne), ih hys, List.cons_append]

theorem erase_append_cons (h : x ∉ pre) : (pre ++ x :: post).erase x = pre ++ post := by
  rw [List.erase_append_right _ h, List.erase_cons_head]

theorem State.dropTx_eq (h : s.line.tx = pre ++ x :: post) (hx : x ∉ pre) :
    s.dropTx x = { s with line := { s.line with tx := pre ++ post } } := by
  rw [State.dropTx, h, erase_append_cons hx]

theorem State.stopSending_eq (h : s.line.tx = pre ++ x :: post) (hx : x ∉ pre) :
    s.stopSending x =
      { s with line := { s.line with tx := pre ++ { x with inTransmission := false } :: post, driving := [] } } := by
  rw [State.stopSending, h, modFirst_append_cons _ hx]

end

/-! ### The two admission rules (R15) -/

theorem State.offerUrgent_of_lt {s : State} (rank : BitVec 14) (p : Payload) (h : s.line.tx.length < 16) :
    s.offerUrgent rank p = some (s.pushTx (s.frame rank p)) :=
  if_pos (by unfold State.freeTx; omega)

theorem State.offerUrgent_of_full {s : State} (rank : BitVec 14) (p : Payload) (h : 16 ≤ s.line.tx.length) :
    s.offerUrgent rank p = none :=
  if_neg (by unfold State.freeTx; omega)

/-- Where the offers of a paced owner are taken: 4 entries free, and no other owner first (R15). -/
def State.Room (s : State) (o : PacedOwner) : Prop :=
  s.line.tx.length ≤ 12 ∧ (s.line.pacing = [] ∨ s.line.pacing.head? = some o)

theorem State.offerPaced_of_room {s : State} {o : PacedOwner} (p : Payload) (h : s.Room o) :
    s.offerPaced o p =
      ({ s with
        line :=
          { s.line with
            tx := s.line.tx ++ [⟨⟨0, s.start.own.getD 0, p⟩, false, false⟩]
            pacing := s.line.pacing.filter fun y => y != o } }, true) := by
  rw [State.offerPaced, if_pos ((State.paceOk_iff s o).mpr h)]
  rfl

theorem State.offerPaced_of_no_room {s : State} {o : PacedOwner} (p : Payload) (h : ¬ s.Room o) :
    s.offerPaced o p =
      ({ s with
        line :=
          { s.line with pacing := if o ∈ s.line.pacing then s.line.pacing else s.line.pacing ++ [o] } }, false) := by
  rw [State.offerPaced, if_neg (fun hok => h ((State.paceOk_iff s o).mp hok)), State.joinPacing]
  by_cases hm : o ∈ s.line.pacing <;> simp [hm]

/-- An owner that is on the pacing list once, as its head, leaves the others in their order. -/
theorem filter_ne_head {o : PacedOwner} {rest : List PacedOwner} (h : o ∉ rest) :
    ((o :: rest).filter fun y => y != o) = rest := by
  rw [List.filter_cons_of_neg (by simp), List.filter_eq_self]
  intro y hy
  simpa using fun heq : y = o => h (heq ▸ hy)

/-- Settles O29: each rule on its own case of the queue and the pacing list. -/
theorem admissionToTransmitQueue : Obligations.AdmissionToTransmitQueue := by
  intro s payload _
  refine ⟨fun rank h => State.offerUrgent_of_lt rank payload h, fun rank h => State.offerUrgent_of_full rank payload h.ge,
    fun o h hnil => ?_, fun o rest h hcons ho => ?_, fun o h => ?_⟩
  · rw [State.offerPaced_of_room payload ⟨h, .inl hnil⟩, hnil]
    rfl
  · rw [State.offerPaced_of_room payload ⟨h, .inr (by rw [hcons]; rfl)⟩, hcons, filter_ne_head ho]
  · apply State.offerPaced_of_no_room
    rintro ⟨hroom, hfirst⟩
    rcases h with hfull | ⟨y, rest, hcons, hne⟩
    · omega
    · simp [hcons, hne] at hfirst

/-! ### The receive events that take no frame -/

theorem State.decodes_of_following {s : State}
    (hstate : s.line.state = .running ∨ s.line.state = .muted ∨ s.line.state = .listen)
    (hfollow : s.line.following = true) (htx : ∀ e ∈ s.line.tx, e.inTransmission = false) : s.decodes = true := by
  unfold State.decodes
  rw [State.sending?_eq_none htx]
  rcases hstate with h | h | h <;> simp [h, hfollow]

theorem State.decodes_of_finishing {s : State} (hstate : s.line.state = .joining) (hfin : s.line.finishing = true)
    (htx : ∀ e ∈ s.line.tx, e.inTransmission = false) : s.decodes = true := by
  unfold State.decodes
  rw [State.sending?_eq_none htx]
  simp [hstate, hfin]

/-- R10, R12: outside LISTEN a station that decodes drives the acknowledge slot. -/
theorem State.acknowledges_eq {s : State}
    (hstate : s.line.state = .running ∨ s.line.state = .muted ∨ s.line.state = .listen ∨
      (s.line.state = .joining ∧ s.line.finishing = true)) :
    s.acknowledges = decide (s.line.state ≠ .listen) := by
  unfold State.acknowledges
  rcases hstate with h | h | h | ⟨h, hfin⟩
  · simp [h]
  · simp [h]
  · simp [h]
  · simp [h, hfin]

theorem exec_receiveError {s : State} (e : RxError)
    (hstate : s.line.state = .running ∨ s.line.state = .muted ∨ s.line.state = .listen)
    (hfollow : s.line.following = true) (htx : ∀ x ∈ s.line.tx, x.inTransmission = false) :
    exec (.receiveError e) s = .next
      { s with
        line :=
          { s.line with
            following := false, finishing := false, sentBits := 0
            ackDriven := decide (e = .lateForm ∧ s.line.state ≠ .listen) } } := by
  change execReceiveError e s = _
  rw [execReceiveError, if_pos (State.decodes_of_following hstate hfollow htx), State.rxError,
    State.acknowledges_eq (by tauto)]
  cases e <;> simp

theorem exec_lineIdle {s : State} (hstate : s.line.state = .running ∨ s.line.state = .muted ∨ s.line.state = .listen) :
    exec .lineIdle s = .next { s with line := { s.line with following := true } } := by
  change execLineIdle s = _
  unfold execLineIdle
  rcases hstate with h | h | h <;> rw [h]

/-- Settles O21: one equation for each event in the line states that take it. -/
theorem receiveAndIdleEvents : Obligations.ReceiveAndIdleEvents := by
  intro s
  refine ⟨fun e hstate hfollow htx => exec_receiveError e hstate hfollow htx, exec_lineIdle, fun h => ?_, fun h => ?_,
    fun underWay d hmuted hd hdue => ?_, fun underWay h => ?_⟩
  · change execJoiningIdle s = _
    rw [execJoiningIdle, if_pos h]
  · change execJoiningIdle s = _
    rw [execJoiningIdle, if_neg h]
  · change execMuteExpiry underWay s = _
    rw [execMuteExpiry, if_pos ⟨hmuted, by rw [hd]; exact decide_eq_true hdue⟩]
  · change execMuteExpiry underWay s = _
    rw [execMuteExpiry, if_neg fun hm => h hm.1]

end Sys2Proof.Machine
end

section
/-! PROOFS. A frame on the floor line: stuffing and its removal (R5), the receiver's tests (R3, R6, R9, R10) and the
sampling of the line (R1, R2). -/

namespace Sys2Proof.Machine

/-! ### Stuffing (R5) -/

/-- The bits sent for `bs` after a run of `c` bits at level `l`, without the stuff bit that may follow the last of them. -/
def stuffed (c : Nat) (l : Bool) : List Bool → List Bool
  | [] => []
  | b :: bs => if c = 6 then (!l) :: b :: stuffed (if b = !l then 2 else 1) b bs
    else b :: stuffed (if b = l then c + 1 else 1) b bs

/-- The run that those bits end with. -/
def runAfter (c : Nat) (l : Bool) : List Bool → Run
  | [] => ⟨c, l⟩
  | b :: bs => if c = 6 then runAfter (if b = !l then 2 else 1) b bs else runAfter (if b = l then c + 1 else 1) b bs

theorem stuff_append (c : Nat) (l : Bool) (bs more : List Bool) :
    stuff c l (bs ++ more) = stuffed c l bs ++ stuff (runAfter c l bs).count (runAfter c l bs).level more := by
  induction bs generalizing c l with
  | nil => rfl
  | cons b bs ih =>
    simp only [List.cons_append, stuff, stuffed, runAfter]
    split <;> simp [ih]

theorem stuff_eq (c : Nat) (l : Bool) (bs : List Bool) :
    stuff c l bs = stuffed c l bs ++ stuff (runAfter c l bs).count (runAfter c l bs).level [] := by
  simpa using stuff_append c l bs []

theorem unstuff_zero (r : Run) (bs : List Bool) : unstuff r 0 bs = .ok ([], r, bs) := by
  cases bs <;> rfl

/-- What was stuffed is read back. -/
theorem unstuff_stuffed (c : Nat) (l : Bool) (bs rest : List Bool) :
    unstuff ⟨c, l⟩ bs.length (stuffed c l bs ++ rest) = .ok (bs, runAfter c l bs, rest) := by
  induction bs generalizing c l with
  | nil => exact unstuff_zero _ _
  | cons b bs ih =>
    by_cases hc : c = 6
    · have hb : (!l) ≠ l := by cases l <;> decide
      have hstep : (if b = !l then 1 + 1 else 1) = if b = !l then 2 else 1 := rfl
      simp [stuffed, runAfter, unstuff, hc, ih]
    · simp [stuffed, runAfter, unstuff, hc, ih]

theorem lastStuffBit_stuff (r : Run) (rest : List Bool) :
    lastStuffBit r (stuff r.count r.level [] ++ rest) = .ok rest := by
  unfold lastStuffBit stuff
  split <;> simp

/-! ### What a receiver makes of the bits sent (R3, R6, R9) -/

theorem RawFrame.length_headBits (r : RawFrame) : r.headBits.length = 30 := by
  simp [RawFrame.headBits, length_bitsOf]

theorem length_flatMap_bitsOf (bs : List Byte) : (bs.flatMap bitsOf).length = 8 * bs.length := by
  induction bs with
  | nil => rfl
  | cons b bs ih => rw [List.flatMap_cons, List.length_append, ih, length_bitsOf, List.length_cons]; omega

/-- The bytes of a payload, taken eight bits at a time. -/
theorem bytes_of_flatMap_bitsOf (bs : List Byte) :
    ((List.range bs.length).map fun i => BitVec.ofNat 8 (numOfBits (sliceBits (bs.flatMap bitsOf) (8 * i) 8))) = bs := by
  induction bs with
  | nil => rfl
  | cons b bs ih =>
    rw [List.length_cons, List.range_succ_eq_map, List.map_cons, List.map_map]
    refine congrArg₂ List.cons ?_ ?_
    · rw [List.flatMap_cons, sliceBits, Nat.mul_zero, List.drop_zero, List.take_left' (length_bitsOf b), numOfBits_bitsOf,
        BitVec.ofNat_toNat, BitVec.setWidth_eq]
    · refine (List.map_congr_left fun i _ => ?_).trans ih
      have hdrop : (bitsOf b ++ bs.flatMap bitsOf).drop (8 * (i + 1)) = (bs.flatMap bitsOf).drop (8 * i) := by
        rw [show 8 * (i + 1) = (bitsOf b).length + 8 * i by rw [length_bitsOf]; omega, List.drop_length_add_append]
      simp only [Function.comp, sliceBits, List.flatMap_cons, Nat.succ_eq_add_one, hdrop]

theorem RawFrame.parts_headBits (r : RawFrame) :
    sliceBits r.headBits 1 4 = bitsOf r.kind ∧ sliceBits r.headBits 5 14 = bitsOf r.rank ∧
      sliceBits r.headBits 19 6 = bitsOf r.sender ∧ r.headBits.drop 25 = bitsOf (BitVec.ofNat 5 r.payload.length) := by
  have hk := length_bitsOf r.kind
  have hr := length_bitsOf r.rank
  have hs := length_bitsOf r.sender
  simp [RawFrame.headBits, sliceBits, List.drop_append, List.drop_of_length_le, hk, hr, hs]

/-- The tests before the acknowledge slot pass, every field is kept, and the bits from the slot on are left. -/
theorem receiveSpan_lineBits {r : RawFrame} (h : r.payload.length ≤ 16) (tail : List Bool) :
    receiveSpan (stuff 0 true r.span ++ tail) = .ok (r, tail) := by
  obtain ⟨hkind, hrank, hsender, hlen⟩ := r.parts_headBits
  have hlen' : numOfBits (r.headBits.drop 25) = r.payload.length := by
    rw [hlen, numOfBits_bitsOf, BitVec.toNat_ofNat, Nat.mod_eq_of_lt (by omega)]
  have hbody : (r.payload.flatMap bitsOf ++ bitsOf (crc16 r.coveredBits)).length = 8 * r.payload.length + 16 := by
    rw [List.length_append, length_flatMap_bitsOf, length_bitsOf]
  have hspan : r.span = r.headBits ++ (r.payload.flatMap bitsOf ++ bitsOf (crc16 r.coveredBits)) := by
    rw [RawFrame.span, RawFrame.coveredBits, List.append_assoc]
  have hhead := unstuff_stuffed 0 true r.headBits
  rw [r.length_headBits] at hhead
  have hrest := unstuff_stuffed (runAfter 0 true r.headBits).count (runAfter 0 true r.headBits).level
    (r.payload.flatMap bitsOf ++ bitsOf (crc16 r.coveredBits))
  rw [hbody] at hrest
  rw [hspan, stuff_append, stuff_eq, List.append_assoc, List.append_assoc, receiveSpan, hhead]
  simp only [hlen', Nat.not_lt.mpr h, if_false, hrest, lastStuffBit_stuff]
  rw [List.take_left' (length_flatMap_bitsOf _), List.drop_left' (length_flatMap_bitsOf _), ← RawFrame.coveredBits]
  simp [hkind, hrank, hsender, numOfBits_bitsOf, bytes_of_flatMap_bitsOf]

theorem receiveBits_lineBits {r : RawFrame} (h : r.payload.length ≤ 16) (ack : Bool) :
    receiveBits (stuff 0 true r.span ++ ack :: List.replicate 9 true) = .ok r := by
  rw [receiveBits, receiveSpan_lineBits h]
  simp [tailOk]

theorem ackSlot_lineBits {r : RawFrame} (h : r.payload.length ≤ 16) (ack : Bool) :
    ackSlot (stuff 0 true r.span ++ ack :: List.replicate 9 true) = some (stuff 0 true r.span).length := by
  rw [ackSlot, receiveSpan_lineBits h]
  simp

/-! ### Sampling (R1, R2) -/

section
variable (t : BitTiming) (sends : Nat → Bool)

/-- A quantum whose level is that of the one before. -/
theorem sampleWave_level {i p S T : Nat} {a lv : Bool} (rest : List Bool) (h : p < 1 + S + T) :
    sampleWave t sends ⟨i, p, S, T, a, lv⟩ (lv :: rest) =
      (if p = S then [lv] else []) ++
        sampleWave t sends (if 1 + S + T ≤ p + 1 then Sampler.fresh t (i + 1) lv else ⟨i, p + 1, S, T, a, lv⟩) rest := by
  have hlevel : (lv && !lv) = false := by cases lv <;> rfl
  rw [sampleWave]
  simp only [hlevel, Bool.false_eq_true, if_false, Nat.not_le.mpr h]
  split <;> simp

/-- Quanta of one level, in settle. -/
theorem sampleWave_settle {i p S T m : Nat} {a lv : Bool} (rest : List Bool) (h : p + m ≤ S) :
    sampleWave t sends ⟨i, p, S, T, a, lv⟩ (List.replicate m lv ++ rest) =
      sampleWave t sends ⟨i, p + m, S, T, a, lv⟩ rest := by
  induction m generalizing p with
  | zero => rfl
  | succ m ih =>
    rw [List.replicate_succ, List.cons_append, sampleWave_level t sends _ (by omega), if_neg (by omega),
      if_neg (by omega), List.nil_append, ih (by omega), Nat.add_right_comm, Nat.add_assoc]

/-- The rest of a bit of one level: it is sampled at the end of settle, where that is still to come. -/
theorem sampleWave_bit {i p m : Nat} {lv : Bool} (rest : List Bool) (h : p + (m + 1) = 1 + t.settle + t.tail) :
    sampleWave t sends ⟨i, p, t.settle, t.tail, false, lv⟩ (List.replicate (m + 1) lv ++ rest) =
      (if p ≤ t.settle then [lv] else []) ++ sampleWave t sends (Sampler.fresh t (i + 1) lv) rest := by
  induction m generalizing p with
  | zero =>
    rw [List.replicate_one, List.singleton_append, sampleWave_level t sends _ (by omega), if_pos (by omega : _ ≤ p + 1)]
    simp only [show p = t.settle ↔ p ≤ t.settle by omega]
  | succ m ih =>
    rw [List.replicate_succ, List.cons_append, sampleWave_level t sends _ (by omega), if_neg (by omega : ¬ _ ≤ p + 1),
      ih (by omega), ← List.append_assoc]
    congr 1
    rcases Nat.lt_trichotomy p t.settle with hp | hp | hp
    · simp [hp.ne, hp.le, Nat.succ_le_of_lt hp]
    · simp [hp]
    · simp [hp.ne', Nat.not_le.mpr hp, Nat.not_le.mpr (Nat.lt_succ_of_lt hp)]

/-- At a bit's first quantum an edge adjusts nothing (R2). -/
theorem sampleWave_fresh (i : Nat) (l lv : Bool) (rest : List Bool) :
    sampleWave t sends (Sampler.fresh t i l) (lv :: rest) = sampleWave t sends (Sampler.fresh t i lv) (lv :: rest) := by
  have hadjust (b : Bool) :
      (if ((Sampler.fresh t i b).level && !lv) = true then
        (Sampler.fresh t i b).adjust t (sends (Sampler.fresh t i b).bit) else Sampler.fresh t i b) =
        Sampler.fresh t i b := by
    split
    · simp [Sampler.adjust, Sampler.fresh]
    · rfl
  simp only [sampleWave, hadjust]
  simp [Sampler.fresh]

theorem sampleWave_waveOf (bs : List Bool) (i : Nat) (l : Bool) :
    sampleWave t sends (Sampler.fresh t i l) (waveOf t bs) = bs := by
  induction bs generalizing i l with
  | nil => rfl
  | cons b bs ih =>
    have hbit := sampleWave_bit t sends (i := i) (p := 0) (m := t.settle + t.tail) (lv := b) (waveOf t bs) (by omega)
    rw [if_pos (Nat.zero_le _), ← Sampler.fresh, ih] at hbit
    have hwave : waveOf t (b :: bs) = b :: (List.replicate (t.settle + t.tail) b ++ waveOf t bs) := by
      rw [waveOf, List.flatMap_cons, show 1 + t.settle + t.tail = t.settle + t.tail + 1 by omega, List.replicate_succ]
      rw [show t.settle + t.tail + 1 = 1 + t.settle + t.tail by omega]
      rfl
    rw [hwave, sampleWave_fresh]
    exact hbit

/-- At an edge the station goes on from the adjusted bit (R2). -/
theorem sampleWave_edge {c : Sampler} {i p S T : Nat} {a : Bool} (rest : List Bool) (hlevel : c.level = true)
    (hc : c.adjust t (sends c.bit) = ⟨i, p, S, T, a, true⟩) (hp : p < 1 + S + T) :
    sampleWave t sends c (false :: rest) = sampleWave t sends ⟨i, p, S, T, a, false⟩ (false :: rest) := by
  conv_lhs => rw [sampleWave]
  conv_rhs => rw [sampleWave]
  simp [hlevel, hc, Nat.not_le.mpr hp]

/-- R2: the first falling edge in settle, of a bit the station does not send, delays the sample by the adjustment. -/
theorem sampleWave_late_edge {i e : Nat} (rest : List Bool) (he : e < t.settle) (htail : 1 ≤ t.tail) :
    let settle : Nat := t.settle + if sends i then 0 else min e t.jump
    sampleWave t sends (Sampler.fresh t i true)
        (List.replicate (1 + e) true ++ List.replicate (settle - e) false ++ rest) =
      false :: sampleWave t sends ⟨i, settle + 1, settle, t.tail, !sends i, false⟩ rest := by
  intro settle
  have hsettle : t.settle ≤ settle := Nat.le_add_right _ _
  obtain ⟨m, hm⟩ : ∃ m, settle = e + 1 + m := ⟨settle - e - 1, by omega⟩
  rw [List.append_assoc, Sampler.fresh, sampleWave_settle t sends _ (by omega), show settle - e = m + 1 by omega,
    List.replicate_succ, List.cons_append]
  have hedge : sampleWave t sends ⟨i, 0 + (1 + e), t.settle, t.tail, false, true⟩ (false :: (List.replicate m false ++ rest)) =
      sampleWave t sends ⟨i, e + 1, settle, t.tail, !sends i, false⟩ (List.replicate (m + 1) false ++ rest) := by
    refine sampleWave_edge t sends _ rfl ?_ (by omega)
    cases hsends : sends i with
    | true => simp [Sampler.adjust, settle, hsends, Nat.add_comm 1 e, Nat.succ_le_of_lt he]
    | false => simp [Sampler.adjust, settle, hsends, Nat.add_comm 1 e, Nat.succ_le_of_lt he]
  rw [hedge, List.replicate_succ', List.append_assoc, sampleWave_settle t sends _ (by omega), List.singleton_append,
    sampleWave_level t sends _ (by omega), if_pos hm.symm, if_neg (by omega), List.singleton_append, ← hm]

end

/-- Settles O19: the receiver's tests undo the sender's stuffing, and nominal bits are sampled as they are. -/
theorem lineBitsReceivedAsSent : Obligations.LineBitsReceivedAsSent :=
  ⟨fun _ ack h => ⟨receiveBits_lineBits h ack, ackSlot_lineBits h ack⟩,
    fun t sends bs => sampleWave_waveOf t sends bs 0 false,
    fun t sends _ _ rest he htail => sampleWave_late_edge t sends rest he htail⟩

end Sys2Proof.Machine
end

section
/-! PROOFS. The payload of each kind as bytes and back (R7, R8, R181), and the arbitration field with the head of the
transmit queue (R3, R14). -/

namespace Sys2Proof.Machine

/-! ### Fields side by side -/

theorem numAt_lt (b : List Byte) (a n : Nat) : numAt b a n < 256 ^ n := by
  refine lt_of_lt_of_le (numOfBytes_lt _) (Nat.pow_le_pow_right (by decide) ?_)
  rw [slice, List.length_take]
  exact Nat.min_le_left _ _

/-- The field that begins a record. -/
theorem numAt_bytesOf_append (n x : Nat) (rest : List Byte) : numAt (bytesOf n x ++ rest) 0 n = x % 256 ^ n := by
  rw [numAt, slice, List.drop_zero, List.take_left' (length_bytesOf n x), numOfBytes_bytesOf]

theorem numAt_bytesOf (n x : Nat) : numAt (bytesOf n x) 0 n = x % 256 ^ n := by
  simpa using numAt_bytesOf_append n x []

/-- A field after the one that begins a record. -/
theorem numAt_after {n x a m : Nat} {rest : List Byte} (h : n ≤ a) :
    numAt (bytesOf n x ++ rest) a m = numAt rest (a - n) m := by
  rw [numAt, numAt, slice, slice, List.drop_append, List.drop_of_length_le (by rw [length_bytesOf]; exact h),
    length_bytesOf, List.nil_append]

theorem slice_append_slice (b : List Byte) (a n m : Nat) : slice b a n ++ slice b (a + n) m = slice b a (n + m) := by
  rw [slice, slice, slice, List.take_add, List.drop_drop]

theorem bytesOf_numAt {b : List Byte} {a n : Nat} (h : a + n ≤ b.length) : bytesOf n (numAt b a n) = slice b a n := by
  rw [numAt, bytesOf_numOfBytes]
  rw [slice, List.length_take, List.length_drop]
  omega

theorem slice_all (b : List Byte) : slice b 0 b.length = b := by
  rw [slice, List.drop_zero, List.take_length]

/-! ### Codes -/

theorem pathOf_eq_some_iff {c : Nat} {p : Path} : pathOf c = some p ↔ p.code = c := by
  unfold pathOf
  split_ifs <;> cases p <;> simp [Path.code] <;> omega

theorem reasonOf_eq_some_iff {c : Nat} {p : Reason} : reasonOf c = some p ↔ p.code = c := by
  unfold reasonOf
  split_ifs <;> cases p <;> simp [Reason.code] <;> omega

theorem formatOf_eq_some_iff {c : Nat} {p : Format} : formatOf c = some p ↔ p.code = c := by
  unfold formatOf
  split_ifs <;> cases p <;> simp [Format.code] <;> omega

theorem conditionOf_eq_some_iff {c : Nat} {p : Condition} : conditionOf c = some p ↔ p.code = c := by
  unfold conditionOf
  split_ifs <;> cases p <;> simp [Condition.code] <;> omega

theorem statusOf_eq_some_iff {c : Nat} {p : LoanStatus} : statusOf c = some p ↔ p.code = c := by
  unfold statusOf
  split_ifs <;> cases p <;> simp [LoanStatus.code] <;> omega

theorem workOf_workBytes (w : Work) : workOf (numAt (workBytes w) 0 3) = w := by
  have ht := w.title.isLt
  have he := w.edition.isLt
  rw [workBytes, numAt_bytesOf, workOf, Nat.mod_eq_of_lt (by norm_num; omega)]
  cases w with
  | mk t e =>
    congr 1 <;> apply BitVec.eq_of_toNat_eq <;> simp only [BitVec.toNat_ofNat] <;> simp at ht he ⊢ <;> omega

theorem workBytes_workOf {n : Nat} (h : n < 256 ^ 3) : workBytes (workOf n) = bytesOf 3 n := by
  rw [workBytes]
  congr 1
  simp only [workOf, BitVec.toNat_ofNat]
  norm_num at h ⊢
  omega

/-! ### Each kind's payload -/

theorem Payload.kind_lt (p : Payload) : p.kind < 16 := by
  cases p <;> simp [Payload.kind]

theorem Payload.kindLength_kind (p : Payload) : kindLength p.kind = some p.bytes.length := by
  cases p <;> simp [Payload.kind, kindLength, Payload.bytes, workBytes, length_bytesOf]

theorem Path.code_lt (p : Path) : p.code < 256 := by cases p <;> decide
theorem Reason.code_lt (p : Reason) : p.code < 256 := by cases p <;> decide
theorem Format.code_lt (p : Format) : p.code < 256 := by cases p <;> decide
theorem Condition.code_lt (p : Condition) : p.code < 256 := by cases p <;> decide
theorem LoanStatus.code_lt (p : LoanStatus) : p.code < 256 := by cases p <;> decide

theorem toNat_mod_16 (x : BitVec 16) : x.toNat % 65536 = x.toNat := Nat.mod_eq_of_lt x.isLt
theorem toNat_mod_24 (x : BitVec 24) : x.toNat % 16777216 = x.toNat := Nat.mod_eq_of_lt x.isLt
theorem toNat_mod_32 (x : BitVec 32) : x.toNat % 4294967296 = x.toNat := Nat.mod_eq_of_lt x.isLt

theorem toNat_mod_256 {w : Nat} (hw : w ≤ 8) (x : BitVec w) : x.toNat % 256 = x.toNat :=
  Nat.mod_eq_of_lt (lt_of_lt_of_le x.isLt (Nat.pow_le_pow_right (by decide) hw))

/-- The title and edition that begin a record. -/
theorem workOf_workBytes_append (w : Work) (rest : List Byte) : workOf (numAt (workBytes w ++ rest) 0 3) = w := by
  rw [workBytes, numAt_bytesOf_append, ← numAt_bytesOf, ← workBytes, workOf_workBytes]

theorem numAt_after_work {w : Work} {a m : Nat} {rest : List Byte} (h : 3 ≤ a) :
    numAt (workBytes w ++ rest) a m = numAt rest (a - 3) m := numAt_after h

/-- R181: the fields of an in-range payload are read back from its bytes. -/
theorem parsePayload_bytes {p : Payload} (h : p.ok = true) : parsePayload p.kind p.bytes = some p := by
  cases p with
  | held o | cancel o => simp [Payload.kind, parsePayload, Payload.bytes, numAt_bytesOf, toNat_mod_24]
  | bid o path =>
    simp [Payload.kind, parsePayload, Payload.bytes, numAt_bytesOf_append, numAt_after, numAt_bytesOf, toNat_mod_24,
      Nat.mod_eq_of_lt path.code_lt, pathOf_eq_some_iff]
  | release o c r =>
    have hc : 1 ≤ c.toNat := by
      have : c ≠ 0 := by simpa [Payload.ok] using h
      bv_omega
    have hc3 : c.toNat ≤ 3 := Nat.le_of_lt_succ c.isLt
    simp [Payload.kind, parsePayload, Payload.bytes, numAt_bytesOf_append, numAt_after, numAt_bytesOf, toNat_mod_24,
      toNat_mod_256, Nat.mod_eq_of_lt r.code_lt, reasonOf_eq_some_iff, hc, hc3]
  | order o patron w f z =>
    have hw : ¬w.title = 0#20 := by simpa [Payload.ok] using h
    have hz : z.toNat ≤ 63 := Nat.le_of_lt_succ z.isLt
    simp [Payload.kind, parsePayload, Payload.bytes, numAt_bytesOf_append, numAt_after, numAt_bytesOf, toNat_mod_24,
      toNat_mod_256, workOf_workBytes_append, numAt_after_work, Nat.mod_eq_of_lt f.code_lt, formatOf_eq_some_iff, hw, hz]
  | shipped o l k d u =>
    obtain ⟨⟨hl, hd⟩, hu⟩ : (loanNumberOk l = true ∧ d ≠ 0) ∧ u ≠ 0 := by simpa [Payload.ok] using h
    have hd' : d.toNat ≠ 0 := by simpa [← BitVec.toNat_inj] using hd
    have hu' : u.toNat ≠ 0 := by simpa [← BitVec.toNat_inj] using hu
    simp [Payload.kind, parsePayload, Payload.bytes, numAt_bytesOf_append, numAt_after, numAt_bytesOf, toNat_mod_24,
      toNat_mod_16, toNat_mod_32, hl, hd', hu']
  | returned l k d c =>
    have hl : loanNumberOk l = true := h
    simp [Payload.kind, parsePayload, Payload.bytes, numAt_bytesOf_append, numAt_after, numAt_bytesOf, toNat_mod_24,
      toNat_mod_16, toNat_mod_32, Nat.mod_eq_of_lt c.code_lt, conditionOf_eq_some_iff, hl]
  | loanState l patron st u =>
    have hl : loanNumberOk l = true := h
    simp [Payload.kind, parsePayload, Payload.bytes, numAt_bytesOf_append, numAt_after, numAt_bytesOf, toNat_mod_24,
      toNat_mod_16, Nat.mod_eq_of_lt st.code_lt, statusOf_eq_some_iff, hl]
  | date d =>
    have hd : d.toNat ≠ 0 := by
      have : d ≠ 0 := by simpa [Payload.ok] using h
      simpa [← BitVec.toNat_inj] using this
    simp [Payload.kind, parsePayload, Payload.bytes, numAt_bytesOf, toNat_mod_16, hd]

theorem toNat_ofNat_numAt {w : Nat} (b : List Byte) (a n : Nat) (h : 256 ^ n ≤ 2 ^ w) :
    (BitVec.ofNat w (numAt b a n)).toNat = numAt b a n := by
  rw [BitVec.toNat_ofNat, Nat.mod_eq_of_lt (lt_of_lt_of_le (numAt_lt b a n) h)]

/-- Fields that follow each other make up one run of bytes. -/
theorem slice_append_next {b : List Byte} {a n c m : Nat} (h : a + n = c) :
    slice b a n ++ slice b c m = slice b a (n + m) := by
  rw [← h, slice_append_slice]

theorem slice_whole {b : List Byte} {n : Nat} (h : b.length = n) : slice b 0 n = b := by
  rw [← h, slice_all]

/-- R8, R181: a payload that passes the kind check has the kind, is in range and gives its bytes back. -/
theorem parsePayload_eq_some {k : Nat} {b : List Byte} {p : Payload} (hl : kindLength k = some b.length)
    (h : parsePayload k b = some p) : p.kind = k ∧ p.ok = true ∧ p.bytes = b := by
  have hk : k < 9 := by
    by_contra hk
    rw [kindLength, List.getElem?_eq_none (by simpa using hk)] at hl
    cases hl
  have h16 (a : Nat) := toNat_ofNat_numAt (w := 16) b a 2 (by decide)
  have h24 (a : Nat) := toNat_ofNat_numAt (w := 24) b a 3 (by decide)
  have h32 (a : Nat) := toNat_ofNat_numAt (w := 32) b a 4 (by decide)
  interval_cases k <;> simp only [parsePayload] at h
  · -- HELD
    have hb : b.length = 3 := (Option.some.inj hl).symm
    obtain rfl := Option.some.inj h
    simp [Payload.kind, Payload.ok, Payload.bytes, h24, hb, bytesOf_numAt, slice_whole]
  · -- BID
    have hb : b.length = 4 := (Option.some.inj hl).symm
    obtain ⟨path, hpath, rfl⟩ := Option.map_eq_some_iff.mp h
    rw [pathOf_eq_some_iff] at hpath
    simp [Payload.kind, Payload.ok, Payload.bytes, h24, hpath, hb, bytesOf_numAt, slice_append_next, slice_whole]
  · -- RELEASE
    have hb : b.length = 5 := (Option.some.inj hl).symm
    split_ifs at h with hc
    obtain ⟨r, hr, rfl⟩ := Option.map_eq_some_iff.mp h
    rw [reasonOf_eq_some_iff] at hr
    have hcount : (BitVec.ofNat 2 (numAt b 3 1)).toNat = numAt b 3 1 := by
      rw [BitVec.toNat_ofNat, Nat.mod_eq_of_lt (by omega)]
    have hne : BitVec.ofNat 2 (numAt b 3 1) ≠ 0 := by
      intro h0
      rw [h0] at hcount
      simp at hcount
      omega
    simp [Payload.kind, Payload.ok, Payload.bytes, h24, hcount, hr, hb, bytesOf_numAt, slice_append_next, slice_whole]
    exact hne
  · -- CANCEL
    have hb : b.length = 3 := (Option.some.inj hl).symm
    obtain rfl := Option.some.inj h
    simp [Payload.kind, Payload.ok, Payload.bytes, h24, hb, bytesOf_numAt, slice_whole]
  · -- ORDER
    have hb : b.length = 11 := (Option.some.inj hl).symm
    split_ifs at h with hc
    obtain ⟨htitle, hzone⟩ := hc
    obtain ⟨f, hf, rfl⟩ := Option.map_eq_some_iff.mp h
    rw [formatOf_eq_some_iff] at hf
    have hz : (BitVec.ofNat 6 (numAt b 10 1)).toNat = numAt b 10 1 := by
      rw [BitVec.toNat_ofNat, Nat.mod_eq_of_lt (by omega)]
    have hwork := workBytes_workOf (numAt_lt b 6 3)
    refine ⟨rfl, by simpa [Payload.ok] using htitle, ?_⟩
    simp [Payload.bytes, h24, hz, hf, hwork, hb, bytesOf_numAt, slice_append_next, slice_whole]
  · -- SHIPPED
    have hb : b.length = 14 := (Option.some.inj hl).symm
    split_ifs at h with hc
    obtain ⟨hloan, hd, hu⟩ := hc
    obtain rfl := Option.some.inj h
    refine ⟨rfl, ?_, ?_⟩
    · simp [Payload.ok, hloan, ← BitVec.toNat_inj, h16, hd, hu]
    · simp [Payload.bytes, h16, h24, h32, hb, bytesOf_numAt, slice_append_next, slice_whole]
  · -- RETURNED
    have hb : b.length = 10 := (Option.some.inj hl).symm
    split_ifs at h with hloan
    obtain ⟨c, hc, rfl⟩ := Option.map_eq_some_iff.mp h
    rw [conditionOf_eq_some_iff] at hc
    refine ⟨rfl, hloan, ?_⟩
    simp [Payload.bytes, h16, h24, h32, hc, hb, bytesOf_numAt, slice_append_next, slice_whole]
  · -- LOANSTATE
    have hb : b.length = 9 := (Option.some.inj hl).symm
    split_ifs at h with hloan
    obtain ⟨c, hc, rfl⟩ := Option.map_eq_some_iff.mp h
    rw [statusOf_eq_some_iff] at hc
    refine ⟨rfl, hloan, ?_⟩
    simp [Payload.bytes, h16, h24, hc, hb, bytesOf_numAt, slice_append_next, slice_whole]
  · -- DATE
    have hb : b.length = 2 := (Option.some.inj hl).symm
    split_ifs at h with hd
    obtain rfl := Option.some.inj h
    refine ⟨rfl, ?_, ?_⟩
    · simp [Payload.ok, ← BitVec.toNat_inj, h16, hd]
    · simp [Payload.bytes, h16, hb, bytesOf_numAt, slice_whole]

/-! ### The kind check (R8) -/

theorem Frame.kind_raw (f : Frame) : f.raw.kind.toNat = f.payload.kind := by
  rw [Frame.raw, BitVec.toNat_ofNat, Nat.mod_eq_of_lt f.payload.kind_lt]

/-- Settles O18: the two directions are `parsePayload_eq_some` and `parsePayload_bytes`. -/
theorem frameParsesAsBuilt : Obligations.FrameParsesAsBuilt := by
  intro r f
  constructor
  · intro h
    rw [RawFrame.parse] at h
    split_ifs at h with hc
    obtain ⟨hlen, hrank, hsender⟩ := hc
    obtain ⟨p, hp, rfl⟩ := Option.map_eq_some_iff.mp h
    obtain ⟨hkind, hok, hbytes⟩ := parsePayload_eq_some hlen hp
    refine ⟨by simpa [Frame.ok, hkind, hrank, hok] using hsender, ?_⟩
    simp [Frame.raw, hkind, hbytes]
  · rintro ⟨hok, rfl⟩
    obtain ⟨⟨hrank, hsender⟩, hpayload⟩ : (rankOk f.payload.kind f.rank.toNat = true ∧ f.sender ≠ 0) ∧
        f.payload.ok = true := by simpa [Frame.ok] using hok
    rw [RawFrame.parse, f.kind_raw, if_pos ⟨f.payload.kindLength_kind, hrank, hsender⟩]
    rw [show f.raw.payload = f.payload.bytes from rfl, parsePayload_bytes hpayload]
    rfl

end Sys2Proof.Machine
end

section
/-! PROOFS. Frames taken and sent: a frame at nominal timing (R1 to R13), the arbitration field and the head of the
transmit queue (R3, R9, R14), and the sender's comparison (R9 to R11). -/

namespace Sys2Proof.Machine

/-! ### A frame at nominal timing (R1 to R13) -/

theorem RawFrame.span_eq_cons (r : RawFrame) : ∃ bs, r.span = false :: bs := ⟨_, rfl⟩

theorem receiveWave_lineBits {raw : RawFrame} (t : BitTiming) (sent : Nat) (acks ack : Bool)
    (h : raw.payload.length ≤ 16) :
    receiveWave t sent acks (waveOf t (stuff 0 true raw.span ++ ack :: List.replicate 9 true)) = some (.ok raw) := by
  have hsampled (sends : Nat → Bool) (bs : List Bool) : sampledBits t sends (waveOf t bs) = bs :=
    sampleWave_waveOf t sends bs 0 false
  obtain ⟨bs, hbs⟩ : ∃ bs, stuff 0 true raw.span ++ ack :: List.replicate 9 true = false :: bs := by
    obtain ⟨bs, hspan⟩ := raw.span_eq_cons
    rw [hspan]
    exact ⟨_, rfl⟩
  have hok := receiveBits_lineBits h ack
  rw [hbs] at hok ⊢
  rw [receiveWave, hsampled]
  exact congrArg some hok

section
variable {s : State} {raw : RawFrame} {t : BitTiming}

/-- A station that decodes takes the frame (R9). -/
theorem exec_frameReceived (ack : Bool) (hlen : raw.payload.length ≤ 16) (ht : s.line.timing = some t)
    (hdecodes : s.decodes = true) :
    exec (.frameReceived (waveOf t (stuff 0 true raw.span ++ ack :: List.replicate 9 true))) s =
      .next (s.rxFrame raw) := by
  change execFrameReceived _ s = _
  rw [execFrameReceived, if_pos hdecodes, ht, Option.bind_some, receiveWave_lineBits t _ _ _ hlen]

end

/-- R8: the frames that the kind check discards though every field is in range. -/
theorem State.discards_iff {s : State} {f : Frame} :
    s.discards f = true ↔ s.start.own = some f.sender ∨ f.payload.kind = 7 := by
  unfold State.discards State.isOwn
  cases f.payload <;> simp [Payload.kind]

/-- Settles O20: the wave is read as the frame (`receiveWave_lineBits`), and R8 and R13 decide what becomes of it. -/
theorem frameReceivedJoinsQueue : Obligations.FrameReceivedJoinsQueue := by
  intro raw ack t s hlen ht hstate htx wave heard
  have hdecodes : s.decodes = true := by
    rcases hstate with ⟨hs, hf⟩ | ⟨hs, hf⟩
    · exact State.decodes_of_following hs hf htx
    · exact State.decodes_of_finishing hs hf htx
  have hacks : s.acknowledges = decide (s.line.state ≠ .listen) := State.acknowledges_eq (by tauto)
  have hexec : exec (.frameReceived wave) s = .next
      (match raw.parse with
        | some f => if ({ s with line := heard } : State).discards f then { s with line := heard }
          else ({ s with line := heard } : State).pushRx f
        | none => { s with line := heard }) := by
    rw [exec_frameReceived ack hlen ht hdecodes, State.rxFrame, hacks] <;> rfl
  refine ⟨fun hnone => ?_, fun f hok hraw => ?_⟩
  · have hparse : raw.parse = none := by
      rw [Option.eq_none_iff_forall_ne_some]
      intro f hf
      obtain ⟨hok, hraw⟩ := (frameParsesAsBuilt raw f).mp hf
      exact hnone f hok hraw
    rw [hexec, hparse]
  · have hparse : raw.parse = some f := (frameParsesAsBuilt raw f).mpr ⟨hok, hraw⟩
    have hiff : ({ s with line := heard } : State).discards f = true ↔
        s.start.own = some f.sender ∨ f.payload.kind = 7 := State.discards_iff
    rw [hparse] at hexec
    refine ⟨fun hd => ?_, fun hd hroom => ?_, fun hd hfull hover => ?_, fun hd hfull hover => ?_⟩
    · rw [hexec]
      dsimp only
      rw [if_pos (hiff.mpr hd)]
    all_goals
      rw [hexec]
      dsimp only
      rw [if_neg (fun h => hd (hiff.mp h)), State.pushRx]
    · rw [if_pos hroom]
    · rw [if_neg (Nat.not_lt.mpr hfull), if_pos hover]
    · have hover' : ¬ ({ s with line := heard } : State).line.overrun = true := by simp [heard, hover]
      rw [if_neg (Nat.not_lt.mpr hfull), if_neg hover']

/-! ### The arbitration field (R3, R14) -/

/-- The lower of two numbers of as many bits is the lower at the first bit that differs. -/
theorem numOfBits_lt_iff {as bs : List Bool} (h : as.length = bs.length) :
    numOfBits as < numOfBits bs ↔
      ∃ k < as.length, as.take k = bs.take k ∧ as[k]? = some false ∧ bs[k]? = some true := by
  induction as generalizing bs with
  | nil =>
    obtain rfl := List.length_eq_zero_iff.mp h.symm
    simp
  | cons a as ih =>
    obtain _ | ⟨b, bs⟩ := bs
    · simp at h
    have hlen : as.length = bs.length := by simpa using h
    have hcons (x : Bool) (xs : List Bool) : numOfBits (x :: xs) = x.toNat * 2 ^ xs.length + numOfBits xs := by
      rw [← List.singleton_append, numOfBits_append]
      simp [numOfBits]
    have hlt := numOfBits_lt as
    have hlt' := numOfBits_lt bs
    rw [hcons, hcons, hlen]
    rw [hlen] at hlt
    have hsplit : (∃ k < (a :: as).length, (a :: as).take k = (b :: bs).take k ∧ (a :: as)[k]? = some false ∧
        (b :: bs)[k]? = some true) ↔ (a = false ∧ b = true) ∨ (a = b ∧ numOfBits as < numOfBits bs) := by
      rw [ih hlen]
      constructor
      · rintro ⟨_ | k, hk, htake, hfalse, htrue⟩
        · exact .inl ⟨Option.some.inj hfalse, Option.some.inj htrue⟩
        · obtain ⟨hab, htake⟩ := List.cons_eq_cons.mp htake
          exact .inr ⟨hab, k, Nat.lt_of_succ_lt_succ hk, htake, hfalse, htrue⟩
      · rintro (⟨rfl, rfl⟩ | ⟨rfl, k, hk, htake, hfalse, htrue⟩)
        · exact ⟨0, Nat.succ_pos _, rfl, rfl, rfl⟩
        · exact ⟨k + 1, Nat.succ_lt_succ hk, by rw [List.take_succ_cons, List.take_succ_cons, htake], hfalse, htrue⟩
    rw [hsplit]
    cases a <;> cases b <;> simp <;> omega

theorem Frame.fieldBits (f : Frame) :
    (f.raw.headBits.drop 1).take 24 = bitsOf f.raw.kind ++ (bitsOf f.rank ++ bitsOf f.sender) := by
  have hk := length_bitsOf f.raw.kind
  have hr := length_bitsOf f.raw.rank
  have hs := length_bitsOf f.raw.sender
  rw [RawFrame.headBits, List.drop_one, List.tail_cons, List.append_assoc, List.append_assoc, ← List.append_assoc (bitsOf _),
    ← List.append_assoc]
  rw [List.take_left' (by simp [hk, hr, hs])]
  simp [Frame.raw]

theorem Frame.numOfBits_field (f : Frame) : numOfBits ((f.raw.headBits.drop 1).take 24) = f.field := by
  rw [f.fieldBits, numOfBits_append, numOfBits_append, numOfBits_bitsOf, numOfBits_bitsOf, numOfBits_bitsOf, f.kind_raw,
    List.length_append, length_bitsOf, length_bitsOf, Frame.field]
  omega

theorem Frame.field_lt_iff (f g : Frame) :
    f.field < g.field ↔ ∃ k < 24, ((f.raw.headBits.drop 1).take k = (g.raw.headBits.drop 1).take k) ∧
      f.raw.headBits[k + 1]? = some false ∧ g.raw.headBits[k + 1]? = some true := by
  have hlen (h : Frame) : ((h.raw.headBits.drop 1).take 24).length = 24 := by
    simp [h.raw.length_headBits]
  rw [← f.numOfBits_field, ← g.numOfBits_field, numOfBits_lt_iff (by rw [hlen, hlen]), hlen]
  refine exists_congr fun k => and_congr_right fun hk => ?_
  simp [List.take_take, hk, hk.le]

/-! ### The head of the transmit queue (R14) -/

theorem headOf_split {l : List TxEntry} (h : l ≠ []) :
    ∃ pre x post, l = pre ++ x :: post ∧ headOf l = some x ∧ (∀ y ∈ pre, x.frame.field < y.frame.field) ∧
      ∀ y ∈ post, x.frame.field ≤ y.frame.field := by
  induction l with
  | nil => exact absurd rfl h
  | cons e es ih =>
    by_cases hes : es = []
    · subst hes
      exact ⟨[], e, [], rfl, rfl, by simp, by simp⟩
    · obtain ⟨pre, x, post, rfl, hhead, hpre, hpost⟩ := ih hes
      by_cases hlt : x.frame.field < e.frame.field
      · exact ⟨e :: pre, x, post, rfl, by simp [headOf, hhead, hlt], by simpa [hlt] using hpre, hpost⟩
      · refine ⟨[], e, pre ++ x :: post, rfl, by simp [headOf, hhead, hlt], by simp, fun y hy => ?_⟩
        rcases List.mem_append.mp hy with hy | hy
        · exact (Nat.not_lt.mp hlt).trans (hpre y hy).le
        · rcases List.mem_cons.mp hy with rfl | hy
          · exact Nat.not_lt.mp hlt
          · exact (Nat.not_lt.mp hlt).trans (hpost y hy)

/-- Settles O22: `headOf_split` names the entry, and the field's bits order as its number does. -/
theorem transmitStartSendsLowestField : Obligations.TransmitStartSendsLowestField := by
  refine ⟨fun s hrun hfollow hsent htx => ?_, fun s hno => ?_, fun f => ⟨rfl, f.numOfBits_field⟩, Frame.field_lt_iff⟩
  · have hstart : s.line.state = .running ∧ s.line.following = true ∧ s.line.sentBits = 0 ∧ s.sending? = none :=
      ⟨hrun, hfollow, hsent, State.sending?_eq_none htx⟩
    refine ⟨fun hnil => ?_, fun hne => ?_⟩
    · change execTransmitStart s = _
      rw [execTransmitStart, if_pos hstart, hnil]
      rfl
    · obtain ⟨pre, x, post, hsplit, hhead, hpre, hpost⟩ := headOf_split hne
      have hx : x ∉ pre := fun hmem => Nat.lt_irrefl _ (hpre x hmem)
      refine ⟨pre, x, post, hsplit, hpre, hpost, ?_⟩
      change execTransmitStart s = _
      rw [execTransmitStart, if_pos hstart, hhead]
      dsimp only
      rw [hsplit, modFirst_append_cons _ hx]
      rfl
  · change execTransmitStart s = _
    rw [execTransmitStart, if_neg]
    rintro ⟨hrun, hfollow, hsent, hnone⟩
    rcases hno with h | h | h | ⟨e, he, h⟩
    · exact h hrun
    · simp [hfollow] at h
    · exact h hsent
    · rw [State.sending?, List.find?_eq_none] at hnone
      exact hnone e he h

end Sys2Proof.Machine
end

section
/-! PROOFS. How a transmission ends (R9 to R12): the comparison of the bits sent, and the entries that stay queued, leave the
queue, or leave it with a withdrawal pending (R16, R24, R25). -/

namespace Sys2Proof.Machine

/-! ### The sender's comparison (R9 to R11) -/

section
variable {arb slot k n : Nat} {acked : Bool} {sent heard : List Bool}

/-- The first difference decides, but in the acknowledge slot. -/
theorem compareSent_difference {b c : Bool} (hb : sent[k]? = some b) (hc : heard[k]? = some c) (hne : b ≠ c)
    (hslot : n + k ≠ slot) (hagree : ∀ j < k, n + j ≠ slot → heard[j]? = sent[j]?) :
    compareSent arb slot acked n sent heard =
      some (if b = true ∧ n + k < arb then .lostArbitration (n + k + 1) else .bitError) := by
  induction k generalizing sent heard n acked with
  | zero =>
    obtain _ | ⟨b', sent⟩ := sent
    · simp at hb
    obtain _ | ⟨c', heard⟩ := heard
    · simp at hc
    obtain rfl : b' = b := by simpa using hb
    obtain rfl : c' = c := by simpa using hc
    rw [Nat.add_zero] at hslot ⊢
    rw [compareSent, if_neg hslot, if_neg hne]
    by_cases h : b' = true ∧ n < arb
    · simp [h]
    · rw [if_neg (by simpa using h), if_neg (by simpa using h)]
  | succ k ih =>
    obtain _ | ⟨b', sent⟩ := sent
    · simp at hb
    obtain _ | ⟨c', heard⟩ := heard
    · simp at hc
    have htail : ∀ j < k, n + 1 + j ≠ slot → heard[j]? = sent[j]? := fun j hj hs => by
      simpa using hagree (j + 1) (by omega) (by omega)
    have hrest (a : Bool) := ih (acked := a) (n := n + 1) (by simpa using hb) (by simpa using hc) (by omega) htail
    rw [show n + 1 + k = n + (k + 1) by omega] at hrest
    rw [compareSent]
    split
    · exact hrest _
    · next hn =>
      have : c' = b' := by simpa using hagree 0 (by omega) (by omega)
      rw [if_pos this.symm, hrest]

/-- With no difference after the slot, the slot decides. -/
theorem compareSent_after_slot (hn : slot < n) (hagree : ∀ j < sent.length, n + j ≠ slot → heard[j]? = sent[j]?) :
    compareSent arb slot acked n sent heard = some (if acked then .success else .noAck) := by
  induction sent generalizing heard n with
  | nil => rw [compareSent]
  | cons b sent ih =>
    obtain _ | ⟨c, heard⟩ := heard
    · simpa using hagree 0 (Nat.succ_pos _) (by omega)
    have hcb : c = b := by simpa using hagree 0 (Nat.succ_pos _) (by omega)
    rw [compareSent, if_neg (by omega), if_pos hcb.symm]
    refine ih (by omega) fun j hj hs => ?_
    simpa using hagree (j + 1) (Nat.succ_lt_succ hj) (by omega)

theorem compareSent_slot {c : Bool} (hk : k < sent.length) (hslot : n + k = slot) (hc : heard[k]? = some c)
    (hagree : ∀ j < sent.length, n + j ≠ slot → heard[j]? = sent[j]?) :
    compareSent arb slot acked n sent heard = some (if c then .noAck else .success) := by
  induction k generalizing sent heard n acked with
  | zero =>
    obtain _ | ⟨b, sent⟩ := sent
    · simp at hk
    obtain _ | ⟨c', heard⟩ := heard
    · simp at hc
    obtain rfl : c' = c := by simpa using hc
    rw [Nat.add_zero] at hslot
    rw [compareSent, if_pos hslot, compareSent_after_slot (by omega) fun j hj hs => by
      simpa using hagree (j + 1) (Nat.succ_lt_succ hj) (by omega)]
    cases c' <;> rfl
  | succ k ih =>
    obtain _ | ⟨b, sent⟩ := sent
    · simp at hk
    obtain _ | ⟨c', heard⟩ := heard
    · simp at hc
    have hcb : c' = b := by simpa using hagree 0 (Nat.succ_pos _) (by omega)
    rw [compareSent, if_neg (by omega), if_pos hcb.symm]
    refine ih (Nat.lt_of_succ_lt_succ hk) (by omega) (by simpa using hc) fun j hj hs => ?_
    simpa using hagree (j + 1) (Nat.succ_lt_succ hj) (by omega)

theorem compareSent_short (hshort : heard.length < sent.length)
    (hagree : ∀ j < heard.length, n + j ≠ slot → heard[j]? = sent[j]?) :
    compareSent arb slot acked n sent heard = none := by
  induction heard generalizing sent n acked with
  | nil =>
    obtain _ | ⟨b, sent⟩ := sent
    · simp at hshort
    · rw [compareSent]
  | cons c heard ih =>
    obtain _ | ⟨b, sent⟩ := sent
    · simp at hshort
    have hrest (a : Bool) := ih (acked := a) (n := n + 1) (Nat.lt_of_succ_lt_succ hshort) fun j hj hs => by
      simpa using hagree (j + 1) (Nat.succ_lt_succ hj) (by omega)
    rw [compareSent]
    split
    · exact hrest _
    · next hn =>
      have : c = b := by simpa using hagree 0 (Nat.succ_pos _) (by omega)
      rw [if_pos this.symm, hrest]

end

/-- The arbitration field ends where the first 25 unstuffed bits do. -/
theorem unstuff_arbitration (f : Frame) :
    ∃ run, unstuff ⟨0, true⟩ 25 (f.raw.lineBits.take (arbitrationEnd f.raw.lineBits)) =
      .ok (f.raw.headBits.take 25, run, []) := by
  obtain ⟨rest, hrest⟩ : ∃ rest, f.raw.lineBits = stuffed 0 true (f.raw.headBits.take 25) ++ rest := by
    have hspan : f.raw.span = f.raw.headBits.take 25 ++ (f.raw.headBits.drop 25 ++
        (f.raw.payload.flatMap bitsOf ++ bitsOf (crc16 f.raw.coveredBits))) := by
      rw [← List.append_assoc, List.take_append_drop, RawFrame.span, RawFrame.coveredBits, List.append_assoc]
    rw [RawFrame.lineBits, hspan, stuff_append, List.append_assoc]
    exact ⟨_, rfl⟩
  have hlen : (f.raw.headBits.take 25).length = 25 := by simp [f.raw.length_headBits]
  have hunstuff (tail : List Bool) := unstuff_stuffed 0 true (f.raw.headBits.take 25) tail
  rw [hlen] at hunstuff
  have hend : arbitrationEnd f.raw.lineBits = (stuffed 0 true (f.raw.headBits.take 25)).length := by
    rw [arbitrationEnd, hrest, hunstuff]
    simp
  have hnil := hunstuff []
  rw [List.append_nil] at hnil
  rw [hend, hrest, List.take_left, hnil]
  exact ⟨_, rfl⟩

/-! ### The room event with no owner to serve (R15) -/

theorem State.roomEvent_of_empty {s : State} (h : s.line.pacing = []) (k : Nat) : s.roomEvent k = s := by
  cases k with
  | zero => rfl
  | succ k => simp [State.roomEvent, h]

theorem State.roomEvent_of_full {s : State} (h : 12 < s.line.tx.length) (k : Nat) : s.roomEvent k = s := by
  cases k with
  | zero => rfl
  | succ k =>
    have hfree : s.freeTx < 4 := by unfold State.freeTx; omega
    unfold State.roomEvent
    split
    · rfl
    · rw [if_pos hfree]

/-! ### The pledges undone (R24) -/

theorem State.undoPledges_eq (s : State) (o : OrderNo) (w : Work) (p : Pledge) :
    s.undoPledges o w p = { s with tables := s.tables.undo o w p } := by
  have hstock : (s.tables.stock.map fun x =>
      if p.serial = some x.serial ∧ x.state = .pledged o then { x with state := .free } else x) =
      match p.serial with
      | some k => s.tables.stock.map fun r =>
          if r.serial = k then (if r.state = .pledged o then { r with state := .free } else r) else r
      | none => s.tables.stock := by
    cases p.serial with
    | none => simp
    | some k =>
      refine List.map_congr_left fun r _ => ?_
      by_cases hk : r.serial = k
      · simp [hk]
      · simp [hk, Ne.symm hk]
  unfold State.undoPledges Records.undo
  rw [hstock]
  cases p.serial <;> cases p.set <;> simp <;> rfl

/-! ### The transmissions that end (R11, R12, R16) -/

section
variable {s : State} {pre post : List TxEntry} {x : TxEntry} {wave : List Bool} {w : RecordWrite}

theorem State.removeWithdrawn_of_not_pending (h : x.withdrawPending = false) : s.removeWithdrawn x = s := by
  rw [State.removeWithdrawn, h]

/-- The Order Book after a withdrawal of an order's BID with a cause, or with none where a RELEASE has cleared it (R25, R31). -/
def State.withdrawnBook (s : State) (o : OrderNo) : Option Cause → Book
  | some (.heard y) => (s.setEntryState o (.takenOther y)).book
  | some .remove => (s.dropEntry o).book
  | some .void => (s.setEntryState o .unbid).book
  | none => (s.setEntryState o (.window (s.time.ms + BitVec.ofNat 32 (10 * s.cfg.bidWindow)))).book

theorem State.bidWithdrawn_eq {o : OrderNo} {e : Entry} {p : Pledge} {q : PendingWithdrawal} (cause : Option Cause)
    (he : s.entry? o = some e) (hq : e.state = .queued p q) :
    s.bidWithdrawn o cause = { s with tables := s.tables.undo o e.work p, book := s.withdrawnBook o cause } := by
  rw [State.bidWithdrawn, he]
  simp only [hq, State.undoPledges_eq]
  rcases cause with _ | _ | _ | _
  · rw [State.windowMs, Nat.mul_comm]
    rfl
  all_goals rfl

/-- The queued BID of an entry whose withdrawal was awaited goes, its pledges are undone, and no owner waits for room. -/
theorem State.removeWithdrawn_eq {o : OrderNo} {path : Path} {e : Entry} {p : Pledge} {cause : Option Cause}
    (htx : s.line.tx = pre ++ { x with inTransmission := false } :: post)
    (hpre : { x with inTransmission := false } ∉ pre) (hpending : x.withdrawPending = true)
    (hbid : x.frame.payload = .bid o path) (hpacing : s.line.pacing = []) (he : s.entry? o = some e)
    (hq : e.state = .queued p (.awaited cause)) :
    s.removeWithdrawn x =
      { s with
        line := { s.line with tx := pre ++ post }
        tables := s.tables.undo o e.work p
        book := s.withdrawnBook o cause } := by
  have he' : ({ s with line := { s.line with tx := pre ++ post } } : State).entry? o = some e := he
  unfold State.removeWithdrawn
  split
  case h_2 hno => exact (hno o hpending (by rw [hbid]; rfl)).elim
  next o' _ ho =>
  obtain rfl : o = o' := by simpa [hbid, Payload.bidOrder] using ho
  simp only [he, Option.map_some, Option.getD_some, hq, EntryState.pendingCause]
  rw [State.dropTx_eq htx hpre, State.bidWithdrawn_eq cause he' hq]
  rw [State.roomEvent_of_empty]
  · rcases cause with _ | _ | _ | _ <;> rfl
  · exact hpacing

variable (htx : s.line.tx = pre ++ x :: post) (hpre : ∀ y ∈ pre, y.inTransmission = false)
  (hx : x.inTransmission = true)
include htx hpre hx

theorem exec_lostArbitration {k : Nat} (hout : s.sendOutcome wave = some (.lostArbitration k)) :
    exec (.lostArbitration ⟨wave, w⟩) s = .next (finish w
      (({ s with
          line :=
            { s.line with
              tx := pre ++ { x with inTransmission := false } :: post, driving := [], sentBits := k } } : State).removeWithdrawn
        x)) := by
  change execLostArbitration ⟨wave, w⟩ s = _
  rw [execLostArbitration, State.sending?_eq_some htx hpre hx, hout]
  dsimp only
  rw [State.loseArbitration, State.stopSending_eq htx (not_mem_of_sending hpre hx)]

theorem exec_transmitFailure {why : TxOutcome} (hout : s.sendOutcome wave = some why)
    (hwhy : why = .bitError ∨ why = .noAck) :
    exec (.transmitFailure wave w) s = .next (finish w
      (({ s with
          line :=
            { s.line with
              tx := pre ++ { x with inTransmission := false } :: post, driving := []
              following := s.line.following && decide (why = .noAck) } } : State).countFailure.removeWithdrawn x)) := by
  change execTransmitFailure wave w s = _
  rw [execTransmitFailure, State.sending?_eq_some htx hpre hx, hout]
  rcases hwhy with rfl | rfl
  · dsimp only
    rw [State.stopSending_eq htx (not_mem_of_sending hpre hx)]
    simp
  · dsimp only
    rw [State.stopSending_eq htx (not_mem_of_sending hpre hx)]
    simp

theorem exec_transmitSuccess (hout : s.sendOutcome wave = some .success) :
    exec (.transmitSuccess ⟨wave, w⟩) s = .next (finish w
      ((({ s with line := { s.line with tx := pre ++ post, failCount := 0, driving := [] } } : State).completion
        x.frame.payload).roomEvent 5)) := by
  change execTransmitSuccess ⟨wave, w⟩ s = _
  rw [execTransmitSuccess, State.sending?_eq_some htx hpre hx, hout]
  dsimp only
  rw [State.dropTx_eq htx (not_mem_of_sending hpre hx)]

end

theorem State.countFailure_of_lt {s : State} (h : s.line.failCount + 1 < 16 ∨ s.line.state ≠ .running) :
    s.countFailure = { s with line := { s.line with failCount := s.line.failCount + 1 } } := by
  rw [State.countFailure, if_neg]
  rintro ⟨hcount, hrun⟩
  rcases h with h | h
  · exact absurd hcount (Nat.not_le.mpr h)
  · exact h hrun

/-- R12: the sixteenth failure in RUNNING mutes the line for 2 s. -/
theorem State.countFailure_of_sixteen {s : State} (h : 16 ≤ s.line.failCount + 1) (hrun : s.line.state = .running) :
    s.countFailure =
      ({ s with
        line :=
          { s.line with
            failCount := s.line.failCount + 1, state := .muted, muteDeadline := some (s.time.ms + 2000) } }).raise
        .lineMuted := by
  rw [State.countFailure, if_pos ⟨h, hrun⟩]
  rfl

/-- Settles O23: the comparison by the first difference, and each outcome's event on an entry with no withdrawal
pending. -/
theorem failedTransmissionStaysQueued : Obligations.FailedTransmissionStaysQueued := by
  refine ⟨fun sent heard => ⟨fun i b c hb hc hne hslot hagree => ?_, fun hlen hagree => ?_, fun hshort hagree => ?_⟩,
    unstuff_arbitration, fun s pre post x wave w htx hpre hx hpending => ?_⟩
  · have := compareSent_difference (arb := arbitrationEnd sent) (acked := false) (n := 0) hb hc hne
      (by rwa [Nat.zero_add]) (by simpa using hagree)
    rwa [Nat.zero_add] at this
  · have hk : sent.length - 10 < sent.length := by omega
    have hdecide (c : Bool) (hc : heard[sent.length - 10]? = some c) : txOutcome sent heard =
        some (if c then .noAck else .success) :=
      compareSent_slot hk (Nat.zero_add _) hc fun j hj hs => hagree j hj (by simpa [sentSlot] using hs)
    exact ⟨fun hc => hdecide false hc, fun hc => hdecide true hc⟩
  · exact compareSent_short hshort fun j hj hs => hagree j hj (by simpa [sentSlot] using hs)
  · have hsending := State.sending?_eq_some htx hpre hx
    refine ⟨fun t heard ht hwave => ?_, fun k hout => ?_, fun hout => ?_, fun why hout hwhy => ⟨fun hcount => ?_,
      fun hcount hrun => ?_⟩, fun hbit hack => ?_, fun hout => ?_⟩
    · rw [State.sendOutcome, ht, hwave, Option.bind_some, waveOutcome, sampledBits, sampleWave_waveOf]
    · rw [exec_lostArbitration htx hpre hx hout, State.removeWithdrawn_of_not_pending hpending]
      exact .of_eq rfl
    · change execLostArbitration ⟨wave, w⟩ s = _
      rw [execLostArbitration, hsending]
      split
      next y k hs hout' => exact absurd hout' (hout k)
      next => rfl
    · rw [exec_transmitFailure htx hpre hx hout hwhy, State.countFailure_of_lt, State.removeWithdrawn_of_not_pending hpending]
      · exact .of_eq rfl
      · exact hcount
    · rw [exec_transmitFailure htx hpre hx hout hwhy, State.countFailure_of_sixteen, State.removeWithdrawn_of_not_pending hpending]
      · exact .of_eq rfl
      · exact hcount
      · exact hrun
    · change execTransmitFailure wave w s = _
      rw [execTransmitFailure, hsending]
      split
      next hout => exact absurd hout hbit
      next hout => exact absurd hout hack
      next => rfl
    · change execTransmitSuccess ⟨wave, w⟩ s = _
      rw [execTransmitSuccess, hsending]
      split
      next hout' => exact absurd hout' hout
      next => rfl

/-- Settles O24: `State.removeWithdrawn_eq` after the sending has stopped. -/
theorem withdrawnBidTakesOutcome : Obligations.WithdrawnBidTakesOutcome := by
  intro s pre post x wave w o path e p cause htx hpre hx hpending hbid hpacing he hq book
  have hpre' : ∀ y ∈ pre, y.inTransmission = false := fun y hy => (hpre y hy).1
  have hbook : book = s.withdrawnBook o cause := by
    rcases cause with _ | _ | _ | _ <;> rfl
  rw [hbook]
  have hnot : { x with inTransmission := false } ∉ pre := fun hmem => (hpre _ hmem).2 rfl
  refine ⟨fun k hout => ?_, fun why hout hwhy hcount => ?_⟩
  · rw [exec_lostArbitration htx hpre' hx hout,
      State.removeWithdrawn_eq (pre := pre) (post := post) (o := o) (path := path) (e := e) (p := p) (cause := cause)]
    exacts [.of_eq rfl, rfl, hnot, hpending, hbid, hpacing, he, hq]
  · rw [exec_transmitFailure htx hpre' hx hout hwhy, State.countFailure_of_lt,
      State.removeWithdrawn_eq (pre := pre) (post := post) (o := o) (path := path) (e := e) (p := p) (cause := cause)]
    exacts [.of_eq rfl, rfl, hnot, hpending, hbid, hpacing, he, hq, .inl (Nat.succ_lt_succ hcount)]

/-- Settles O25: the completion of a HELD changes its entry's mark alone, and that of a paced kind nothing. -/
theorem successLeavesQueue : Obligations.SuccessLeavesQueue := by
  intro s pre post x wave w htx hpre hx hout hpacing line
  refine ⟨fun o hheld => ?_, fun hkind => ?_⟩
  · rw [exec_transmitSuccess htx hpre hx hout, hheld, State.completion, State.roomEvent_of_empty]
    exacts [.of_eq rfl, hpacing]
  · have hcompletion (t : State) : t.completion x.frame.payload = t := by
      cases hp : x.frame.payload with
      | held _ | bid _ _ => simp [hp, Payload.kind] at hkind
      | _ => rfl
    rw [exec_transmitSuccess htx hpre hx hout, hcompletion, State.roomEvent_of_empty]
    exacts [.of_eq rfl, hpacing]

end Sys2Proof.Machine
end

section
/-! PROOFS. The Order Book's own decisions (R18 to R24): the filter hit, the booking of an ORDER, the eviction and the window
expiry. -/

namespace Sys2Proof.Machine

/-! ### Searches -/

/-- The first of the numbered records that passes a test. -/
theorem find?_finRange_eq_some_iff {n : Nat} {p : Fin n → Bool} {i : Fin n} :
    (List.finRange n).find? p = some i ↔ p i = true ∧ ∀ j < i, p j = false := by
  rw [List.find?_eq_some_iff_getElem]
  simp only [List.getElem_finRange, List.length_finRange, Bool.not_eq_true']
  constructor
  · rintro ⟨hp, k, hk, rfl, hmin⟩
    exact ⟨hp, fun j hj => hmin j.val hj⟩
  · rintro ⟨hp, hmin⟩
    exact ⟨hp, i.val, i.isLt, rfl, fun j hj => hmin ⟨j, hj.trans i.isLt⟩ hj⟩

theorem find?_finRange_eq_none_iff {n : Nat} {p : Fin n → Bool} :
    (List.finRange n).find? p = none ↔ ∀ i, p i = false := by
  simp

theorem find?_append_cons {α : Type} {p : α → Bool} {pre post : List α} {x : α} (hpre : ∀ y ∈ pre, p y = false)
    (hx : p x = true) : (pre ++ x :: post).find? p = some x :=
  List.find?_eq_some_iff_append.mpr ⟨hx, pre, post, rfl, fun y hy => by rw [hpre y hy]; rfl⟩

theorem find?_none {α : Type} {p : α → Bool} {l : List α} (h : ∀ y ∈ l, p y = false) : l.find? p = none :=
  List.find?_eq_none.mpr fun y hy => by simp [h y hy]

/-! ### The filter hit (R18) -/

theorem filterMatches_iff (f : Filter) (t : Title) (fmt : Format) :
    filterMatches f t fmt = true ↔
      (∀ b < 20, f.mask.getLsbD b = true → t.getLsbD b = f.value.getLsbD b) ∧
      ((fmt = .cartridge ∧ f.cartridge = true) ∨ (fmt = .braille ∧ f.braille = true) ∨ (fmt = .both ∧ f.both = true)) := by
  have hbits : (t &&& f.mask == f.value &&& f.mask) = true ↔
      ∀ b < 20, f.mask.getLsbD b = true → t.getLsbD b = f.value.getLsbD b := by
    rw [beq_iff_eq]
    constructor
    · intro h b _ hb
      have := congrArg (·.getLsbD b) h
      simpa [hb] using this
    · intro h
      refine BitVec.eq_of_getLsbD_eq fun b hb => ?_
      cases hm : f.mask.getLsbD b with
      | false => simp [hm]
      | true => simp [hm, h b hb hm]
  unfold filterMatches
  rw [Bool.and_eq_true, hbits]
  cases fmt <;> simp

/-- Settles O31: `State.filterHit` is a search in filter order. -/
theorem filterHitIsLowest : Obligations.FilterHitIsLowest := by
  intro s t f hits
  have hiff (i : Idx8) : (s.cfg.filters[i].enabled && filterMatches s.cfg.filters[i] t f) = true ↔ hits i := by
    rw [Bool.and_eq_true, filterMatches_iff]
  constructor
  · intro h
    rw [State.filterHit, allSockets, find?_finRange_eq_some_iff]
    exact and_congr (hiff h) (forall₂_congr fun i _ => by rw [← hiff i, Bool.not_eq_true])
  · rw [State.filterHit, allSockets, find?_finRange_eq_none_iff]
    exact forall_congr' fun i => by rw [← hiff i, Bool.not_eq_true]

/-! ### An ORDER (R20, R21) -/

section
variable {s : State} {rest : List RxEntry} {time : Millis} {rank : BitVec 14} {desk : Station}

theorem State.popRx_eq {r : RxEntry} (h : s.line.rx = r :: rest) :
    s.popRx = { s with line := { s.line with rx := rest, overrun := s.line.overrun && !rest.isEmpty } } := by
  rw [State.popRx, h, List.tail_cons]

theorem State.rxHead?_eq {r : RxEntry} (h : s.line.rx = r :: rest) : s.rxHead? = some r := by
  rw [State.rxHead?, h, List.head?_cons]

theorem exec_order {o : OrderNo} {patron : Patron} {work : Work} {format : Format} {zone : Zone}
    (h : s.line.rx = ⟨⟨rank, desk, .order o patron work format zone⟩, time⟩ :: rest) :
    exec .order s = .next (s.popRx.bookOrder
      (s.popRx.newEntry ⟨rank, desk, .order o patron work format zone⟩ time o patron work format zone)) := by
  change execOrder s = _
  rw [execOrder, State.rxHead?_eq h]

end

theorem State.bookOrder_ignored {s : State} {e : Entry} (h : (∃ y, s.entry? e.order = some y) ∨ e.hit = none) :
    s.bookOrder e = s := by
  refine if_pos ?_
  rcases h with ⟨y, hy⟩ | h
  · simp [hy]
  · simp [h]

theorem State.bookOrder_eq {s : State} {e : Entry} {h : Idx8} (hno : s.entry? e.order = none) (hhit : e.hit = some h) :
    s.bookOrder e = (s.bookRoom.map (·.addEntry e)).getD s := by
  rw [State.bookOrder, if_neg (by simp [hno, hhit])]
  cases s.bookRoom <;> rfl

theorem State.windowMs_eq (s : State) : s.windowMs = BitVec.ofNat 32 (10 * s.cfg.bidWindow) := by
  rw [State.windowMs, Nat.mul_comm]

/-- Settles O32. -/
theorem orderIsBooked : Obligations.OrderIsBooked := by
  intro s rest time rank desk o patron work format zone hrx t
  have ht : s.popRx = t := State.popRx_eq hrx
  rw [exec_order hrx, ht]
  refine ⟨fun h => ?_, fun h hno hhit hroom => ?_⟩
  · rw [State.bookOrder_ignored h]
  · rw [State.bookOrder_eq hno hhit, State.bookRoom, if_pos hroom]
    simp only [Option.map_some, Option.getD_some, State.addEntry, State.newEntry, State.windowMs_eq]
    rw [show t.filterHit work.title format = some h from hhit]
    rfl

/-- R20: the entry evicted is the oldest in TAKEN(other), and else the oldest in UNBID, of those that owe nothing. -/
theorem Book.evictee_other {b : Book} {pre post : List Entry} {v : Entry} (h : b.entries = pre ++ v :: post)
    (hv : v.owed = none ∧ ∃ x, v.state = .takenOther x) (hpre : ∀ y ∈ pre, ¬ (y.owed = none ∧ ∃ x, y.state = .takenOther x)) :
    b.evictee = some v := by
  obtain ⟨howed, x, hx⟩ := hv
  rw [Book.evictee, h, find?_append_cons, Option.some_or]
  · intro y hy
    have := hpre y hy
    cases ho : y.owed with
    | some _ => simp
    | none => cases hs : y.state <;> simp_all
  · simp [howed, hx]

theorem Book.evictee_eq_of_no_other {b : Book} (h : ∀ y ∈ b.entries, ¬ (y.owed = none ∧ ∃ x, y.state = .takenOther x)) :
    b.evictee = b.entries.find? fun e => e.owed.isNone && e.state == .unbid := by
  rw [Book.evictee, find?_none, Option.none_or]
  intro y hy
  have := h y hy
  cases ho : y.owed with
  | some _ => simp
  | none => cases hs : y.state <;> simp_all

/-- Settles O33: the book is full, so `Book.evictee` decides. -/
theorem fullBookEvicts : Obligations.FullBookEvicts := by
  intro s rest time rank desk o patron work format zone h hrx hno hhit hfull other unbid booked
  have hexec := exec_order hrx
  have hfull' : ¬ s.popRx.book.entries.length < 96 := by
    change ¬ s.book.entries.length < 96
    omega
  rw [State.bookOrder_eq (s := s.popRx)
    (e := s.popRx.newEntry ⟨rank, desk, .order o patron work format zone⟩ time o patron work format zone) hno hhit,
    State.bookRoom, if_neg hfull'] at hexec
  have hevicts (v : Entry) (hv : s.book.evictee = some v) : booked v := by
    rw [show s.popRx.book.evictee = some v from hv] at hexec
    exact ⟨_, rfl, rfl, hexec⟩
  refine ⟨fun pre v post hsplit hv hpre => hevicts v (Book.evictee_other hsplit hv hpre), fun hnone pre v post hsplit hv hpre => ?_,
    fun hnone => ?_⟩
  · refine hevicts v ?_
    rw [Book.evictee_eq_of_no_other hnone, hsplit, find?_append_cons]
    · intro y hy
      have := hpre y hy
      cases ho : y.owed with
      | some _ => simp
      | none => simpa [unbid, ho] using this
    · simp [hv.1, hv.2]
  · have hnot : s.book.evictee = none := by
      rw [Book.evictee_eq_of_no_other fun y hy => (hnone y hy).1, find?_none]
      intro y hy
      have := (hnone y hy).2
      cases ho : y.owed with
      | some _ => simp
      | none => simpa [unbid, ho] using this
    rw [hexec, show s.popRx.book.evictee = none from hnot]
    rfl

/-! ### The window expiry (R22 to R24) -/

theorem State.makePledges_eq (s : State) (o : OrderNo) (w : Work) (serial : Option Serial) (set : Bool) :
    s.makePledges o w serial set =
      { s with
        tables :=
          { s.tables with
            stock := s.tables.stock.map fun x => if serial = some x.serial then { x with state := .pledged o } else x
            sets := s.tables.sets.map fun x =>
              if set = true ∧ x.work = w then { x with pledged := x.pledged + 1 } else x } } := by
  have hstock : (s.tables.stock.map fun x => if serial = some x.serial then { x with state := .pledged o } else x) =
      match serial with
      | some k => s.tables.stock.map fun r => if r.serial = k then { r with state := .pledged o } else r
      | none => s.tables.stock := by
    cases serial with
    | none => simp
    | some k =>
      refine List.map_congr_left fun r _ => ?_
      by_cases hk : r.serial = k
      · simp [hk]
      · simp [hk, Ne.symm hk]
  unfold State.makePledges
  rw [hstock]
  cases serial <;> cases set <;> simp <;> rfl

theorem State.windowDue_iff {s : State} {e : Entry} :
    s.windowDue e = true ↔ ∃ d, e.state = .window d ∧ (s.time.ms - d).toNat < 2147483648 := by
  unfold State.windowDue State.reached
  cases e.state <;> simp

theorem State.expireWindow_passed {s : State} {e : Entry}
    (h : (s.line.state = .listen ∨ e.excluded = true) ∨ s.bid e.work e.format e.hit = none ∨ 16 ≤ s.line.tx.length) :
    s.expireWindow e = s.setEntryState e.order .unbid := by
  unfold State.expireWindow
  split
  · rfl
  next hlisten =>
    cases hbid : s.bid e.work e.format e.hit with
    | none => rfl
    | some a =>
      have hfull : 16 ≤ s.line.tx.length := by
        rcases h with h | h | h
        · exact absurd h hlisten
        · rw [hbid] at h; cases h
        · exact h
      dsimp only
      rw [State.placeBid, State.makePledges_eq, State.offerUrgent_of_full]
      exact hfull

/-- Settles O40: the entry found decides the event, and `State.expireWindow` its end. -/
theorem windowExpiryDecides : Obligations.WindowExpiryDecides := by
  intro s w due
  have hdue (e : Entry) : s.windowDue e = true ↔ due e := State.windowDue_iff
  have hnot (e : Entry) (h : ¬ due e) : s.windowDue e = false := by rwa [← hdue, Bool.not_eq_true] at h
  refine ⟨fun o hnone => ?_, fun pre e post hsplit he hpre => ?_⟩
  · change execWindowExpiry o w s = _
    rw [execWindowExpiry, find?_none fun e hm => hnot e (hnone e hm)]
  · intro r passed
    have hfind : s.book.entries.find? s.windowDue = some e := by
      rw [hsplit, find?_append_cons (fun y hy => hnot y (hpre y hy)) ((hdue e).mpr he)]
    have hr : r = .next (finish w (s.expireWindow e)) := by
      change execWindowExpiry e.order w s = _
      rw [execWindowExpiry, hfind]
      exact congrArg _ (if_pos rfl)
    have hpassed (h : (s.line.state = .listen ∨ e.excluded = true) ∨ s.bid e.work e.format e.hit = none ∨
        16 ≤ s.line.tx.length) : Ends r w passed := by
      rw [State.expireWindow_passed h] at hr
      exact .of_eq hr
    refine ⟨fun o ho => ?_, fun h => hpassed (.inl h), fun h => hpassed (.inr (.inl h)), fun h => hpassed (.inr (.inr h)),
      fun a hstate hexcl hbid hroom => ?_⟩
    · change execWindowExpiry o w s = _
      rw [execWindowExpiry, hfind]
      exact congrArg _ (if_neg ho.symm)
    · have hopen : ¬ (s.line.state = .listen ∨ e.excluded = true) := by simp [hstate, hexcl]
      rw [State.expireWindow, if_neg hopen, hbid] at hr
      dsimp only at hr
      rw [State.placeBid, State.makePledges_eq, State.offerUrgent_of_lt] at hr
      · exact .of_eq hr
      · exact hroom

end Sys2Proof.Machine
end

section
/-! PROOFS. Frames heard (R27, R31, R149): the withdrawal of a queued BID (R16, R25), a HELD sent (R29), a RELEASE, and a
cartridge return (R66, R67). -/

namespace Sys2Proof.Machine

/-! ### The withdrawal of a queued BID (R16, R25) -/

/-- The entry of the transmit queue that holds an order's BID, first among them (R16). -/
def BidAt (tx pre : List TxEntry) (b : TxEntry) (post : List TxEntry) (o : OrderNo) : Prop :=
  tx = pre ++ b :: post ∧ (∀ y ∈ pre, ∀ z, y.frame.payload ≠ .bid o z) ∧ ∃ z, b.frame.payload = .bid o z

theorem BidAt.not_mem {tx pre post : List TxEntry} {b : TxEntry} {o : OrderNo} (h : BidAt tx pre b post o) : b ∉ pre := by
  obtain ⟨-, hpre, z, hz⟩ := h
  exact fun hmem => hpre b hmem z hz

theorem State.bidOf?_eq {s : State} {pre post : List TxEntry} {b : TxEntry} {o : OrderNo}
    (h : BidAt s.line.tx pre b post o) : s.bidOf? o = some b := by
  obtain ⟨htx, hpre, z, hz⟩ := h
  unfold State.bidOf?
  rw [htx]
  refine find?_append_cons (fun y hy => ?_) (by simp [hz])
  have hno := hpre y hy
  cases hp : y.frame.payload with
  | bid x z => simpa [hp] using hno z
  | _ => rfl

section
variable {s : State} {o : OrderNo} {e : Entry} {p : Pledge} (cause : Cause) (he : s.entry? o = some e)
include he

/-- While an answer is awaited, the cause raised takes its place by the rules of R25. -/
theorem State.withdrawBid_awaited {c : Option Cause} (hq : e.state = .queued p (.awaited c)) :
    s.withdrawBid o cause = s.setEntryState o (.queued p (.awaited (some (cause.replaces c)))) := by
  unfold State.withdrawBid
  rw [he]
  simp only [hq]

/-- A BID in transmission is marked, and its outcome awaited (R16). -/
theorem State.withdrawBid_sending {pre post : List TxEntry} {b : TxEntry} (hq : e.state = .queued p .none)
    (hb : BidAt s.line.tx pre b post o) (hsending : b.inTransmission = true) :
    s.withdrawBid o cause =
      { s with
        line := { s.line with tx := pre ++ { b with withdrawPending := true } :: post }
        book := (s.setEntryState o (.queued p (.awaited (some cause)))).book } := by
  have htx : (s.setEntryState o (.queued p (.awaited (some cause)))).line.tx = pre ++ b :: post := hb.1
  unfold State.withdrawBid
  rw [he]
  simp only [hq, State.bidOf?_eq hb, hsending, if_true, htx, modFirst_append_cons _ hb.not_mem]
  rfl

/-- A BID not in transmission leaves the queue at once; with no owner waiting, nothing follows (R15, R25). -/
theorem State.withdrawBid_queued {pre post : List TxEntry} {b : TxEntry} (hq : e.state = .queued p .none)
    (hb : BidAt s.line.tx pre b post o) (hsending : b.inTransmission = false) (hpacing : s.line.pacing = []) :
    s.withdrawBid o cause =
      { s with
        line := { s.line with tx := pre ++ post }, tables := s.tables.undo o e.work p
        book := s.withdrawnBook o (some cause) } := by
  have he' : ({ s with line := { s.line with tx := pre ++ post } } : State).entry? o = some e := he
  unfold State.withdrawBid
  rw [he]
  simp only [hq, State.bidOf?_eq hb, hsending, Bool.false_eq_true, if_false]
  rw [State.dropTx_eq hb.1 hb.not_mem, State.bidWithdrawn_eq _ he' hq, State.roomEvent_of_empty]
  · cases cause <;> rfl
  · exact hpacing

end

theorem Cause.replaces_heard (x : Station) (c : Option Cause) :
    some ((Cause.heard x).replaces c) = if c = none ∨ c = some .void then some (.heard x) else c := by
  rcases c with _ | _ | _ | _ <;> simp [Cause.replaces]

theorem Cause.replaces_remove (c : Option Cause) : Cause.remove.replaces c = .remove := by
  cases c <;> rfl

/-! ### A HELD of this station (R14, R29) -/

section
variable {s : State} {e : Entry}

theorem State.heldQueuedInTx_iff {o : OrderNo} :
    s.heldQueuedInTx o = true ↔ ∃ y ∈ s.line.tx, y.frame.payload = .held o := by
  simp [State.heldQueuedInTx]

theorem State.sendHeld_sent (hmark : e.heldQueued = false) (htx : ∀ y ∈ s.line.tx, y.frame.payload ≠ .held e.order)
    (hroom : s.line.tx.length < 16) :
    s.sendHeld e =
      (s.modEntry e.order fun e => { e with heldQueued := true }).pushTx ⟨0, s.start.own.getD 0, .held e.order⟩ := by
  have hno : s.heldQueuedInTx e.order = false := by
    rw [← Bool.not_eq_true, State.heldQueuedInTx_iff]
    rintro ⟨y, hy, hp⟩
    exact htx y hy hp
  rw [State.sendHeld, if_neg (by simp [hmark, hno]), State.offerUrgent_of_lt _ _ hroom]
  rfl

theorem State.sendHeld_not_sent
    (h : e.heldQueued = true ∨ (∃ y ∈ s.line.tx, y.frame.payload = .held e.order) ∨ 16 ≤ s.line.tx.length) :
    s.sendHeld e = s := by
  unfold State.sendHeld
  split
  · rfl
  next hno =>
    rw [← State.heldQueuedInTx_iff] at h
    have hfull : 16 ≤ s.line.tx.length := by
      rcases h with h | h | h
      · simp [h] at hno
      · simp [h] at hno
      · exact h
    rw [State.offerUrgent_of_full _ _ hfull]

end

theorem State.entry?_order {s : State} {o : OrderNo} {e : Entry} (h : s.entry? o = some e) : e.order = o := by
  simpa using List.find?_some h

/-! ### A BID heard (R27) -/

section
variable {s : State} {rest : List RxEntry} {time : Millis} {rank : BitVec 14} {x : Station} {o : OrderNo} (w : RecordWrite)

theorem exec_bidHeard {path : Path} (h : s.line.rx = ⟨⟨rank, x, .bid o path⟩, time⟩ :: rest) :
    exec (.bidHeard w) s = .next (finish w (s.popRx.heardHolder o x)) := by
  change execBidHeard w s = _
  rw [execBidHeard, State.rxHead?_eq h]

end

section
variable {s : State} {o : OrderNo} {e : Entry} (x : Station) (he : s.entry? o = some e)
include he

theorem State.heardHolder_open (h : (∃ d, e.state = .window d) ∨ e.state = .unbid) :
    s.heardHolder o x = s.setEntryState o (.takenOther x) := by
  rw [State.heardHolder, he]
  rcases h with ⟨d, h⟩ | h <;> simp only [h]

theorem State.heardHolder_takenOther {y : Station} (h : e.state = .takenOther y) : s.heardHolder o x = s := by
  rw [State.heardHolder, he]
  simp only [h]

theorem State.heardHolder_takenSelf {n : LoanNo} (h : e.state = .takenSelf n) : s.heardHolder o x = s.sendHeld e := by
  rw [State.heardHolder, he]
  simp only [h]

theorem State.heardHolder_queued {p : Pledge} {q : PendingWithdrawal} (h : e.state = .queued p q) :
    s.heardHolder o x = s.withdrawBid o (.heard x) := by
  rw [State.heardHolder, he]
  simp only [h]

end

theorem State.heardHolder_unbooked {s : State} {o : OrderNo} (x : Station) (h : s.entry? o = none) : s.heardHolder o x = s := by
  rw [State.heardHolder, h]

/-- Settles O34: the entry's state picks the branch of `State.heardHolder`. -/
theorem bidHeardByState : Obligations.BidHeardByState := by
  intro s rest time rank x o path w hrx t
  have hexec := exec_bidHeard w hrx
  have ht (e : Entry) (he : s.entry? o = some e) : t.entry? o = some e := he
  refine ⟨fun hno => ?_, fun e he hopen => ?_, fun e y he hy => ?_, fun e n he hn hmark htx hroom => ?_,
    fun e n he hn hheld => ?_, fun e p c he hq => ?_, fun e p pre b post he hq htx hpre hb => ⟨fun hsend hpacing => ?_,
      fun hsend => ?_⟩⟩
  · rw [State.heardHolder_unbooked (s := s.popRx) x hno] at hexec
    exact .of_eq hexec
  · rw [State.heardHolder_open x (ht e he) hopen] at hexec
    exact .of_eq hexec
  · rw [State.heardHolder_takenOther x (ht e he) hy] at hexec
    exact .of_eq hexec
  · obtain rfl := State.entry?_order he
    rw [State.heardHolder_takenSelf x (ht e he) hn, State.sendHeld_sent (s := t) hmark htx hroom] at hexec
    exact .of_eq hexec
  · obtain rfl := State.entry?_order he
    rw [State.heardHolder_takenSelf x (ht e he) hn, State.sendHeld_not_sent (s := t) hheld] at hexec
    exact .of_eq hexec
  · rw [State.heardHolder_queued x (ht e he) hq, State.withdrawBid_awaited _ (ht e he) hq, Cause.replaces_heard] at hexec
    exact .of_eq hexec
  · rw [State.heardHolder_queued x (ht e he) hq,
      State.withdrawBid_queued (s := t) _ (ht e he) hq ⟨htx, hpre, hb⟩ hsend hpacing] at hexec
    exact .of_eq hexec
  · rw [State.heardHolder_queued x (ht e he) hq,
      State.withdrawBid_sending (s := t) _ (ht e he) hq ⟨htx, hpre, hb⟩ hsend] at hexec
    exact .of_eq hexec

/-! ### A RELEASE heard (R31, R35) -/

section
variable {s : State} {rest : List RxEntry} {time : Millis} {rank : BitVec 14} {x : Station} {o : OrderNo} (w : RecordWrite)

theorem exec_releaseHeard {c : BitVec 2} {why : Reason} (h : s.line.rx = ⟨⟨rank, x, .release o c why⟩, time⟩ :: rest) :
    exec (.releaseHeard w) s = .next (finish w (s.popRx.heardRelease o c time)) := by
  change execReleaseHeard w s = _
  rw [execReleaseHeard, State.rxHead?_eq h]

end

theorem State.heardRelease_ignored {s : State} {o : OrderNo} {c : BitVec 2} (time : Millis)
    (h : ∀ e, s.entry? o = some e → c ≤ e.releaseCount) : s.heardRelease o c time = s := by
  rw [State.heardRelease]
  cases he : s.entry? o with
  | none => rfl
  | some e => exact if_neg (BitVec.not_lt.mpr (h e he))

theorem State.heardRelease_taken {s : State} {o : OrderNo} {c : BitVec 2} {e : Entry} (time : Millis)
    (he : s.entry? o = some e) (hc : e.releaseCount < c) : s.heardRelease o c time = s.reopenOrder e c time := by
  rw [State.heardRelease, he]
  exact if_pos hc

/-- Two changes of an order's entry are one. -/
theorem State.modEntry_modEntry {s : State} {o : OrderNo} {f g : Entry → Entry} (hf : ∀ y, (f y).order = y.order) :
    (s.modEntry o f).modEntry o g = s.modEntry o fun y => g (f y) := by
  simp only [State.modEntry, changed_twice hf]

theorem State.modEntry_setEntryState {s : State} {o : OrderNo} {f : Entry → Entry} (st : EntryState)
    (hf : ∀ y, (f y).order = y.order) : (s.modEntry o f).setEntryState o st = s.modEntry o fun y => { f y with state := st } :=
  State.modEntry_modEntry hf

theorem State.modEntry_dropEntry {s : State} {o : OrderNo} {f : Entry → Entry} (hf : ∀ y, (f y).order = y.order) :
    (s.modEntry o f).dropEntry o = s.dropEntry o := by
  simp only [State.modEntry, State.dropEntry, filter_changed hf]

/-- Settles O37: the count decides whether the RELEASE is taken, and the entry's state what it does. -/
theorem releaseHeardByCount : Obligations.ReleaseHeardByCount := by
  intro s rest time rank x o c why w hrx t r
  have hexec : r = .next (finish w (t.heardRelease o c time)) := exec_releaseHeard w hrx
  refine ⟨fun hno => ?_, fun e he hle => ?_, fun e he hlt => ?_⟩
  · rw [State.heardRelease_ignored time fun e he => by rw [show t.entry? o = none from hno] at he; cases he] at hexec
    exact .of_eq hexec
  · rw [State.heardRelease_ignored time fun e' he' => by
      obtain rfl := Option.some.inj ((show t.entry? o = some e from he).symm.trans he')
      exact hle] at hexec
    exact .of_eq hexec
  · have ho := State.entry?_order he
    rw [State.heardRelease_taken time (show t.entry? o = some e from he) hlt, State.reopenOrder, ho] at hexec
    have hcounted : (t.setCount o c).entry? o = some { e with releaseCount := c } :=
      State.entry?_modEntry (f := fun y => { y with releaseCount := c }) he fun _ => rfl
    refine ⟨fun n hn => ?_, fun hopen => ⟨fun hc => ?_, fun hc => ?_⟩, fun p hq => ⟨fun hc => ?_,
      fun pre b post hc htx hpre hb hsend hpacing => ?_, fun pre b post hc htx hpre hb hsend => ?_⟩, fun p k hq => ?_⟩
    · simp only [hn] at hexec
      exact .of_eq hexec
    · rw [← State.windowMs_eq]
      have : r = .next (finish w ((t.setCount o c).setEntryState o (.window (time + t.windowMs)))) := by
        rcases hopen with ⟨d, h⟩ | h | ⟨y, h⟩ <;> simpa only [h, hc, if_false] using hexec
      rw [State.setCount, State.modEntry_setEntryState _ fun _ => by rfl] at this
      exact .of_eq this
    · have : r = .next (finish w (t.dropEntry o)) := by
        rcases hopen with ⟨d, h⟩ | h | ⟨y, h⟩ <;> simpa only [h, hc, if_true] using hexec
      exact .of_eq this
    · simp only [hq, hc, if_false, PendingWithdrawal.cleared] at hexec
      rw [State.setCount, State.modEntry_setEntryState _ fun _ => by rfl] at hexec
      exact .of_eq hexec
    · simp only [hq, hc, if_true] at hexec
      rw [hc] at hcounted
      rw [State.withdrawBid_queued (s := t.setCount o 3) _ hcounted hq ⟨htx, hpre, hb⟩ hsend hpacing,
        State.withdrawnBook, State.setCount, State.modEntry_dropEntry fun _ => by rfl] at hexec
      exact .of_eq hexec
    · simp only [hq, hc, if_true] at hexec
      rw [hc] at hcounted
      rw [State.withdrawBid_sending (s := t.setCount o 3) _ hcounted hq ⟨htx, hpre, hb⟩ hsend, State.setCount,
        State.modEntry_setEntryState _ fun _ => by rfl] at hexec
      rw [hc]
      exact .of_eq hexec
    · by_cases hc : c = 3
      · simp only [hq, hc, if_true] at hexec ⊢
        rw [hc] at hcounted
        rw [State.withdrawBid_awaited (s := t.setCount o 3) _ hcounted hq, Cause.replaces_remove, State.setCount,
          State.modEntry_setEntryState _ fun _ => by rfl] at hexec
        exact .of_eq hexec
      · simp only [hq, hc, if_false] at hexec ⊢
        rw [State.setCount, State.modEntry_setEntryState _ fun _ => by rfl] at hexec
        rcases k with _ | _ | _ | _ <;> exact .of_eq hexec

/-! ### A cartridge return (R66, R67) -/

theorem State.loan?_number {s : State} {n : LoanNo} {l : Loan} (h : s.loan? n = some l) : l.number = n := by
  simpa using List.find?_some h

/-- The record of a loan after a change of it that keeps its number. -/
theorem State.loan?_modLoan {s : State} {n : LoanNo} {l : Loan} {f : Loan → Loan} (h : s.loan? n = some l)
    (hf : ∀ y, (f y).number = y.number) : (s.modLoan n f).loan? n = some (f l) := by
  have hn := State.loan?_number h
  have hp : ((fun y : Loan => y.number == n) ∘ fun y => if y.number = n then f y else y) = fun y => y.number == n := by
    funext y
    by_cases hy : y.number = n <;> simp [hy, hf]
  simp only [State.loan?, State.modLoan] at h ⊢
  rw [List.find?_map, hp, h]
  simp [hn]

/-- Two changes of a loan's record are one. -/
theorem State.modLoan_modLoan {s : State} {n : LoanNo} {f g : Loan → Loan} (hf : ∀ y, (f y).number = y.number) :
    (s.modLoan n f).modLoan n g = s.modLoan n fun y => g (f y) := by
  simp only [State.modLoan, List.map_map]
  congr 2
  refine List.map_congr_left fun y _ => ?_
  by_cases hy : y.number = n <;> simp [hy, hf]

/-- A change of a loan's record is lost with it. -/
theorem State.modLoan_dropLoan {s : State} {n : LoanNo} {f : Loan → Loan} (hf : ∀ y, (f y).number = y.number) :
    (s.modLoan n f).dropLoan n = s.dropLoan n := by
  have (l : List Loan) : (l.map fun y => if y.number = n then f y else y).filter (fun y => y.number != n) =
      l.filter fun y => y.number != n := by
    induction l with
    | nil => rfl
    | cons y l ih => by_cases hy : y.number = n <;> simp [hy, hf, ih]
  simp only [State.modLoan, State.dropLoan, this]

theorem Loan.out_iff {l : Loan} : l.out = true ↔ l.state = .shipped ∨ l.state = .overdue ∨ l.state = .lost := by
  simp [Loan.out, or_assoc]

theorem State.closeTest_of_closes {s : State} {n : LoanNo} {l : Loan} (h : s.loan? n = some l) (hc : l.closes = true) :
    s.closeTest n = s.dropLoan n := by
  rw [State.closeTest, h]
  exact if_pos hc

theorem State.closeTest_of_open {s : State} {n : LoanNo} {l : Loan} (h : s.loan? n = some l) (hc : l.closes = false) :
    s.closeTest n = s := by
  rw [State.closeTest, h]
  exact if_neg (by rw [hc]; decide)

/-- R66: a return that applies is of a loan out in the post, whose cartridge part awaits this serial. -/
def Loan.awaits (l : Loan) (x : Serial) : Prop :=
  (l.state = .shipped ∨ l.state = .overdue ∨ l.state = .lost) ∧ ∃ p a, l.cart = some ⟨p, .ready x, a⟩

theorem Loan.awaits_iff {l : Loan} {x : Serial} :
    (l.out && (l.cart.map (·.returns x)).getD false) = true ↔ l.awaits x := by
  rw [Bool.and_eq_true, Loan.out_iff, Loan.awaits]
  refine and_congr_right fun _ => ?_
  cases l.cart with
  | none => simp
  | some c =>
    obtain ⟨p, st, a⟩ := c
    simp [CartPart.returns]

/-- The recovery notice once a part has come back (R66). -/
def Loan.recoveryAfter (l : Loan) : RecoveryNotice :=
  if l.state = .lost ∧ l.recovery = .none then (if l.lostSent then .owed else .done) else l.recovery

/-- The day scan once a part of the loan has come back: a RECOVERED that becomes owed requests one (R66). -/
def State.scanAfter (s : State) (l : Loan) : DayScan :=
  if l.state = .lost ∧ l.recovery = .none ∧ l.lostSent = true then
    if s.scan.running then { s.scan with rescan := true } else { s.scan with running := true, last := none }
  else s.scan

theorem State.recoveryNotice_eq (s : State) (l : Loan) :
    s.recoveryNotice l =
      { s with
        scan := s.scanAfter l
        tables :=
          { s.tables with
            loans := s.tables.loans.map fun y =>
              if y.number = l.number then
                { y with recovery := if l.state = .lost ∧ l.recovery = .none then l.recoveryAfter else y.recovery }
              else y } } := by
  unfold State.recoveryNotice State.scanAfter Loan.recoveryAfter
  by_cases hlost : l.state = .lost ∧ l.recovery = .none
  · obtain ⟨hl, hr⟩ := hlost
    cases hs : l.lostSent <;> simp [hl, hr, State.requestScan_eq, State.modLoan]
  · have hno : ¬ (l.state = .lost ∧ l.recovery = .none ∧ l.lostSent = true) := fun h => hlost ⟨h.1, h.2.1⟩
    rw [if_neg hlost, if_neg hno]
    simp [hlost]

/-- The record once a part has come back: `f` marks the part, and the recovery notice follows (R66). -/
def Loan.partBack (l : Loan) (f : Loan → Loan) (y : Loan) : Loan :=
  { f y with recovery := if l.state = .lost ∧ l.recovery = .none then l.recoveryAfter else y.recovery }

/-- The state once `f` has marked a part of the loan's record as BACK, before the close test. -/
def State.partBack (s : State) (n : LoanNo) (l : Loan) (f : Loan → Loan) : State :=
  { s.modLoan n (l.partBack f) with scan := s.scanAfter l }

section
variable {s : State} {n : LoanNo} {l : Loan} {f : Loan → Loan} (h : s.loan? n = some l)
  (hf : ∀ y, (f y).number = y.number) (hr : ∀ y, (f y).recovery = y.recovery)
include h hf hr

theorem State.recoveryNotice_modLoan :
    (s.modLoan n f).recoveryNotice l = s.partBack n l f := by
  have hmap : ((s.modLoan n f).modLoan n fun y =>
      { y with recovery := if l.state = .lost ∧ l.recovery = .none then l.recoveryAfter else y.recovery }) =
      s.modLoan n (l.partBack f) := by
    rw [State.modLoan_modLoan hf]
    simp only [hr]
    rfl
  rw [State.recoveryNotice_eq, State.loan?_number h, State.partBack, ← hmap]
  rfl

omit hr in
theorem State.loan?_partBack : (s.partBack n l f).loan? n = some { f l with recovery := l.recoveryAfter } := by
  change (s.modLoan n (l.partBack f)).loan? n = _
  rw [State.loan?_modLoan (f := l.partBack f) h fun y => hf y, Loan.partBack]
  congr 2
  unfold Loan.recoveryAfter
  split <;> rfl

end

theorem State.scanAfter_of_not_owed {s : State} {l : Loan} (h : l.recoveryAfter ≠ .owed) : s.scanAfter l = s.scan := by
  refine if_neg ?_
  rintro ⟨hlost, hnone, hsent⟩
  exact h (by simp [Loan.recoveryAfter, hlost, hnone, hsent])

/-- The cartridge part goes to BACK (R66). -/
def Loan.cartBack (l : Loan) : Loan := { l with cart := l.cart.map fun c => { c with status := .back } }

theorem State.partBack_dropLoan {s : State} {n : LoanNo} {l : Loan} {f : Loan → Loan} (hf : ∀ y, (f y).number = y.number)
    (hn : l.recoveryAfter ≠ .owed) : (s.partBack n l f).dropLoan n = s.dropLoan n := by
  rw [State.partBack, State.scanAfter_of_not_owed hn]
  exact State.modLoan_dropLoan (s := s) (n := n) (f := l.partBack f) fun y => hf y

section
variable {s : State} {n : LoanNo} {x : Serial} {l : Loan}

theorem State.cartReturn_ignored (h : ∀ l, s.loan? n = some l → ¬ l.awaits x) : s.cartReturn n x = s := by
  unfold State.cartReturn
  cases hl : s.loan? n with
  | none => rfl
  | some l => exact if_neg fun ha => h l hl (Loan.awaits_iff.mp ha)

theorem State.cartReturn_taken (h : s.loan? n = some l) (ha : l.awaits x) :
    s.cartReturn n x = (s.partBack n l Loan.cartBack).closeTest n := by
  unfold State.cartReturn
  rw [h]
  dsimp only
  rw [if_pos (Loan.awaits_iff.mpr ha)]
  exact congrArg (State.closeTest · n) (State.recoveryNotice_modLoan (f := Loan.cartBack) h (fun _ => rfl) fun _ => rfl)

/-- R67: the record of a loan whose every part is BACK and that owes no RECOVERED is removed. -/
theorem State.cartReturn_closes (h : s.loan? n = some l) (ha : l.awaits x)
    (hb : ∀ b, l.braille = some b → b.status = .back) (hn : l.recoveryAfter ≠ .owed) :
    s.cartReturn n x = s.dropLoan n := by
  rw [State.cartReturn_taken h ha, State.closeTest_of_closes (State.loan?_partBack (f := Loan.cartBack) h fun _ => rfl)]
  · rw [State.partBack_dropLoan (f := Loan.cartBack) (fun _ => rfl) hn]
  · obtain ⟨-, p, a, hc⟩ := ha
    cases hbr : l.braille with
    | none => simp [Loan.closes, Loan.cartBack, hc, hbr, hn]
    | some b => simp [Loan.closes, Loan.cartBack, hc, hbr, hn, hb b hbr]

theorem State.cartReturn_stays (h : s.loan? n = some l) (ha : l.awaits x)
    (hopen : (∃ b, l.braille = some b ∧ b.status ≠ .back) ∨ l.recoveryAfter = .owed) :
    s.cartReturn n x = s.partBack n l Loan.cartBack := by
  rw [State.cartReturn_taken h ha, State.closeTest_of_open (State.loan?_partBack (f := Loan.cartBack) h fun _ => rfl)]
  rcases hopen with ⟨b, hb, hne⟩ | hn
  · simp [Loan.closes, Loan.cartBack, hb, hne]
  · simp [Loan.closes, hn]

end

/-! ### A RETURNED heard (R149) -/

theorem exec_returnedHeard {s : State} {rest : List RxEntry} {time : Millis} {rank : BitVec 14} {x : Station} {n : LoanNo}
    {k : Serial} {day : Day} {c : Condition} (w : RecordWrite)
    (h : s.line.rx = ⟨⟨rank, x, .returned n k day c⟩, time⟩ :: rest) :
    exec (.returnedHeard w) s = .next (finish w (s.popRx.heardReturned n k)) := by
  change execReturnedHeard w s = _
  rw [execReturnedHeard, State.rxHead?_eq h]

/-- Settles O39: an own loan's RETURNED is a cartridge return. -/
theorem returnedHeardClosesPart : Obligations.ReturnedHeardClosesPart := by
  intro s rest time rank x n k day c w hrx t applies
  have hexec : exec (.returnedHeard w) s = .next (finish w (if t.isOwn (stationField n) then t.cartReturn n k else t)) :=
    exec_returnedHeard w hrx
  have hown : t.isOwn (stationField n) = true ↔ s.start.own = some (n.extractLsb' 18 6) := by
    rw [State.isOwn, beq_iff_eq]
    rfl
  refine ⟨fun hno => ?_, fun hno => ?_, fun l hyes hl ha => ?_⟩
  · rw [if_neg (fun h => hno (hown.mp h))] at hexec
    exact .of_eq hexec
  · rw [State.cartReturn_ignored (s := t) hno, ite_self] at hexec
    exact .of_eq hexec
  · rw [if_pos (hown.mpr hyes)] at hexec
    refine ⟨fun hb hn => ?_, fun hopen => ?_⟩
    · rw [State.cartReturn_closes (s := t) hl ha hb hn] at hexec
      exact .of_eq hexec
    · rw [State.cartReturn_stays (s := t) hl ha hopen] at hexec
      exact .of_eq hexec

end Sys2Proof.Machine
end

section
/-! PROOFS. The searches for a number (R53, R155) and for an extent (R118). -/

namespace Sys2Proof.Machine

/-! ### Number searches (R53, R155) -/

/-- A search that goes from `q` by `next`, past what is held, with a fuel. -/
theorem search_spec {α : Type} {held : α → Bool} {next : α → α} {f : Nat → α → α} (h0 : ∀ q, f 0 q = q)
    (hs : ∀ k q, f (k + 1) q = if held q then f k (next q) else q) (fuel : Nat) (q : α) :
    ∃ k ≤ fuel, f fuel q = next^[k] q ∧ (∀ j < k, held (next^[j] q) = true) ∧
      (k < fuel → held (next^[k] q) = false) := by
  induction fuel generalizing q with
  | zero => exact ⟨0, Nat.le_refl 0, h0 q, by simp, by simp⟩
  | succ fuel ih =>
    rw [hs]
    cases hq : held q with
    | false => exact ⟨0, Nat.zero_le _, by simp, by simp, fun _ => hq⟩
    | true =>
      obtain ⟨k, hk, heq, hbefore, hfree⟩ := ih (next q)
      refine ⟨k + 1, Nat.succ_le_succ hk, by simpa using heq, fun j hj => ?_, fun h => ?_⟩
      · obtain _ | j := j
        · exact hq
        · exact hbefore j (Nat.lt_of_succ_lt_succ hj)
      · exact hfree (Nat.lt_of_succ_lt_succ h)

/-- A number held is that of one of the records, so no more distinct numbers are held than there are records. -/
theorem held_le {α ι : Type} [Fintype ι] {m : Nat} {number : Nat → α} {holds : ι → α → Prop}
    (hinj : ∀ i < m, ∀ j < m, number i = number j → i = j) (hone : ∀ r x y, holds r x → holds r y → x = y)
    (h : ∀ j < m, ∃ r, holds r (number j)) : m ≤ Fintype.card ι := by
  choose r hr using fun j : Fin m => h j.val j.isLt
  have : Function.Injective r := fun i j hij => by
    refine Fin.ext (hinj i i.isLt j j.isLt (hone (r i) _ _ (hr i) ?_))
    rw [hij]
    exact hr j
  simpa using Fintype.card_le_of_injective r this

/-- A counter of `w` bits that goes from its highest number to 1 runs through its numbers in turn. -/
theorem iterate_wrapping {w : Nat} {next : BitVec w → BitVec w} {m : Nat}
    (hnext : ∀ q, q ≠ 0 → (next q).toNat = if q.toNat = m then 1 else q.toNat + 1) (hm : ∀ q : BitVec w, q.toNat ≤ m)
    {q : BitVec w} (hq : q ≠ 0) (j : Nat) : (next^[j] q).toNat = (q.toNat - 1 + j) % m + 1 := by
  have hpos : 0 < q.toNat := Nat.pos_of_ne_zero fun h => hq (BitVec.eq_of_toNat_eq (by simpa using h))
  have hle := hm q
  induction j with
  | zero => rw [Function.iterate_zero_apply, Nat.add_zero, Nat.mod_eq_of_lt (by omega)]; omega
  | succ j ih =>
    have hne : next^[j] q ≠ 0 := fun h => by
      rw [h] at ih
      simp at ih
    have hlt := Nat.mod_lt (q.toNat - 1 + j) (show 0 < m by omega)
    rw [Function.iterate_succ_apply', hnext _ hne, ih, ← Nat.add_assoc, ← Nat.mod_add_mod (q.toNat - 1 + j) m 1]
    split
    next heq => rw [heq, Nat.mod_self]
    next hno => rw [Nat.mod_eq_of_lt (a := (q.toNat - 1 + j) % m + 1) (by omega)]

theorem seqAfter_toNat (q : LoanSeq) : (seqAfter q).toNat = if q.toNat = 262143 then 1 else q.toNat + 1 := by
  unfold seqAfter
  split
  next h => rw [h]; rfl
  next h =>
    have hne : q.toNat ≠ 262143 := fun e => h (BitVec.eq_of_toNat_eq e)
    rw [if_neg hne]
    bv_omega

theorem trayNoAfter_toNat (q : TrayNo) : (trayNoAfter q).toNat = if q.toNat = 65535 then 1 else q.toNat + 1 := by
  unfold trayNoAfter
  split
  next h => rw [h]; rfl
  next h =>
    have hne : q.toNat ≠ 65535 := fun e => h (BitVec.eq_of_toNat_eq e)
    rw [if_neg hne]
    bv_omega

theorem iterate_seqAfter {q : LoanSeq} (hq : q ≠ 0) (j : Nat) :
    (seqAfter^[j] q).toNat = (q.toNat - 1 + j) % 262143 + 1 :=
  iterate_wrapping (fun q _ => seqAfter_toNat q) (fun q => Nat.le_of_lt_succ q.isLt) hq j

theorem iterate_trayNoAfter {q : TrayNo} (hq : q ≠ 0) (j : Nat) :
    (trayNoAfter^[j] q).toNat = (q.toNat - 1 + j) % 65535 + 1 :=
  iterate_wrapping (fun q _ => trayNoAfter_toNat q) (fun q => Nat.le_of_lt_succ q.isLt) hq j

theorem sequenceField_makeNumber (x : Station) (q : LoanSeq) : sequenceField (makeNumber x q) = q := by
  refine BitVec.eq_of_getLsbD_eq fun i hi => ?_
  have h : i < 24 := by omega
  simp [sequenceField, makeNumber, hi, h]

theorem State.loan?_isSome_iff {s : State} {n : LoanNo} :
    (s.loan? n).isSome = true ↔ ∃ i : Fin s.tables.loans.length, s.tables.loans[i].number = n := by
  rw [State.loan?, List.find?_isSome]
  constructor
  · rintro ⟨l, hl, hn⟩
    obtain ⟨i, hi, rfl⟩ := List.getElem_of_mem hl
    exact ⟨⟨i, hi⟩, by simpa using hn⟩
  · rintro ⟨i, hi⟩
    exact ⟨_, List.getElem_mem i.isLt, by simpa using hi⟩

theorem State.trayOf?_isSome_iff {s : State} {t : TrayNo} :
    (s.trayOf? t).isSome = true ↔ ∃ r x, s.tray r = some x ∧ x.number = t := by
  rw [State.trayOf?, List.findSome?_isSome_iff]
  constructor
  · rintro ⟨r, -, hr⟩
    cases hx : s.tray r with
    | none => simp [hx] at hr
    | some x =>
      refine ⟨r, x, hx, ?_⟩
      by_contra hne
      simp [hx, hne] at hr
  · rintro ⟨r, x, hx, hn⟩
    exact ⟨r, List.mem_finRange r, by simp [hx, hn]⟩

/-- Settles O28: both searches are `search_spec`, and the numbers they look at are distinct. -/
theorem numberSearchesFindFree : Obligations.NumberSearchesFindFree := by
  intro s
  refine ⟨fun q hq hlen => ?_, fun q hq => ?_⟩
  · obtain ⟨k, hk, heq, hbefore, hfree⟩ := search_spec
      (held := fun q => (s.loan? (makeNumber s.station q)).isSome) (next := seqAfter) (f := s.freeSeq)
      (fun _ => rfl) (fun _ _ => rfl) 32769 q
    have hinj : ∀ i < k, ∀ j < k, makeNumber s.station (seqAfter^[i] q) = makeNumber s.station (seqAfter^[j] q) → i = j := by
      intro i hi j hj hij
      have := congrArg BitVec.toNat (congrArg sequenceField hij)
      rw [sequenceField_makeNumber, sequenceField_makeNumber, iterate_seqAfter hq, iterate_seqAfter hq] at this
      omega
    have hcount := held_le (holds := fun (i : Fin s.tables.loans.length) n => s.tables.loans[i].number = n) hinj
      (fun _ _ _ h h' => h.symm.trans h') fun j hj => State.loan?_isSome_iff.mp (hbefore j hj)
    rw [Fintype.card_fin] at hcount
    have hnone := hfree (by omega)
    refine ⟨k, by omega, heq, ?_, ?_, hbefore⟩
    · rw [heq]
      intro h0
      have := iterate_seqAfter hq k
      rw [h0] at this
      simp at this
    · rw [heq]
      simpa using hnone
  · obtain ⟨k, hk, heq, hbefore, hfree⟩ := search_spec
      (held := fun q => (s.trayOf? q).isSome) (next := trayNoAfter) (f := s.freeTrayNo) (fun _ => rfl) (fun _ _ => rfl) 16 q
    have hinj : ∀ i < k + 1, ∀ j < k + 1, trayNoAfter^[i] q = trayNoAfter^[j] q → i = j := by
      intro i hi j hj hij
      have := congrArg BitVec.toNat hij
      rw [iterate_trayNoAfter hq, iterate_trayNoAfter hq] at this
      omega
    have hnot : (s.trayOf? (trayNoAfter^[k] q)).isSome = false := by
      by_cases hlt : k < 16
      · exact hfree hlt
      · rw [← Bool.not_eq_true]
        intro hheld
        have hcount := held_le (m := k + 1) (holds := fun (r : Fin 16) n => ∃ x, s.tray r = some x ∧ x.number = n) hinj
          (fun r x y ⟨a, ha, hx⟩ ⟨b, hb, hy⟩ => by
            obtain rfl := Option.some.inj (ha.symm.trans hb)
            exact hx.symm.trans hy) fun j hj => by
            rcases Nat.lt_succ_iff_lt_or_eq.mp hj with hj | rfl
            · exact State.trayOf?_isSome_iff.mp (hbefore j hj)
            · exact State.trayOf?_isSome_iff.mp hheld
        rw [Fintype.card_fin] at hcount
        omega
    refine ⟨k, hk, heq, ?_, fun r x hx hn => ?_, fun j hj => State.trayOf?_isSome_iff.mp (hbefore j hj)⟩
    · rw [heq]
      intro h0
      have := iterate_trayNoAfter hq k
      rw [h0] at this
      simp at this
    · rw [heq] at hn
      rw [State.trayOf?_isSome_iff.mpr ⟨r, x, hx, hn⟩] at hnot
      cases hnot

/-! ### First fit (R118) -/

theorem extentFree_iff {dir : List DirEntry} {size n b : Nat} :
    extentFree dir size n b = true ↔ b + n ≤ size ∧ ∀ d ∈ dir, b + n ≤ d.start ∨ d.start + d.len ≤ b := by
  simp [extentFree]

theorem firstFitFrom_eq_some_iff {dir : List DirEntry} {size n fuel b c : Nat} :
    firstFitFrom dir size n fuel b = some c ↔
      b ≤ c ∧ c < b + fuel ∧ extentFree dir size n c = true ∧ ∀ a, b ≤ a → a < c → extentFree dir size n a = false := by
  induction fuel generalizing b with
  | zero =>
    rw [firstFitFrom]
    exact iff_of_false nofun fun ⟨h, h', _⟩ => by omega
  | succ fuel ih =>
    rw [firstFitFrom]
    cases hb : extentFree dir size n b with
    | true =>
      simp only [if_true, Option.some.injEq]
      constructor
      · rintro rfl
        exact ⟨le_refl _, by omega, hb, fun a h h' => by omega⟩
      · rintro ⟨hbc, -, -, hmin⟩
        by_contra hne
        rw [hmin b (le_refl b) (by omega)] at hb
        cases hb
    | false =>
      simp only [Bool.false_eq_true, if_false, ih]
      constructor
      · rintro ⟨hbc, hc, hfree, hmin⟩
        refine ⟨by omega, by omega, hfree, fun a h h' => ?_⟩
        rcases Nat.eq_or_lt_of_le h with rfl | h
        · exact hb
        · exact hmin a h h'
      · rintro ⟨hbc, hc, hfree, hmin⟩
        have hne : b ≠ c := by
          rintro rfl
          rw [hfree] at hb
          cases hb
        exact ⟨by omega, by omega, hfree, fun a h h' => hmin a (by omega) h'⟩

/-- Settles O54: the search looks at every block below the store size, and a fit lies below it. -/
theorem firstFitIsLowest : Obligations.FirstFitIsLowest := by
  intro dir size n hn fits
  have hfits (b : Nat) : extentFree dir size n b = true ↔ fits b := extentFree_iff
  have hnot (b : Nat) : extentFree dir size n b = false ↔ ¬ fits b := by rw [← hfits, Bool.not_eq_true]
  have hsome (b : Nat) : firstFit dir size n = some b ↔ fits b ∧ ∀ a < b, ¬ fits a := by
    rw [firstFit, firstFitFrom_eq_some_iff, hfits]
    constructor
    · rintro ⟨-, -, hb, hmin⟩
      exact ⟨hb, fun a ha => (hnot a).mp (hmin a (Nat.zero_le a) ha)⟩
    · rintro ⟨hb, hmin⟩
      exact ⟨Nat.zero_le b, by have := hb.1; omega, hb, fun a _ ha => (hnot a).mpr (hmin a ha)⟩
  refine ⟨hsome, ?_, fun b hb i hi => ?_⟩
  · constructor
    · intro hnone b
      induction b using Nat.strong_induction_on with
      | _ b ih =>
        intro hb
        rw [(hsome b).mpr ⟨hb, ih⟩] at hnone
        cases hnone
    · intro hall
      rw [Option.eq_none_iff_forall_ne_some]
      exact fun b hb => hall b ((hsome b).mp hb).1
  · obtain ⟨-, hdir⟩ := ((hsome b).mp hb).1
    rw [blockFree, List.all_eq_true]
    intro d hd
    rcases hdir d hd with h | h
    · simp; omega
    · simp; omega

end Sys2Proof.Machine
end

section
/-! PROOFS. What a cartridge takes (R78, R80, R83), the tag slots as they are written and closed (R77, R78, R182), and the
marked check (R185). -/

namespace Sys2Proof.Machine

/-! ### The tests before a write or clear (R78, R80, R83) -/

theorem Socket.startGuarded_of_ok {k : Socket} {v : View} {g : Guarded} (hv : k.view = some v) (h : guardOk v g = true) :
    k.startGuarded g =
      { k with op := some (.guarded g (.beforeCommand (some k.link))), hold := none, link := k.link.unlock } := by
  rw [Socket.startGuarded, hv]
  exact if_pos h

theorem Socket.startGuarded_of_refused {k : Socket} {v : View} {g : Guarded} (hv : k.view = some v)
    (h : guardOk v g = false) : k.startGuarded g = { k with op := some .refused, hold := none } := by
  rw [Socket.startGuarded, hv]
  exact if_neg (by simp [h])

theorem CartKind.eq_stock_iff {k : CartKind} : k = .stock ↔ k ≠ .master := by
  cases k <;> decide

theorem guardOk_page_iff {v : View} {a : Nat} {data : List Byte} {use : WriteUse} :
    guardOk v (.page a data use) = true ↔
      v.kind ≠ .master ∧ a % 256 = 0 ∧ a + 256 ≤ v.capacity.blocks * 65536 ∧
        (4096 ≤ a ∨ match use with
          | .tag i => a = slotPage i ∧ v.nextFree = some i
          | .close i => a = slotPage i ∧ slotClass (v.slot i) = .open
          | .other => False) := by
  unfold guardOk
  cases use <;> simp [CartKind.eq_stock_iff, and_assoc]

theorem guardOk_sectorClear_iff {v : View} {c : Nat} :
    guardOk v (.sectorClear c) = true ↔
      v.kind ≠ .master ∧ c ≠ 0 ∧ (c + 1) * 4096 ≤ v.capacity.blocks * 65536 := by
  unfold guardOk
  simp [CartKind.eq_stock_iff, and_assoc]

theorem guardOk_blockClear_iff {v : View} {b : Nat} :
    guardOk v (.blockClear b) = true ↔ v.kind ≠ .master ∧ b ≠ 0 ∧ b < v.capacity.blocks := by
  unfold guardOk
  simp [CartKind.eq_stock_iff, and_assoc]

/-- Settles O49: a request is refused exactly where `guardOk` fails. -/
theorem guardRefusesWrites : Obligations.GuardRefusesWrites := by
  intro k v g hv size refused
  have hiff : guardOk v g = false ↔ refused := by
    rw [← Bool.not_eq_true, ← not_iff_comm]
    cases g with
    | page a data use =>
      rw [guardOk_page_iff]
      cases use <;> simp only [refused, size, not_or, not_and_or, not_not, not_lt, ne_eq, not_true]
    | sectorClear c =>
      rw [guardOk_sectorClear_iff]
      simp only [refused, size, not_or, not_lt, ne_eq]
    | blockClear b =>
      rw [guardOk_blockClear_iff]
      simp only [refused, not_or, not_le, ne_eq]
  refine ⟨fun h => Socket.startGuarded_of_refused hv (hiff.mpr h), fun h => ?_⟩
  rw [Socket.startGuarded_of_ok hv (by rwa [← hiff, Bool.not_eq_false] at h)]
  rfl

/-! ### Programming and pages (R74, R78) -/

/-- Unprogrammed bytes take what is programmed. -/
theorem program_blank (bs : List Byte) : program (List.replicate bs.length 255) bs = bs := by
  unfold program
  induction bs with
  | nil => rfl
  | cons b bs ih =>
    rw [List.length_cons, List.replicate_succ, List.zipWith_cons_cons, ih]
    congr 1
    exact BitVec.allOnes_and

/-- All ones program nothing. -/
theorem program_ones (bs : List Byte) : program bs (List.replicate bs.length 255) = bs := by
  unfold program
  induction bs with
  | nil => rfl
  | cons b bs ih =>
    rw [List.length_cons, List.replicate_succ, List.zipWith_cons_cons, ih]
    congr 1
    exact BitVec.and_allOnes

theorem program_append {as bs cs ds : List Byte} (h : as.length = cs.length) :
    program (as ++ bs) (cs ++ ds) = program as cs ++ program bs ds :=
  List.zipWith_append h

/-- The 16 bytes of a page at an offset that the bytes written lie within. -/
theorem slice_pageWith {off p : Nat} {bs : List Byte} (hoff : off + 16 ≤ 256) (hp : p + bs.length ≤ 16) :
    slice (pageWith (off + p) bs) off 16 =
      List.replicate p 255 ++ (bs ++ List.replicate (16 - p - bs.length) 255) := by
  have htail : 256 - (off + p) - bs.length = (16 - p - bs.length) + (240 - off) := by omega
  rw [pageWith, htail, List.replicate_add, List.replicate_add, List.append_assoc, List.append_assoc, slice,
    List.drop_left' (List.length_replicate), ← List.append_assoc, ← List.append_assoc,
    List.take_left' (by simp; omega), List.append_assoc]

/-- The 16 bytes at an offset that the bytes written do not reach. -/
theorem slice_pageWith_other {a off : Nat} {bs : List Byte} (hoff : off + 16 ≤ 256) (ha : a + bs.length ≤ 256)
    (h : off + 16 ≤ a ∨ a + bs.length ≤ off) : slice (pageWith a bs) off 16 = List.replicate 16 255 := by
  rw [pageWith, slice]
  rcases h with h | h
  · obtain ⟨r, rfl⟩ : ∃ r, a = off + (16 + r) := ⟨a - off - 16, by omega⟩
    rw [List.replicate_add, List.replicate_add, List.append_assoc, List.append_assoc, List.append_assoc,
      List.drop_left' (List.length_replicate), List.take_left' (List.length_replicate)]
  · obtain ⟨r, rfl⟩ : ∃ r, off = a + bs.length + r := ⟨off - a - bs.length, by omega⟩
    obtain ⟨q, hq⟩ : ∃ q, 256 - a - bs.length = r + (16 + q) := ⟨256 - a - bs.length - r - 16, by omega⟩
    rw [hq, List.replicate_add, List.replicate_add, ← List.append_assoc, List.drop_left' (by simp; omega),
      List.take_left' (List.length_replicate)]

/-! ### A tag slot (R77, R78, R182) -/

theorem slotOffset_le (k : Nat) : slotOffset k + 16 ≤ 256 := by
  unfold slotOffset
  omega

/-- The slots after a page write into sector 0. -/
theorem View.slot_apply_page {v : View} {k j : Nat} {data : List Byte} {use : WriteUse} (hk : k ≤ 64) (hj : 1 ≤ j)
    (hlen : j ≤ v.slots.length) :
    (v.apply (.page (slotPage k) data use)).slot j =
      if slotPage j = slotPage k then program (v.slot j) (slice data (slotOffset j) 16) else v.slot j := by
  have hpage : slotPage k ≠ 4096 := by unfold slotPage; omega
  have hlt : j - 1 < v.slots.length := by omega
  simp only [View.slot, View.apply, if_neg hpage]
  rw [List.getD_eq_getElem _ _ (by rw [List.length_mapIdx]; exact hlt), List.getElem_mapIdx,
    List.getD_eq_getElem _ _ hlt, Nat.sub_add_cancel hj]

/-- Two slots of one page lie apart in it. -/
theorem slotOffset_apart {j k : Nat} (hj : 1 ≤ j) (hk : 1 ≤ k) (hne : j ≠ k) (hpage : slotPage j = slotPage k) :
    slotOffset j + 16 ≤ slotOffset k ∨ slotOffset k + 16 ≤ slotOffset j := by
  unfold slotPage slotOffset at *
  omega

/-- A write of up to 16 bytes within one slot changes that slot alone, as the bytes program it. -/
theorem View.slot_apply_slotWrite {v : View} {k p : Nat} {bs : List Byte} {use : WriteUse} (hslots : v.slots.length = 64)
    (hbytes : ∀ b ∈ v.slots, b.length = 16) (hk1 : 1 ≤ k) (hk : k ≤ 64) (hp : p + bs.length ≤ 16) :
    let u := v.apply (.page (slotPage k) (pageWith (slotOffset k + p) bs) use)
    u.slot k = program (v.slot k) (List.replicate p 255 ++ (bs ++ List.replicate (16 - p - bs.length) 255)) ∧
      (∀ j, 1 ≤ j → j ≤ 64 → j ≠ k → u.slot j = v.slot j) ∧ u.content = v.content ∧ u.slots.length = 64 := by
  have hoff := slotOffset_le
  have hpage : slotPage k ≠ 4096 := by unfold slotPage; omega
  refine ⟨?_, fun j hj1 hj hne => ?_, ?_, ?_⟩
  · rw [View.slot_apply_page hk hk1 (by omega), if_pos rfl, slice_pageWith (hoff k) hp]
  · rw [View.slot_apply_page hk hj1 (by omega)]
    split
    next hsame =>
      have hlen : (v.slot j).length = 16 := by
        rw [View.slot, List.getD_eq_getElem _ _ (by omega)]
        exact hbytes _ (List.getElem_mem _)
      have hslot := program_ones (v.slot j)
      rw [hlen] at hslot
      have := slotOffset_apart hj1 hk1 hne hsame
      have := hoff k
      rw [slice_pageWith_other (hoff j) (by omega) (by omega), hslot]
    next => rfl
  · simp [View.apply, hpage]
  · simp [View.apply, hpage, hslots]

/-- The slot is written with the tag: use mark, loan number, issuing station, day and slot check. -/
theorem length_tagBytes (loan : LoanNo) (issuer : Station) (day : Day) : (tagBytes loan issuer day).length = 9 := by
  simp [tagBytes, length_bytesOf, markedCheck]

/-- A slot that begins with a tag: its check is good, and the loan number and issuing station are the tag's. -/
theorem slot_of_tag (loan : LoanNo) (issuer : Station) (day : Day) (rest : List Byte) :
    let b := tagBytes loan issuer day ++ rest
    slotClass b = (if unprogrammed (slice b 9 4) then .open else .closed) ∧ slotLoan b = loan ∧
      slotIssuer b = issuer.toNat := by
  intro b
  have hissuer := toNat_mod_256 (by decide) issuer
  have hcovered : slice b 0 7 = bytesOf 1 0 ++ bytesOf 3 loan.toNat ++ bytesOf 1 issuer.toNat ++ bytesOf 2 day.toNat := by
    rw [slice, List.drop_zero]
    simp only [b, tagBytes]
    rw [List.append_assoc, List.take_left' (by simp [length_bytesOf])]
  have hcheck : slice b 7 2 = markedCheck (slice b 0 7) := by
    rw [hcovered, slice]
    simp only [b, tagBytes]
    rw [List.append_assoc, List.drop_left' (by simp [length_bytesOf]), List.take_left' (by simp [markedCheck])]
  have hused : unprogrammed (slice b 0 9) = false := rfl
  have hb : b = bytesOf 1 0 ++ (bytesOf 3 loan.toNat ++ (bytesOf 1 issuer.toNat ++ (bytesOf 2 day.toNat ++
      (markedCheck (bytesOf 1 0 ++ bytesOf 3 loan.toNat ++ bytesOf 1 issuer.toNat ++ bytesOf 2 day.toNat) ++ rest)))) := by
    simp only [b, tagBytes, List.append_assoc]
  refine ⟨?_, ?_, ?_⟩
  · rw [slotClass, hused, hcheck]
    simp
  · rw [slotLoan, hb]
    simp [numAt_after, numAt_bytesOf_append, toNat_mod_24]
  · rw [slotIssuer, hb]
    simp [numAt_after, numAt_bytesOf_append, hissuer]

/-- Settles O50: the tag programs the slot's unprogrammed bytes, and the back fields what the tag left of them. -/
theorem tagAndCloseWriteSlot : Obligations.TagAndCloseWriteSlot := by
  intro v k loan issuer station day back hslots hbytes hk1 hk hblank u c
  have htag := length_tagBytes loan issuer day
  have hback : (backBytes back station).length = 4 := by simp [backBytes, length_bytesOf]
  obtain ⟨huk, huj, hucontent, hulen⟩ := View.slot_apply_slotWrite (p := 0) (bs := tagBytes loan issuer day) (use := .tag k)
    hslots hbytes hk1 hk (by omega)
  have hu : u.slot k = tagBytes loan issuer day ++ List.replicate 7 255 := by
    have hprogram := program_blank (tagBytes loan issuer day ++ List.replicate 7 255)
    rw [List.length_append, htag, List.length_replicate] at hprogram
    rw [show u.slot k = _ from huk, hblank, htag, List.replicate_zero, List.nil_append]
    exact hprogram
  have hubytes : ∀ b ∈ u.slots, b.length = 16 := by
    intro b hb
    obtain ⟨i, hi, rfl⟩ := List.getElem_of_mem hb
    have hslot : u.slots[i] = u.slot (i + 1) := by
      rw [View.slot, Nat.add_sub_cancel, List.getD_eq_getElem _ _ hi]
    have hi64 : i < 64 := hulen ▸ hi
    rw [hslot]
    by_cases hik : i + 1 = k
    · rw [hik, hu]
      simp [htag]
    · rw [show u.slot (i + 1) = v.slot (i + 1) from huj (i + 1) (by omega) (by omega) hik, View.slot,
        List.getD_eq_getElem _ _ (by omega)]
      exact hbytes _ (List.getElem_mem _)
  obtain ⟨hck, hcj, hccontent, -⟩ := View.slot_apply_slotWrite (p := 9) (bs := backBytes back station) (use := .close k)
    hulen hubytes hk1 hk (by omega)
  have hc : c.slot k = tagBytes loan issuer day ++ (backBytes back station ++ List.replicate 3 255) := by
    have hones := program_ones (tagBytes loan issuer day)
    have hprogram := program_blank (backBytes back station ++ List.replicate 3 255)
    rw [htag] at hones
    rw [List.length_append, hback, List.length_replicate] at hprogram
    rw [show c.slot k = program (u.slot k) _ from hck, hu, hback, program_append (by simp [htag]), hones]
    exact congrArg _ hprogram
  obtain ⟨hopen, hloan, hissuer⟩ := slot_of_tag loan issuer day (List.replicate 7 255)
  obtain ⟨hclosed, hloan', hissuer'⟩ := slot_of_tag loan issuer day (backBytes back station ++ List.replicate 3 255)
  have hafter (rest : List Byte) : slice (tagBytes loan issuer day ++ rest) 9 4 = rest.take 4 := by
    rw [slice, List.drop_left' htag]
  rw [hu, hc]
  refine ⟨?_, hloan, hissuer, ?_, hloan', hissuer', fun j hj1 hj hne => ⟨huj j hj1 hj hne, ?_⟩, hucontent, ?_⟩
  · rw [hopen, hafter]
    rfl
  · rw [hclosed, hafter]
    rfl
  · exact (hcj j hj1 hj hne).trans (huj j hj1 hj hne)
  · exact hccontent.trans hucontent

/-! ### The marked check (R185) -/

/-- What a write that was cut short leaves: intended zeros may be missing, and no other bit is changed (R74). -/
def CutShort (want got : List Byte) : Prop := List.Forall₂ (fun x y : Byte => y &&& x = x) want got

theorem bitsOf_injective {w : Nat} {x y : BitVec w} (h : bitsOf x = bitsOf y) : x = y := by
  have := congrArg numOfBits h
  rw [numOfBits_bitsOf, numOfBits_bitsOf] at this
  exact BitVec.eq_of_toNat_eq this

/-- The zeros of one bit run over another that has every one of its ones, and where they are as many. -/
theorem count_false_le {as bs : List Bool} (h : List.Forall₂ (fun a b => a = true → b = true) as bs) :
    bs.count false ≤ as.count false ∧ (bs.count false = as.count false → as = bs) := by
  induction h with
  | nil => exact ⟨Nat.le_refl _, fun _ => rfl⟩
  | @cons a b as bs hab _ ih =>
    obtain ⟨hle, heq⟩ := ih
    cases a <;> cases b <;> simp at hab ⊢
    · exact ⟨hle, heq⟩
    · omega
    · exact ⟨hle, heq⟩

theorem forall₂_bitsOf {x y : Byte} (h : y &&& x = x) :
    List.Forall₂ (fun a b => a = true → b = true) (bitsOf x) (bitsOf y) := by
  rw [bitsOf, bitsOf, List.forall₂_map_left_iff, List.forall₂_map_right_iff, List.forall₂_same]
  intro i _ hx
  rw [← h] at hx
  have : y.getMsbD i = true ∧ x.getMsbD i = true := by simpa using hx
  exact this.1

theorem zeroBits_cons (b : Byte) (bs : List Byte) : zeroBits (b :: bs) = (bitsOf b).count false + zeroBits bs := by
  rw [zeroBits, List.flatMap_cons, List.count_append, zeroBits]

theorem zeroBits_le (bs : List Byte) : zeroBits bs ≤ 8 * bs.length := by
  rw [zeroBits, ← length_flatMap_bitsOf]
  exact List.count_le_length

/-- A zero that is missing leaves fewer zeros. -/
theorem CutShort.zeroBits {want got : List Byte} (h : CutShort want got) :
    zeroBits got ≤ zeroBits want ∧ (zeroBits got = zeroBits want → want = got) := by
  induction h with
  | nil => exact ⟨Nat.le_refl _, fun _ => rfl⟩
  | @cons x y want got hxy _ ih =>
    obtain ⟨hle, heq⟩ := ih
    obtain ⟨hle', heq'⟩ := count_false_le (forall₂_bitsOf hxy)
    rw [zeroBits_cons, zeroBits_cons]
    refine ⟨Nat.add_le_add hle' hle, fun h => ?_⟩
    rw [heq (by omega), bitsOf_injective (heq' (by omega))]

theorem toNat_le_of_and_eq {w : Nat} {x y : BitVec w} (h : y &&& x = x) : x.toNat ≤ y.toNat := by
  rw [← h, BitVec.toNat_and]
  exact Nat.and_le_left

/-- Settles O51: a missing zero among the covered bytes lowers the count of zeros, and one missing in the count's byte
raises the count that is read. -/
theorem markedCheckExposesCutWrite : Obligations.MarkedCheckExposesCutWrite := by
  intro want got check hlen hgot hcheck heq
  have hcut : CutShort want got := hgot
  obtain ⟨hle, hsame⟩ := hcut.zeroBits
  have hbound := zeroBits_le want
  rw [← heq] at hcheck
  have hfirst := toNat_le_of_and_eq (List.forall₂_cons.mp hcheck).1
  rw [BitVec.toNat_ofNat, BitVec.toNat_ofNat, Nat.mod_eq_of_lt (by omega), Nat.mod_eq_of_lt (by omega)] at hfirst
  obtain rfl := hsame (Nat.le_antisymm hle hfirst)
  exact ⟨rfl, heq.symm⟩

end Sys2Proof.Machine
end

section
/-! PROOFS. Rules about the sockets, the gangs' members, the buffers and the returns outbox, and with them an insertion and a
removal (R84 to R92, R98, R101, R107, R137, R138, R146). -/

namespace Sys2Proof.Machine

/-! ### A socket's record -/

section
variable {s : State} {n : Idx8}

theorem State.setSocket_setSocket (a b : Socket) : (s.setSocket n a).setSocket n b = s.setSocket n b := by
  simp only [State.setSocket, Vector.set_set]

/-- The serial at a socket, 0 where no cartridge with a valid identity is held. -/
theorem State.serialAt_eq : s.serialAt n = (((s.socket n).view.map (·.serial)).getD 0) := by
  unfold State.serialAt
  cases (s.socket n).view <;> rfl

theorem State.role_ne_off_iff : s.role n ≠ .off ↔ s.line.state ≠ .listen ∧ s.cfg.roles[n] ≠ .off := by
  unfold State.role
  split
  next h => simp [h]
  next h => simp [h]

theorem State.role_of_not_listen (h : s.line.state ≠ .listen) : s.role n = s.cfg.roles[n] := if_neg h

theorem State.socket_setSocket (k : Socket) (q : Idx8) :
    (s.setSocket n k).socket q = if q = n then k else s.socket q := by
  split
  next h => rw [h, State.socket_setSocket_self]
  next h => exact s.socket_setSocket_other h k

end

/-! ### Members of gangs (R98) -/

theorem State.mem_members {s : State} {q : Idx8} {m : Member} :
    (q, m) ∈ s.members ↔ (s.socket q).state.member = some m := by
  rw [State.members, List.mem_filterMap]
  constructor
  · rintro ⟨r, -, hr⟩
    obtain ⟨m', hm', heq⟩ := Option.map_eq_some_iff.mp hr
    obtain ⟨rfl, rfl⟩ := Prod.mk.inj heq
    exact hm'
  · exact fun h => ⟨q, List.mem_finRange q, by rw [h]; rfl⟩

theorem State.mem_membersOf {s : State} {g : Nat} {q : Idx8} {m : Member} :
    (q, m) ∈ s.membersOf g ↔ (s.socket q).state.member = some m ∧ m.gang = g := by
  rw [State.membersOf, List.mem_filter, State.mem_members, beq_iff_eq]

/-- The members depend on the sockets alone. -/
theorem State.membersOf_congr {s t : State} (h : t.sockets = s.sockets) (g : Nat) : t.membersOf g = s.membersOf g := by
  simp only [State.membersOf, State.members, State.socket, h]

section
variable {s : State} {n : Idx8} {k : Socket} {g : Nat}

/-- A socket that comes to hold no member leaves the other members as they were. -/
theorem State.mem_membersOf_setSocket (hk : k.state.member = none) {p : Idx8 × Member} :
    p ∈ (s.setSocket n k).membersOf g ↔ p ∈ s.membersOf g ∧ p.1 ≠ n := by
  obtain ⟨q, m⟩ := p
  rw [State.mem_membersOf, State.mem_membersOf, State.socket_setSocket]
  split
  next h => simp [hk, h]
  next h => simp [h]

end

section
variable {s : State} {id : Nat}

/-- A gang in which a member has not finished the block waits for it (R102). -/
theorem State.gangAdvance_of_unfinished (h : ∃ p ∈ s.membersOf id, p.2.progress ≠ .finished) : s.gangAdvance id = s := by
  obtain ⟨p, hp, hne⟩ := h
  have hall : (s.membersOf id).all (fun p => p.2.progress == .finished) = false := by
    rw [List.all_eq_false]
    exact ⟨p, hp, by simpa using hne⟩
  unfold State.gangAdvance
  cases s.gang? id with
  | none => rfl
  | some g =>
    dsimp only
    cases g.buffer with
    | none => rfl
    | some b => simp [hall]

theorem State.leaveGang_of_unfinished (h : ∃ p ∈ s.membersOf id, p.2.progress ≠ .finished) : s.leaveGang id = s := by
  have hne : (s.membersOf id).isEmpty = false := by
    obtain ⟨p, hp, -⟩ := h
    rw [List.isEmpty_eq_false_iff]
    exact List.ne_nil_of_mem hp
  rw [State.leaveGang, hne, if_neg (by decide), State.gangAdvance_of_unfinished h]

/-- A gang left with no members ends, and its buffer is freed (R98). -/
theorem State.leaveGang_of_empty (h : s.membersOf id = []) {g : Gang} (hg : s.gang? id = some g) {b : Fin 4}
    (hb : g.buffer = some b) :
    s.leaveGang id =
      ({ s with copy := { s.copy with gangs := s.copy.gangs.filter fun x => x.id != id } } : State).freeBuffer b := by
  rw [State.leaveGang, h, List.isEmpty_nil, if_pos rfl, hg]
  simp [hb]

end

theorem State.freeBuffer_of_not_current {s : State} {b : Fin 4} (h : ∀ q, s.copy.current = some q → q.1 ≠ b) :
    s.freeBuffer b = s.setBuffer b ⟨.free, [], none⟩ := by
  refine if_neg fun hb => ?_
  obtain ⟨q, hq, hqb⟩ := Option.map_eq_some_iff.mp hb
  exact h q hq hqb

theorem State.freeBuffer_of_current {s : State} {b : Fin 4} {x : StoreReq} (h : s.copy.current = some (b, x)) :
    s.freeBuffer b = s.setBuffer b { s.buffer b with owner := .draining, request := none } :=
  if_pos (by rw [h]; rfl)

/-! ### The reports of a cartridge part (R57) -/

theorem State.cartReport_eq (s : State) (n : LoanNo) (path : CartPath) (before after : CartStatus) :
    s.cartReport n path before after =
      s.modLoan n fun l =>
        if l.cart.any (fun c => c.path == path && c.status == before) then
          { l with cart := l.cart.map fun c => { c with status := after } }
        else l := by
  unfold State.cartReport
  congr 1
  funext l
  cases l.cart <;> simp

/-! ### The returns outbox (R146, R148) -/

/-- The outbox with a loan's entry filled in. -/
def Returns.filled (r : Returns) (n : LoanNo) (c : Condition) (held : Bool) : Returns :=
  { r with
    outbox := r.outbox.map fun e =>
      if e.loan = n then { e with condition := some c, held := held, socket := if held then e.socket else none } else e }

/-- A condition that is held, or comes while the unit waits for room, brings no offer. -/
theorem State.setCondition_of_no_offer {s : State} {held : Bool} (n : LoanNo) (c : Condition)
    (h : held = true ∨ .returns ∈ s.line.pacing) :
    s.setCondition n c held = { s with returns := s.returns.filled n c held } := by
  refine if_pos ?_
  rw [Bool.or_eq_true]
  exact h.imp_right fun hmem => List.elem_eq_true_of_mem hmem

theorem State.condition_of_not_foreign {s : State} {c : Check} (x : Condition) (held : Bool) (h : c.mode ≠ .foreignReturn) :
    s.condition c x held = s := by
  rw [State.condition, Check.outboxLoan, if_neg h]

theorem State.condition_of_foreign {s : State} {c : Check} {l : LoanNo} (x : Condition) (held : Bool)
    (hm : c.mode = .foreignReturn) (hl : c.loan = some l) : s.condition c x held = s.setCondition l x held := by
  rw [State.condition, Check.outboxLoan, if_pos hm, hl]

theorem State.handOver_of_not_own {s : State} {n : Idx8} {c : Check} (h : c.mode ≠ .ownReturn) : s.handOver n c = s := by
  unfold State.handOver
  split
  next hm _ => exact absurd hm h
  next => rfl

theorem State.handOver_of_own {s : State} {n : Idx8} {c : Check} {l : LoanNo} (hm : c.mode = .ownReturn)
    (hl : c.loan = some l) : s.handOver n c = s.cartReturn l (s.serialAt n) := by
  unfold State.handOver
  rw [hm, hl]

theorem State.cartReturn_sockets (s : State) (n : LoanNo) (x : Serial) : (s.cartReturn n x).sockets = s.sockets := by
  by_cases h : ∃ l, s.loan? n = some l ∧ l.awaits x
  · obtain ⟨l, hl, ha⟩ := h
    rw [State.cartReturn_taken hl ha, State.closeTest]
    cases (s.partBack n l Loan.cartBack).loan? n with
    | none => rfl
    | some y => dsimp only; split <;> rfl
  · rw [State.cartReturn_ignored fun l hl ha => h ⟨l, hl, ha⟩]

theorem State.reached_iff {s : State} {d : Millis} : s.reached d = true ↔ (s.time.ms - d).toNat < 2147483648 :=
  decide_eq_true_iff

/-! ### Insertion (R75, R85, R87, R94) -/

/-- Settles O43: the presence line and the socket's state pick the branch. -/
theorem insertionStartsIdentification : Obligations.InsertionStartsIdentification := by
  intro s n k seated acts due
  have hinsert : exec (.cartridgeInsertion n) s = execCartridgeInsertion n s := rfl
  have hlimit : exec (.identifyLimitExpiry n) s = execIdentifyLimitExpiry n s := rfl
  have hacts : (s.start.phase = .running ∧ s.role n ≠ .off ∧ (s.socket n).state = .empty) ↔ acts := by
    rw [State.role_ne_off_iff, and_assoc]
  refine ⟨fun hp => ?_, fun hp hno => ?_, fun hp ha => ?_, fun limit hop hdue => ?_, fun hno => ?_⟩
  · rw [hinsert, execCartridgeInsertion, if_pos hp]
  · rw [hinsert, execCartridgeInsertion, if_neg (by simpa [k] using hp), if_neg fun h => hno (hacts.mp h)]
    rfl
  · rw [hinsert, execCartridgeInsertion, if_neg (by simpa [k] using hp), if_pos (hacts.mpr ha)]
    rw [State.startIdentify, State.seat, State.modSocket, State.modSocket, State.socket_setSocket_self,
      State.setSocket_setSocket]
    rfl
  · rw [hlimit, execIdentifyLimitExpiry, hop]
    dsimp only
    rw [if_pos (State.reached_iff.mpr hdue), State.faultSocket, State.serialAt_eq]
    rfl
  · rw [hlimit]
    unfold execIdentifyLimitExpiry
    split
    next limit hop => rw [if_neg fun h => hno limit hop (State.reached_iff.mp h)]
    next => rfl

/-! ### Removal (R84, R91, R92) -/

section
variable {s : State} {n : Idx8} {m : Member}

theorem State.memberRemoved_of_unfinished
    (h : ∃ p ∈ s.membersOf m.gang, p.1 ≠ n ∧ p.2.progress ≠ .finished) :
    s.memberRemoved n m = ((s.emptySocket n).requeueJob m.job).cartReport m.job.loan .copy .copying .queued := by
  obtain ⟨p, hp, hpn, hne⟩ := h
  have hp' : p ∈ (s.emptySocket n).membersOf m.gang := (State.mem_membersOf_setSocket rfl).mpr ⟨hp, hpn⟩
  rw [State.memberRemoved, State.leaveGang_of_unfinished ⟨p, hp', hne⟩]

/-- R107: the last member takes its gang and the gang's buffer with it. -/
theorem State.memberRemoved_of_last {g : Gang} {b : Fin 4} (h : s.membersOf m.gang = [(n, m)])
    (hg : s.gang? m.gang = some g) (hb : g.buffer = some b) (hcurrent : ∀ q, s.copy.current = some q → q.1 ≠ b) :
    s.memberRemoved n m =
      (((({ s.emptySocket n with
          copy := { s.copy with gangs := s.copy.gangs.filter fun x => x.id != m.gang } } : State).setBuffer b
        ⟨.free, [], none⟩).requeueJob m.job).cartReport m.job.loan .copy .copying .queued) := by
  have hempty : (s.emptySocket n).membersOf m.gang = [] := by
    rw [List.eq_nil_iff_forall_not_mem]
    intro p hp
    obtain ⟨hp, hpn⟩ := (State.mem_membersOf_setSocket rfl).mp hp
    rw [h, List.mem_singleton] at hp
    exact hpn (by rw [hp])
  rw [State.memberRemoved, State.leaveGang_of_empty hempty hg hb, State.freeBuffer_of_not_current]
  · rfl
  · exact hcurrent

end

/-- Settles O44: the state decides the branch of `State.removed`. -/
theorem removalEmptiesSocket : Obligations.RemovalEmptiesSocket := by
  intro s n w k r t partBack filled
  have hr : r = .next (if (s.socket n).present then finish w (s.removed n) else s) := rfl
  have hempty : s.emptySocket n = t := rfl
  have hpart (u : State) (loan : LoanNo) (path : CartPath) : u.cartReport loan path .copying .queued = partBack u loan path := by
    rw [State.cartReport_eq]
    simp only [partBack, State.modLoan]
    congr 3
    funext l
    by_cases hl : l.number = loan <;> simp [hl]
  have hcond (c : Check) (x : Condition) : (c.mode ≠ .foreignReturn → t.condition c x false = t) ∧
      (∀ l, c.mode = .foreignReturn → c.loan = some l → .returns ∈ s.line.pacing → t.condition c x false = filled l x) := by
    refine ⟨State.condition_of_not_foreign x false, fun l hm hl hp => ?_⟩
    rw [State.condition_of_foreign x false hm hl, State.setCondition_of_no_offer (s := t) l x (.inr hp)]
    rfl
  refine ⟨fun hp => ?_, fun hp => ?_⟩
  · rw [hr, if_neg (by simpa [k] using hp)]
  rw [if_pos (show (s.socket n).present = true from hp)] at hr
  have hends {u : State} (hu : s.removed n = u) : Ends r w u := by
    rw [hu] at hr
    exact .of_eq hr
  refine ⟨fun h => hends ?_, fun loan h => hends ?_, fun m h => ⟨fun hmore => hends ?_, fun g b hlast hg hb hcur => hends ?_⟩,
    fun i h => ⟨fun hb => hends ?_, fun b hb => ⟨fun hcur => hends ?_, fun q hcur => hends ?_⟩⟩,
    fun c h => ⟨fun hph => hends ?_, fun i acc hph => ⟨fun hm => hends ?_, fun l hm hl hpac => hends ?_⟩,
      fun hph => ⟨fun hm => hends ?_, fun l hm hl hpac => hends ?_, fun l hm hl => hends ?_⟩⟩,
    fun c last e h => ⟨fun hm => hends ?_, fun l hm hl hpac => hends ?_⟩⟩
  · unfold State.removed
    rcases h with h | ⟨_, h⟩ | ⟨_, h⟩ | h | ⟨_, h⟩ | ⟨_, h⟩ | h | ⟨_, h⟩ | ⟨_, h⟩ | ⟨_, h⟩ <;>
      rw [show (s.socket n).state = _ from h] <;> rfl
  · unfold State.removed
    rw [show (s.socket n).state = _ from h]
    exact hpart t loan .reissue
  · have hmember : s.removed n = s.memberRemoved n m := by
      unfold State.removed
      rcases h with h | h <;> rw [show (s.socket n).state = _ from h]
    rw [hmember, State.memberRemoved_of_unfinished hmore, hpart]
    rfl
  · have hmember : s.removed n = s.memberRemoved n m := by
      unfold State.removed
      rcases h with h | h <;> rw [show (s.socket n).state = _ from h]
    rw [hmember, State.memberRemoved_of_last hlast hg hb hcur, hpart]
    rfl
  · unfold State.removed
    rw [show (s.socket n).state = _ from h]
    simp only [State.abandonIngest, State.leaveIngest, hb]
    rfl
  · unfold State.removed
    rw [show (s.socket n).state = _ from h]
    simp only [State.abandonIngest, State.leaveIngest, hb]
    rw [State.freeBuffer_of_not_current]
    · rfl
    · exact hcur
  · unfold State.removed
    rw [show (s.socket n).state = _ from h]
    simp only [State.abandonIngest, State.leaveIngest, hb]
    rw [State.freeBuffer_of_current (x := q)]
    · rfl
    · exact hcur
  · unfold State.removed
    rw [show (s.socket n).state = _ from h]
    simp only [State.checkRemoved, hph]
    rfl
  · unfold State.removed
    rw [show (s.socket n).state = _ from h]
    simp only [State.checkRemoved, hph]
    exact (hcond c .unchecked).1 hm
  · unfold State.removed
    rw [show (s.socket n).state = _ from h]
    simp only [State.checkRemoved, hph]
    exact (hcond c .unchecked).2 l hm hl hpac
  · unfold State.removed
    rw [show (s.socket n).state = _ from h]
    simp only [State.checkRemoved, hph]
    rw [State.handOver_of_not_own (by simp [hm])]
    exact (hcond c .unchecked).1 (by simp [hm])
  · unfold State.removed
    rw [show (s.socket n).state = _ from h]
    simp only [State.checkRemoved, hph]
    rw [State.handOver_of_not_own (by simp [hm])]
    exact (hcond c .unchecked).2 l hm hl hpac
  · unfold State.removed
    rw [show (s.socket n).state = _ from h]
    simp only [State.checkRemoved, hph]
    rw [State.condition_of_not_foreign _ _ (by simp [hm]), State.handOver_of_own hm hl, State.serialAt_eq]
    simp only [State.emptySocket, State.setSocket, State.cartReturn_sockets]
    rfl
  · unfold State.removed
    rw [show (s.socket n).state = _ from h]
    exact (hcond c .erased).1 hm
  · unfold State.removed
    rw [show (s.socket n).state = _ from h]
    exact (hcond c .erased).2 l hm hl hpac

end Sys2Proof.Machine
end

section
/-! PROOFS. The poll limits and the holds of an operation in progress (R75, R81, R82, R87). -/

namespace Sys2Proof.Machine

section
variable {s : State} {n : Idx8}

theorem State.modSocket_setSocket (a : Socket) (f : Socket → Socket) :
    (s.setSocket n a).modSocket n f = s.setSocket n (f a) := by
  rw [State.modSocket, State.socket_setSocket_self, State.setSocket_setSocket]

theorem State.putSock_setSocket (a : Socket) (st : SockState) :
    (s.setSocket n a).putSock n st = s.setSocket n { a with state := st } :=
  State.modSocket_setSocket a _

theorem State.clearOp_setSocket (a : Socket) :
    (s.setSocket n a).clearOp n = s.setSocket n { a with op := none, hold := none } :=
  State.modSocket_setSocket a _

/-- After a LOCK the failure of the guarded operation goes to its owner (R82). -/
theorem State.locked_true :
    s.locked n true =
      (s.setSocket n { s.socket n with op := none, hold := none, link := (s.socket n).link.lock }).opFailed n := by
  rw [State.locked, if_pos rfl, State.lockSocket, State.modSocket, State.clearOp_setSocket]

/-- After the LOCK of an identification sector 0 is read (R87). -/
theorem State.locked_false :
    s.locked n false =
      s.setSocket n { s.socket n with op := some (.read 0 4096), hold := none, link := (s.socket n).link.lock } := by
  rw [State.locked, if_neg (by decide), State.lockSocket]
  exact State.modSocket_setSocket _ _

/-- Where the ready line goes low in no transfer in progress, or is low already, nothing happens (R81). -/
theorem State.holdStarts_of_not_held {t : HeldTransfer} (h : (s.socket n).hold ≠ none ∨ (s.socket n).held t = none) :
    s.holdStarts n t = s := by
  obtain e | ⟨x, hhold, hheld, -⟩ := s.holdStarts_cases n t
  · exact e
  · rcases h with h | h
    · exact absurd hhold h
    · rw [h] at hheld
      cases hheld

/-- The fall of the ready line in a transfer in progress starts a hold of 50 ms (R81). -/
theorem State.holdStarts_of_held {t : HeldTransfer} {x : Socket} (h : (s.socket n).hold = none)
    (hx : (s.socket n).held t = some x) : s.holdStarts n t = s.setSocket n { x with hold := some (s.after 50) } := by
  rw [State.holdStarts, h, hx]

end

/-- The UNLOCK is paused in the transfer before the first STATE alone (R81, R82). -/
theorem Socket.held_unlock_none {k : Socket} (h : ∀ g p, k.op ≠ some (.guarded g (.beforeCommand (some p)))) :
    k.held .unlock = none := by
  unfold Socket.held
  dsimp only
  split
  next g p hop => exact absurd hop (h g p)
  next => rfl

theorem Socket.held_command_none {k : Socket} (h : ∀ g d p, k.op ≠ some (.guarded g (.command d p))) :
    k.held .command = none := by
  unfold Socket.held
  dsimp only
  split
  next g d p hop => exact absurd hop (h g d p)
  next => rfl

theorem Socket.held_lock_none {k : Socket} (h : ∀ b, k.op ≠ some (.locking b)) : k.held .lock = none := by
  unfold Socket.held
  dsimp only
  split
  next b hop => exact absurd hop (h b)
  next => rfl

/-- An operation with none of the transfers that a hold puts off goes on as it was at the line's release (R81). -/
theorem Socket.resumed_other {k : Socket} {op : Op} (now : Millis) (hop : k.op = some op)
    (h : ∀ g, op ≠ .guarded g .unlocking ∧ op ≠ .guarded g .commanding) : k.resumed now = k := by
  unfold Socket.resumed
  split
  next g hg => exact absurd (Option.some.inj (hop.symm.trans hg)) (h g).1
  next g hg => exact absurd (Option.some.inj (hop.symm.trans hg)) (h g).2
  next => rfl

/-- Settles O48: the operation in progress and its stage pick the branch. -/
theorem limitsAndHoldsFailOperation : Obligations.LimitsAndHoldsFailOperation := by
  intro s n w k due ended latched locked locking fails runs falls held
  have hpoll (e) : exec (.pollLimitExpiry n e) s = execPollLimitExpiry n e s := rfl
  have htimeout (e) : exec (.holdTimeout n e) s = execHoldTimeout n e s := rfl
  have hfalls {t : HeldTransfer} {u : State} (h : s.holdStarts n t = u) : falls t u := congrArg Host.Outcome.next h
  have hreleased (e) : exec (.readyLineHold n (.released e)) s = .next (s.holdEnds n e) := rfl
  have hfails {r : OpEnd → Host.Outcome State Fault Refusal}
      (h : ∀ e : OpEnd, r e = .next (finish e.write (s.sendLock n e.lockHeld true))) : fails r :=
    ⟨.of_eq ((h ⟨false, w⟩).trans (by rw [State.sendLock_false, State.locked_true]; rfl)), .of_eq (h ⟨true, w⟩)⟩
  have hlimit {d : Millis} (h : runs d) (e : OpEnd) : execPollLimitExpiry n e s =
      .next (if s.reached d then finish e.write (s.sendLock n e.lockHeld true) else s) := by
    unfold execPollLimitExpiry
    obtain ⟨g, hop | ⟨p, hop⟩⟩ := h <;> rw [show (s.socket n).op = _ from hop] <;> rfl
  have hop_eq {o : Option Op} (h : k.op = o) : (s.socket n).op = o := h
  have hhold_eq {o : Option Millis} (h : k.hold = o) : (s.socket n).hold = o := h
  refine ⟨fun d hr => ⟨fun hd => ?_, fun hd e => ?_⟩, fun hno e => ?_, fun d hd hdue =>
    ⟨fun g st hop => ?_, fun op b hop hng => .of_eq ?_⟩, fun h e => ?_, fun h => ?_, fun h line => ?_,
    fun h t => hfalls (State.holdStarts_of_not_held (.inl h)), fun h => ?_, fun h e => ?_, fun h hh => ?_⟩
  · refine hfails (r := fun e => exec (.pollLimitExpiry n e) s) fun e => ?_
    rw [hpoll, hlimit hr, if_pos (State.reached_iff.mpr hd)]
  · rw [hpoll, hlimit hr, if_neg fun hd' => hd (State.reached_iff.mp hd')]
  · rw [hpoll]
    unfold execPollLimitExpiry
    split
    next g st hop =>
      cases st with
      | polling d => exact absurd ⟨g, .inl hop⟩ (hno d)
      | command d p => exact absurd ⟨g, .inr ⟨p, hop⟩⟩ (hno d)
      | beforeCommand p => rfl
      | unlocking => rfl
      | commanding => rfl
    next => rfl
  · refine hfails (r := fun e => exec (.holdTimeout n e) s) fun e => ?_
    rw [htimeout, execHoldTimeout, hop_eq hop, hhold_eq hd]
    dsimp only
    rw [if_pos (State.reached_iff.mpr hdue)]
    rfl
  · rw [htimeout, execHoldTimeout, hop_eq hop, hhold_eq hd]
    dsimp only
    rw [if_pos (State.reached_iff.mpr hdue)]
    cases op with
    | guarded g st => exact absurd rfl (hng g st)
    | _ => rfl
  · rw [htimeout]
    unfold execHoldTimeout
    split
    next op limit hop hlim =>
      rcases h with h | h | ⟨d, h, hd⟩
      · rw [hop_eq h] at hop
        cases hop
      · rw [hhold_eq h] at hlim
        cases hlim
      · obtain rfl := Option.some.inj ((hhold_eq h).symm.trans hlim)
        rw [if_neg fun hd' => hd (State.reached_iff.mp hd')]
    next => rfl
  · have hstate : (ended.socket n).state = k.state := by rw [State.socket_setSocket_self]
    have hfault : ended.opFailed n = ended.faultSocket n := by
      unfold State.opFailed
      rw [hstate]
      obtain ⟨z, h⟩ | ⟨e, h⟩ := h <;> rw [h]
    rw [hfault, State.faultSocket, State.modSocket_setSocket, State.serialAt_eq, State.socket_setSocket_self]
  · cases line with
    | low t =>
      refine hfalls (State.holdStarts_of_not_held (.inr ?_))
      cases t <;> unfold Socket.held <;> rw [hop_eq h]
    | released e =>
      rw [hreleased, State.holdEnds, hop_eq h]
      cases (s.socket n).hold <;> rfl
  · have hheld {t : HeldTransfer} {op : Op} {l : CartLink}
        (hx : (s.socket n).held t = some { k with op := some op, link := l }) : falls t (held op l) :=
      hfalls (State.holdStarts_of_held h hx)
    have hnone {t : HeldTransfer} (hx : (s.socket n).held t = none) : falls t s :=
      hfalls (State.holdStarts_of_not_held (.inr hx))
    have hsame {op : Op} (hop : k.op = some op) : some k = some { k with op := some op, link := k.link } := by
      rw [← hop]
    refine ⟨fun g p hop => ⟨hheld ?_, hheld ?_⟩, fun g d p hop => ⟨hheld ?_, hheld ?_⟩, fun b hop => hheld ?_,
      fun op hop hin => hheld ?_, fun hno => hnone (Socket.held_unlock_none hno),
      fun hno => hnone (Socket.held_command_none hno), fun hno => hnone (Socket.held_lock_none hno), fun hin => hnone ?_⟩
    · rw [Socket.held, hop_eq hop]
    · rw [Socket.held, hop_eq hop]
      rfl
    · rw [Socket.held, hop_eq hop]
    · rw [Socket.held, hop_eq hop]
      rfl
    · rw [Socket.held, hop_eq hop]
      exact hsame hop
    · obtain ⟨d, rfl⟩ | ⟨a, c, rfl⟩ | ⟨g, rfl | ⟨d, rfl⟩⟩ := hin <;> rw [Socket.held, hop_eq hop]
      · exact hsame hop
      · exact hsame hop
      · rfl
      · rfl
    · obtain hop | ⟨b, hop⟩ | ⟨g, hop | hop⟩ := hin <;> rw [Socket.held, hop_eq hop] <;> rfl
  · rw [hreleased, State.holdEnds, hhold_eq h]
  · have hends {op : Op} (hop : k.op = some op) (hl : ∀ b, op ≠ .locking b) (e : OpEnd) :
        s.holdEnds n e = s.setSocket n { k.resumed s.time.ms with hold := none } := by
      unfold State.holdEnds
      rw [hhold_eq hh, hop_eq hop]
      cases op with
      | locking b => exact absurd rfl (hl b)
      | _ => rfl
    have hlock {b : Bool} (hop : k.op = some (.locking b)) (e : OpEnd) :
        s.holdEnds n e = finish e.write (s.sendLock n e.lockHeld b) := by
      rw [State.holdEnds, hhold_eq hh, hop_eq hop]
    refine ⟨fun op e hop hng hl => ?_, fun g e hop => ?_, fun g e hop => ?_, fun hop => .of_eq ?_, fun hop => .of_eq ?_,
      fun b hop => .of_eq ?_⟩
    · rw [hreleased, hends hop hl, Socket.resumed_other _ hop hng]
    · rw [hreleased, hends hop (by simp), Socket.resumed, hop]
      rfl
    · intro limit
      have hlim : limit = BitVec.ofNat 32 (pollLimit g) := by cases g <;> rfl
      rw [hreleased, hends hop (by simp), Socket.resumed, hop, hlim]
      dsimp only
      simp only [CartLink.write, Bool.and_eq_true, Bool.not_eq_true']
    · rw [hreleased, hlock hop, State.sendLock_false, State.locked_true]
      rfl
    · rw [hreleased, hlock hop, State.sendLock_false, State.locked_false]
      rfl
    · rw [hreleased, hlock hop]
      rfl

end Sys2Proof.Machine
end

section
/-! PROOFS. The Bench Port's notices, the tests a command line's word can fail, and the SHOW commands (R169 to R173). -/

namespace Sys2Proof.Machine

section
variable {s : State}

/-! ### The notice queue (R173) -/

/-- The notice queue with notices appended, where there is room for them. -/
def State.withNotices (s : State) (xs : List Notice) : State :=
  { s with bench := { s.bench with notices := s.bench.notices ++ xs } }

theorem State.raise_of_lt (x : Notice) (h : s.bench.notices.length < 64) : s.raise x = s.withNotices [x] := if_pos h

theorem State.withNotices_append (xs ys : List Notice) : (s.withNotices xs).withNotices ys = s.withNotices (xs ++ ys) := by
  simp only [State.withNotices, List.append_assoc]

theorem State.withNotices_nil : s.withNotices [] = s := by
  simp only [State.withNotices, List.append_nil]

theorem State.raise_withNotices (x : Notice) (xs : List Notice) (h : s.bench.notices.length + xs.length < 64) :
    (s.withNotices xs).raise x = s.withNotices (xs ++ [x]) := by
  rw [State.raise_of_lt, State.withNotices_append]
  rwa [State.withNotices, List.length_append]

/-- Notices raised one after another join the queue in order while there is room for them (R173). -/
theorem State.foldl_raise {α : Type} (line : α → Option Notice) (as : List α)
    (h : s.bench.notices.length + as.length ≤ 64) :
    as.foldl (fun t a => ((line a).map t.raise).getD t) s = s.withNotices (as.filterMap line) := by
  induction as generalizing s with
  | nil => exact State.withNotices_nil.symm
  | cons a as ih =>
    rw [List.length_cons] at h
    rw [List.foldl_cons, List.filterMap_cons]
    cases line a with
    | none =>
      rw [Option.map_none, Option.getD_none]
      exact ih (by omega)
    | some x =>
      have hlt : s.bench.notices.length < 64 := by omega
      rw [Option.map_some, Option.getD_some, State.raise_of_lt x hlt, ih, State.withNotices_append]
      · rfl
      · rw [State.withNotices, List.length_append, List.length_singleton]
        omega

/-! ### The tests before an owner takes a command (R169) -/

theorem State.startRefuses_eq_false (h : s.start.phase = .running) (word : String) : s.startRefuses word = false := by
  rw [State.startRefuses, h]
  rfl

theorem State.tested_of_running {word : String} (f : State → State) (h : s.start.phase = .running)
    (hl : s.line.state ≠ .listen ∨ listenAllows word = true) : s.tested word f = f s.emptyBuffer := by
  have hlisten : s.listenRefuses word = false := by
    rw [State.listenRefuses, Bool.and_eq_false_iff]
    refine hl.imp (fun hne => beq_eq_false_iff_ne.mpr hne) fun hw => by rw [hw]; rfl
  rw [State.tested, State.startRefuses_eq_false h, hlisten, if_neg (by decide), if_neg (by decide)]

theorem State.benchLoan?_eq_some {b : BenchLoan} {l : Loan} :
    s.benchLoan? b = some l ↔
      (1 ≤ b.station ∧ b.station ≤ 63 ∧ 1 ≤ b.sequence ∧ b.sequence ≤ 262143) ∧
        s.loan? (makeNumber (BitVec.ofNat 6 b.station) (BitVec.ofNat 18 b.sequence)) = some l := by
  unfold State.benchLoan? benchLoanNumber
  split
  next h => simp [h]
  next h => simp [h]

theorem State.benchLoan?_eq_none {b : BenchLoan} :
    s.benchLoan? b = none ↔
      ((1 ≤ b.station ∧ b.station ≤ 63 ∧ 1 ≤ b.sequence ∧ b.sequence ≤ 262143) →
        s.loan? (makeNumber (BitVec.ofNat 6 b.station) (BitVec.ofNat 18 b.sequence)) = none) := by
  unfold State.benchLoan? benchLoanNumber
  split
  next h => simp [h]
  next h => simp [h]

/-! ### The SHOW commands (R170 to R172) -/

theorem showSockets_eq (h : s.bench.notices.length ≤ 56) :
    s.showSockets = s.withNotices ((List.finRange 8).map s.socketLine) := by
  have hfold := State.foldl_raise (s := s) (fun n => some (s.socketLine n)) (List.finRange 8)
    (by rw [List.length_finRange]; omega)
  rw [List.filterMap_eq_map'] at hfold
  exact hfold

theorem showTrays_eq (h : s.bench.notices.length ≤ 47) :
    s.showTrays =
      s.withNotices (s.traysLine :: (List.finRange 16).filterMap fun r => (s.tray r).map (s.trayLine r)) := by
  have hfold := State.foldl_raise (s := s.withNotices [s.traysLine]) (fun r => (s.tray r).map (s.trayLine r))
    (List.finRange 16) (by
      rw [List.length_finRange, State.withNotices, List.length_append, List.length_singleton]
      omega)
  rw [State.withNotices_append] at hfold
  rw [List.singleton_append] at hfold
  rw [← hfold, State.showTrays, State.raise_of_lt _ (by omega)]
  congr 1
  funext t r
  cases s.tray r <;> rfl

/-- The TRAY line of a record, its flags and its place written out (R171). -/
theorem trayLine_eq (r : Fin 16) :
    s.trayLine r = fun x =>
      .line "TRAY"
        [.num r.val, .num x.number.toNat, .num x.group.val, .word x.state.word, .num x.load, .num x.loans.length,
          .num (if x.state = .filling then (s.time.sec - x.opened).toNat else 0), .num (if x.urgent then 1 else 0),
          .num (if x.state = .dispatching ∧ r ∈ s.tables.dispatchLine then s.tables.dispatchLine.idxOf r + 1 else 0)] := by
  funext x
  have hurgent : x.urgent.toNat = if x.urgent then 1 else 0 := by cases x.urgent <;> rfl
  rw [State.trayLine, hurgent, State.linePlace, List.contains_eq_mem]
  by_cases hd : x.state = .dispatching <;> simp [hd]

theorem traysLine_eq :
    s.traysLine =
      .line "TRAYS"
        [.num s.tables.day.toNat, .num ((List.finRange 16).countP fun q => (s.tray q).isNone),
          .num s.tables.nextTray.toNat] := by
  rw [State.traysLine, List.countP_eq_length_filter]
  rfl

/-- The serial and the shelf code that a LOAN line shows (R172). -/
theorem serialFields_spec (l : Loan) :
    ∃ serial shelf, s.serialFields l = [serial, shelf] ∧
      (∀ p k a, l.cart = some ⟨p, .ready k, a⟩ → serial = .num k.toNat ∧ shelf = .hyphen) ∧
      (l.cart = none → serial = .hyphen ∧ shelf = .hyphen) ∧
      (∀ a x, l.cart = some ⟨.reissue, .queued, a⟩ → s.issuing? l.number = some x →
        serial = .num x.serial.toNat ∧ shelf = shelfField x.shelf) := by
  unfold State.serialFields
  split
  next hc => exact ⟨_, _, rfl, by simp_all, by simp_all, by simp_all⟩
  next hc =>
    split
    next x hx => exact ⟨_, _, rfl, by simp_all, by simp_all, by simp_all⟩
    next hx => exact ⟨_, _, rfl, by simp_all, by simp_all, by simp_all⟩
  next hready hreissue =>
    refine ⟨_, _, rfl, fun p k a hc => ⟨?_, rfl⟩, fun _ => ⟨rfl, rfl⟩, fun a x hc => ?_⟩
    · exact absurd hc (hready p k a)
    · exact absurd hc (hreissue _ a)

theorem showLoan_of_none {b : BenchLoan} (h : s.benchLoan? b = none) : s.showLoan b = s.refuse .noLoan "SHOW LOAN" := by
  rw [State.showLoan, h]

theorem showLoan_of_some {b : BenchLoan} {l : Loan} (h : s.benchLoan? b = some l) :
    s.showLoan b = s.raise (s.loanLine l) := by
  rw [State.showLoan, h]

theorem State.capacityAt_eq {n : Idx8} {v : View} (h : (s.socket n).view = some v) : s.capacityAt n = v.capacity.blocks := by
  rw [State.capacityAt, h]

theorem State.lastBlock_eq {n : Idx8} {v : View} (h : (s.socket n).view = some v) :
    s.lastBlock n = v.capacity.blocks - 1 := by
  rw [State.lastBlock, h]

end

/-- Settles O60: each command's notices fit in the queue, and join it in order. -/
theorem showCommandsRaiseLines : Obligations.ShowCommandsRaiseLines := by
  intro s hrun b lines
  have hshow {word : String} (f : State → State) (h : listenAllows word = true) : s.tested word f = f s.emptyBuffer :=
    State.tested_of_running f hrun (.inr h)
  refine ⟨fun hlen => congrArg Host.Outcome.next ?_, fun n h => if_pos h, fun n h =>
    ⟨roleWord (s.role n), s.socketDetail n, ?_, if_neg h, ?_⟩, fun hlen => congrArg Host.Outcome.next ?_, fun loan =>
    ⟨fun hnone => congrArg Host.Outcome.next ?_, fun l hnamed hl hlen => ?_⟩⟩
  · rw [hshow _ (by decide)]
    exact showSockets_eq (s := s.emptyBuffer) hlen
  · rw [State.role_of_not_listen h]
    cases s.cfg.roles[n] <;> rfl
  · refine ⟨fun y hy => ?_, fun m hm => ?_, fun l hl => ?_, fun m hm => ?_, fun l x hl => ?_, fun hnone => ?_,
      fun v hv => ⟨fun c hc => ?_, fun e he => ?_, fun c last e he => ?_, fun c hc => ?_⟩, fun c hc => ?_,
      fun i d hi hd => ?_⟩
    · rw [State.socketDetail, hy]
    · rw [State.socketDetail, hm]
    · rw [State.socketDetail, hl]
    · rw [State.socketDetail, hm]
    · rw [State.socketDetail, hl]
    · obtain h | ⟨z, h⟩ | h | h := hnone <;> rw [State.socketDetail, h]
    · rw [State.socketDetail, hc, ← State.capacityAt_eq hv]
    · rw [State.socketDetail, he, ← State.lastBlock_eq hv]
      cases e <;> rfl
    · rw [State.socketDetail, he]
      cases e <;> rfl
    · rw [State.socketDetail, hc, hv]
      rfl
    · rw [State.socketDetail, hc]
      dsimp only
      cases c.loan <;> cases c.phase <;> rfl
    · rw [State.socketDetail, hi]
      dsimp only
      rw [hd]
      rfl
  · rw [hshow _ (by decide), showTrays_eq (s := s.emptyBuffer) hlen, traysLine_eq]
    simp only [trayLine_eq]
    rfl
  · rw [hshow _ (by decide)]
    exact showLoan_of_none (s := s.emptyBuffer) (State.benchLoan?_eq_none.mpr hnone)
  · have hexec : exec (.showLoan loan) s = .next (lines [s.loanLine l]) := by
      refine congrArg Host.Outcome.next ?_
      rw [hshow _ (by decide), showLoan_of_some (s := s.emptyBuffer) (State.benchLoan?_eq_some.mpr ⟨hnamed, hl⟩)]
      exact State.raise_of_lt (s := s.emptyBuffer) _ hlen
    obtain ⟨serial, shelf, hfields, hready, hnone, hissuing⟩ := serialFields_spec (s := s) l
    refine ⟨serial, shelf, ?_, hready, hnone, fun a x hc hx => ?_⟩
    · rw [hexec, State.loanLine, State.loan?_number hl, hfields]
      rfl
    · obtain ⟨hserial, hshelf⟩ := hissuing a x hc (by rw [State.loan?_number hl]; exact hx)
      rw [hserial, hshelf]
      exact ⟨rfl, by cases x.shelf <;> rfl⟩

end Sys2Proof.Machine
end

section
/-! PROOFS. The stock commands of the bench (R126, R129, R132). -/

namespace Sys2Proof.Machine

section
variable {s : State} {w : RecordWrite} {c : Instr} {word : String} {f : State → State} {t : State}

/-- Once start has ended, outside LISTEN, a command's owner takes it with the line's buffer emptied (R167, R169). -/
theorem ends_of_command (hexec : exec c s = .next (s.tested word (·.owned w f))) (hrun : s.start.phase = .running)
    (hlisten : s.line.state ≠ .listen) (h : f s.emptyBuffer = t) : Ends (exec c s) w t := by
  refine .of_eq ?_
  rw [hexec, State.tested_of_running _ hrun (.inl hlisten), State.owned, h]

end

section
variable {s : State}

theorem reopenEntry_eq (k : Work) (serves : Format → Bool) (d : Millis) :
    reopenEntry k serves d = fun e =>
      if e.state = .unbid ∧ e.work = k ∧ serves e.format = true ∧ e.excluded = false then { e with state := .window d }
      else e := rfl

/-! ### SHELVE (R129) -/

theorem shelve_of_range {serial shelf : Nat} (h : shelf = 0 ∨ 65535 < shelf) :
    s.shelve serial shelf = s.refuse .range "SHELVE" := if_pos h

theorem shelve_of_no_stock {serial shelf : Nat} (h : ¬ (shelf = 0 ∨ 65535 < shelf))
    (hs : s.stock? (BitVec.ofNat 32 serial) = none) : s.shelve serial shelf = s.refuse .noStock "SHELVE" := by
  rw [State.shelve, if_neg h, hs]

theorem shelve_of_stock {serial shelf : Nat} (h : ¬ (shelf = 0 ∨ 65535 < shelf)) {x : StockRec}
    (hs : s.stock? (BitVec.ofNat 32 serial) = some x) :
    s.shelve serial shelf =
      s.modStock (BitVec.ofNat 32 serial) fun r => { r with shelf := some (BitVec.ofNat 16 shelf) } := by
  have hserial : x.serial = BitVec.ofNat 32 serial := beq_iff_eq.mp (List.find?_some hs :)
  rw [State.shelve, if_neg h, hs]
  dsimp only
  rw [hserial]

/-! ### DROP (R126) -/

theorem drop_of_none {title edition : Nat} (h : (benchWork title edition).bind s.dir? = none) :
    s.drop title edition = s.refuse .noTitle "DROP" := by
  rw [State.drop, h]

theorem drop_of_some {title edition : Nat} {k : Work} {d : DirEntry} (hk : benchWork title edition = some k)
    (h : s.dir? k = some d) :
    s.drop title edition =
      if d.state = .loading ∨ 0 < s.users k then s.refuse .inUse "DROP"
      else if d.state = .valid then (s.dropDir k).titleVoid k
      else s.dropDir k := by
  have hwork : d.work = k := beq_iff_eq.mp (List.find?_some h :)
  rw [State.drop, hk, Option.bind_some, h]
  dsimp only
  rw [hwork]

/-! ### SET (R132) -/

theorem installSet_of_range {title edition volumes copies : Nat}
    (h : title = 0 ∨ 15 < edition ∨ volumes = 0 ∨ 40 < volumes ∨ copies = 0 ∨ 15 < copies) :
    s.installSet title edition volumes copies = s.refuse .range "SET" := by
  unfold State.installSet benchWork
  split
  next => rfl
  next k hk =>
    split at hk
    next hn => exact if_pos (h.imp_right fun h => h.resolve_left (by omega))
    next => cases hk

theorem installSet_of_ok {title edition volumes copies : Nat} {k : Work} (hk : benchWork title edition = some k)
    (h : ¬ (title = 0 ∨ 15 < edition ∨ volumes = 0 ∨ 40 < volumes ∨ copies = 0 ∨ 15 < copies)) :
    (∀ x, s.set? k = some x →
      s.installSet title edition volumes copies =
        if volumes ≠ x.volumes then s.refuse .mismatch "SET"
        else if 15 < x.held + copies then s.refuse .range "SET"
        else (s.modSet k fun r => { r with held := r.held + copies, onShelf := r.onShelf + copies }).brailleGain k) ∧
    (s.set? k = none →
      s.installSet title edition volumes copies =
        if 128 ≤ s.tables.sets.length then s.refuse .tableFull "SET"
        else
          ({ s with tables := { s.tables with sets := s.tables.sets ++ [⟨k, volumes, copies, copies, 0⟩] } } : State).brailleGain
            k) := by
  have hok : ¬ (title = 0 ∨ volumes = 0 ∨ 40 < volumes ∨ copies = 0 ∨ 15 < copies) := by tauto
  constructor
  · intro x hx
    rw [State.installSet, hk]
    dsimp only
    rw [if_neg hok, hx]
  · intro hx
    rw [State.installSet, hk]
    dsimp only
    rw [if_neg hok, hx]

end

/-- Settles O58: each command's tests in their order. -/
theorem stockCommandsAtBench : Obligations.StockCommandsAtBench := by
  intro s w hrun hlisten b ends
  have hends {c : Instr} {word : String} {f : State → State} {t : State}
      (hexec : exec c s = .next (s.tested word (·.owned w f))) (h : f s.emptyBuffer = t) : ends c t :=
    ends_of_command hexec hrun hlisten h
  refine ⟨fun serial shelf hserial => ?_, fun title edition => ?_,
    fun title edition volumes copies htitle => ?_⟩
  · have hshelve {t : State} (h : s.emptyBuffer.shelve serial shelf = t) : ends (.shelve serial shelf w) t := hends rfl h
    refine ⟨fun h => hshelve (shelve_of_range h), fun h1 h2 => ?_⟩
    have hrange : ¬ (shelf = 0 ∨ 65535 < shelf) := by omega
    refine ⟨fun hs => hshelve (shelve_of_no_stock hrange hs), fun x hs => hshelve ?_⟩
    have hkey (y : StockRec) : y.serial = BitVec.ofNat 32 serial ↔ y.serial.toNat = serial := by
      rw [← BitVec.toNat_inj, BitVec.toNat_ofNat, Nat.mod_eq_of_lt (by omega)]
    rw [shelve_of_stock hrange (s := s.emptyBuffer) hs, State.modStock]
    simp only [hkey]
    rfl
  · intro k named u
    have hdrop {t : State} (h : s.emptyBuffer.drop title edition = t) : ends (.drop title edition w) t := hends rfl h
    have hnamed : named → benchWork title edition = some k := fun h => if_pos h
    refine ⟨fun h => hdrop (drop_of_none ?_), fun d hn hd => ?_⟩
    · by_cases hn : named
      · rw [hnamed hn]
        exact h hn
      · rw [benchWork, if_neg hn]
        rfl
    have heq := drop_of_some (s := s.emptyBuffer) (hnamed hn) hd
    refine ⟨fun h => hdrop ?_, fun hv hu => hdrop ?_, fun hv hu => hdrop ?_⟩
    · rw [heq]
      exact if_pos h
    · rw [heq, if_neg, if_neg (by simp [hv])]
      · rfl
      · rintro (h | h)
        · simp [hv] at h
        · exact absurd hu (Nat.pos_iff_ne_zero.mp h)
    · rw [heq, if_neg, if_pos hv]
      · rfl
      · rintro (h | h)
        · simp [hv] at h
        · exact absurd hu (Nat.pos_iff_ne_zero.mp h)
  · intro k r gained bad
    have hset {t : State} (h : s.emptyBuffer.installSet title edition volumes copies = t) : r t := hends rfl h
    have hgained (sets : List SetRec) :
        ({ s.emptyBuffer with tables := { s.tables with sets := sets } } : State).brailleGain k = gained sets := by
      simp only [State.brailleGain, State.stockGain, reopenEntry_eq, Format.hasBraille_iff, State.windowMs_eq]
      rfl
    refine ⟨fun h => hset (installSet_of_range h), fun h => ?_⟩
    have hk : benchWork title edition = some k := if_pos ⟨htitle, by simp only [bad] at h; omega⟩
    obtain ⟨hsome, hnone⟩ := installSet_of_ok (s := s.emptyBuffer) hk h
    refine ⟨fun x hx => ⟨fun hv => hset ?_, fun hv hc => hset ?_, fun hv hc => hset ?_⟩, fun hx =>
      ⟨fun hl => hset ?_, fun hl => hset ?_⟩⟩
    · rw [hsome x hx, if_pos hv]
      rfl
    · rw [hsome x hx, if_neg (by simpa using hv), if_pos hc]
      rfl
    · rw [hsome x hx, if_neg (by simpa using hv), if_neg (by omega)]
      exact hgained _
    · rw [hnone hx]
      exact if_pos hl
    · rw [hnone hx, if_neg]
      · exact hgained _
      · exact Nat.not_le.mpr hl

end Sys2Proof.Machine
end

section
/-! PROOFS. How the Bench Port reads a line: runs of characters between separators, groups of digits, the command word and
the fields of each command (R169). -/

namespace Sys2Proof.Machine

/-! ### Runs between separators -/

section
variable {sep : Byte}

theorem splitBytes_ne_nil (bs : List Byte) : splitBytes sep bs ≠ [] := by
  cases bs with
  | nil => simp [splitBytes]
  | cons b bs =>
    rw [splitBytes]
    split
    next => simp
    next => split <;> simp

theorem splitBytes_eq_cons (bs : List Byte) : ∃ p ps, splitBytes sep bs = p :: ps :=
  List.exists_cons_of_ne_nil (splitBytes_ne_nil bs)

/-- A line is its runs with a separator before each but the first. -/
theorem splitBytes_join (bs : List Byte) {p : List Byte} {ps : List (List Byte)} (h : splitBytes sep bs = p :: ps) :
    bs = p ++ ps.flatMap fun f => sep :: f := by
  induction bs generalizing p ps with
  | nil =>
    obtain ⟨rfl, rfl⟩ := List.cons.inj (h : [[]] = p :: ps)
    rfl
  | cons b bs ih =>
    obtain ⟨q, qs, hq⟩ := splitBytes_eq_cons (sep := sep) bs
    have hbs := ih hq
    rw [splitBytes, hq] at h
    dsimp only at h
    split at h
    next hb =>
      obtain ⟨rfl, rfl⟩ := List.cons.inj h
      rw [hbs, hb]
      rfl
    next hb =>
      obtain ⟨rfl, rfl⟩ := List.cons.inj h
      rw [hbs]
      rfl

theorem splitBytes_of_not_mem {u : List Byte} (h : sep ∉ u) : splitBytes sep u = [u] := by
  induction u with
  | nil => rfl
  | cons b u ih =>
    rw [List.mem_cons, not_or] at h
    rw [splitBytes, ih h.2]
    exact if_neg fun e => h.1 e.symm

theorem splitBytes_append_sep {u : List Byte} (h : sep ∉ u) (rest : List Byte) :
    splitBytes sep (u ++ sep :: rest) = u :: splitBytes sep rest := by
  induction u with
  | nil =>
    obtain ⟨p, ps, hp⟩ := splitBytes_eq_cons (sep := sep) rest
    rw [List.nil_append, splitBytes, hp]
    exact if_pos rfl
  | cons b u ih =>
    rw [List.mem_cons, not_or] at h
    rw [List.cons_append, splitBytes, ih h.2]
    exact if_neg fun e => h.1 e.symm

/-- Runs joined by separators that hold none are read back. -/
theorem splitBytes_flatMap {u : List Byte} {fs : List (List Byte)} (hu : sep ∉ u) (hfs : ∀ f ∈ fs, sep ∉ f) :
    splitBytes sep (u ++ fs.flatMap fun f => sep :: f) = u :: fs := by
  induction fs generalizing u with
  | nil => rw [List.flatMap_nil, List.append_nil, splitBytes_of_not_mem hu]
  | cons f fs ih =>
    rw [List.forall_mem_cons] at hfs
    rw [List.flatMap_cons, List.cons_append, splitBytes_append_sep hu, ih hfs.1 hfs.2]

/-- No run holds the separator. -/
theorem not_mem_of_mem_splitBytes (bs : List Byte) : ∀ p ∈ splitBytes sep bs, sep ∉ p := by
  induction bs with
  | nil => simp [splitBytes]
  | cons b bs ih =>
    obtain ⟨q, qs, hq⟩ := splitBytes_eq_cons (sep := sep) bs
    rw [hq, List.forall_mem_cons] at ih
    obtain ⟨hq', hqs⟩ := ih
    rw [splitBytes, hq]
    dsimp only
    split
    next => simp only [List.forall_mem_cons]; exact ⟨List.not_mem_nil, hq', hqs⟩
    next hb =>
      simp only [List.forall_mem_cons]
      refine ⟨fun h => ?_, hqs⟩
      rcases List.mem_cons.mp h with h | h
      · exact hb h.symm
      · exact hq' h

end

/-! ### Text -/

/-- The codes of a run's text are the run. -/
theorem ascii_textOf (bs : List Byte) : ascii (textOf bs) = bs := by
  have hchar (b : Byte) : BitVec.ofNat 8 (Char.ofNat b.toNat).toNat = b := by
    have hvalid : b.toNat.isValidChar := .inl (lt_trans b.isLt (by decide))
    rw [Char.toNat_ofNat, if_pos hvalid, BitVec.ofNat_toNat, BitVec.setWidth_eq]
  rw [ascii, textOf, String.toList_ofList, List.map_map]
  exact (List.map_congr_left fun b _ => hchar b).trans (List.map_id bs)

theorem textOf_append (a b : List Byte) : textOf (a ++ b) = textOf a ++ textOf b := by
  rw [textOf, textOf, textOf, List.map_append, String.ofList_append]

theorem textOf_inj {a b : List Byte} (h : textOf a = textOf b) : a = b := by
  rw [← ascii_textOf a, h, ascii_textOf]

/-- The characters of a line's command word (R169). -/
def commandBytes (line : List Byte) : List Byte :=
  match splitBytes 32 line with
  | [] => []
  | [w] => w
  | w :: v :: _ => if w = ascii "SHOW" then w ++ 32 :: v else w

theorem commandWord_eq (line : List Byte) : commandWord line = textOf (commandBytes line) := by
  unfold commandWord commandBytes
  obtain ⟨w, ps, h⟩ := splitBytes_eq_cons (sep := 32) line
  rw [h]
  cases ps with
  | nil => rfl
  | cons v ps =>
    dsimp only
    split
    next => rw [textOf_append, String.append_assoc, ← List.singleton_append, textOf_append]; rfl
    next => rfl

/-! ### Numbers and loans -/

theorem digitOf_eq_some_iff {b : Byte} {d : Nat} :
    digitOf b = some d ↔ (48 ≤ b.toNat ∧ b.toNat ≤ 57) ∧ b.toNat - 48 = d := by
  unfold digitOf
  split
  next h => simp [h]
  next h => simp [h]

theorem digitsValue_eq_some_iff {acc k : Nat} {bs : List Byte} :
    digitsValue acc bs = some k ↔
      (∀ c ∈ bs, 48 ≤ c.toNat ∧ c.toNat ≤ 57) ∧ bs.foldl (fun a c => 10 * a + (c.toNat - 48)) acc = k := by
  induction bs generalizing acc with
  | nil => simp [digitsValue]
  | cons b bs ih =>
    rw [digitsValue, Option.bind_eq_some_iff, List.forall_mem_cons, List.foldl_cons]
    simp only [digitOf_eq_some_iff, ih]
    constructor
    · rintro ⟨_, ⟨hb, rfl⟩, hbs, hk⟩
      exact ⟨⟨hb, hbs⟩, hk⟩
    · rintro ⟨⟨hb, hbs⟩, hk⟩
      exact ⟨_, ⟨hb, rfl⟩, hbs, hk⟩

theorem groupOfDigits_eq_some_iff {bs : List Byte} {k : Nat} :
    groupOfDigits bs = some k ↔
      1 ≤ bs.length ∧ bs.length ≤ 10 ∧ (∀ c ∈ bs, 48 ≤ c.toNat ∧ c.toNat ≤ 57) ∧
        bs.foldl (fun a c => 10 * a + (c.toNat - 48)) 0 = k ∧ k ≤ 4294967295 := by
  unfold groupOfDigits
  split
  next h =>
    rw [Option.bind_eq_some_iff]
    simp only [digitsValue_eq_some_iff, Option.ite_none_right_eq_some, Option.some.injEq]
    constructor
    · rintro ⟨n, ⟨hd, hv⟩, hn, rfl⟩
      exact ⟨h.1, h.2, hd, hv, hn⟩
    · rintro ⟨-, -, hd, hv, hn⟩
      exact ⟨k, ⟨hd, hv⟩, hn, rfl⟩
  next h =>
    simp only [reduceCtorEq, false_iff]
    exact fun ⟨h1, h2, _⟩ => h ⟨h1, h2⟩

/-- A group of digits holds no separator. -/
theorem not_mem_of_groupOfDigits {bs : List Byte} {k : Nat} (h : groupOfDigits bs = some k) {b : Byte}
    (hb : b.toNat < 48 ∨ 57 < b.toNat) : b ∉ bs := by
  obtain ⟨-, -, hd, -⟩ := groupOfDigits_eq_some_iff.mp h
  intro hmem
  have := hd b hmem
  omega

theorem loanField_eq_some_iff {bs : List Byte} {l : BenchLoan} :
    loanField bs = some l ↔
      ∃ x y, bs = x ++ 46 :: y ∧ groupOfDigits x = some l.station ∧ groupOfDigits y = some l.sequence := by
  constructor
  · intro h
    unfold loanField at h
    split at h
    next a b hab =>
      obtain ⟨x, hx, h⟩ := Option.bind_eq_some_iff.mp h
      obtain ⟨y, hy, rfl⟩ := Option.map_eq_some_iff.mp h
      refine ⟨a, b, ?_, hx, hy⟩
      have := splitBytes_join bs hab
      simpa using this
    next => cases h
  · rintro ⟨x, y, rfl, hx, hy⟩
    have hsplit : splitBytes 46 (x ++ 46 :: y) = [x, y] := by
      rw [splitBytes_append_sep (not_mem_of_groupOfDigits hx (by decide)),
        splitBytes_of_not_mem (not_mem_of_groupOfDigits hy (by decide))]
    rw [loanField, hsplit]
    dsimp only
    rw [hx, hy]
    rfl

theorem not_mem_of_loanField {bs : List Byte} {l : BenchLoan} (h : loanField bs = some l) : 32 ∉ bs := by
  obtain ⟨x, y, rfl, hx, hy⟩ := loanField_eq_some_iff.mp h
  rw [List.mem_append, List.mem_cons]
  rintro (h | h | h)
  · exact not_mem_of_groupOfDigits hx (by decide) h
  · exact absurd h (by decide)
  · exact not_mem_of_groupOfDigits hy (by decide) h

end Sys2Proof.Machine
end

section
/-! PROOFS. The grammar of the bench's command lines, and the tests a line passes before its owner takes it (R167 to R169,
R173). -/

namespace Sys2Proof.Machine

/-! ### The commands (R169) -/

/-- A command's word. -/
def BenchCommand.word : BenchCommand → String
  | .pack _ _ => "PACK"
  | .pick _ => "PICK"
  | .back _ => "BACK"
  | .shelve _ _ => "SHELVE"
  | .nocart _ => "NOCART"
  | .noset _ => "NOSET"
  | .dispatch => "DISPATCH"
  | .drop _ _ => "DROP"
  | .set _ _ _ _ => "SET"
  | .showSockets => "SHOW SOCKETS"
  | .showTrays => "SHOW TRAYS"
  | .showLoan _ => "SHOW LOAN"
  | .reset => "RESET"

/-- The runs of characters of a command's word. -/
def BenchCommand.runs : BenchCommand → List (List Byte)
  | .showSockets => [ascii "SHOW", ascii "SOCKETS"]
  | .showTrays => [ascii "SHOW", ascii "TRAYS"]
  | .showLoan _ => [ascii "SHOW", ascii "LOAN"]
  | c => [ascii c.word]

/-- The fields of a command, as the runs after its word. -/
def BenchCommand.Fields : BenchCommand → List (List Byte) → Prop
  | .pack l k, fs => ∃ x y, fs = [x, y] ∧ loanField x = some l ∧ groupOfDigits y = some k
  | .shelve k z, fs => ∃ x y, fs = [x, y] ∧ groupOfDigits x = some k ∧ groupOfDigits y = some z
  | .drop t e, fs => ∃ x y, fs = [x, y] ∧ groupOfDigits x = some t ∧ groupOfDigits y = some e
  | .set t e v k, fs =>
    ∃ x y z q, fs = [x, y, z, q] ∧ groupOfDigits x = some t ∧ groupOfDigits y = some e ∧ groupOfDigits z = some v ∧
      groupOfDigits q = some k
  | .pick l, fs => ∃ x, fs = [x] ∧ loanField x = some l
  | .back l, fs => ∃ x, fs = [x] ∧ loanField x = some l
  | .nocart l, fs => ∃ x, fs = [x] ∧ loanField x = some l
  | .noset l, fs => ∃ x, fs = [x] ∧ loanField x = some l
  | .showLoan l, fs => ∃ x, fs = [x] ∧ loanField x = some l
  | .dispatch, fs => fs = []
  | .showSockets, fs => fs = []
  | .showTrays, fs => fs = []
  | .reset, fs => fs = []

/-- The command of the model that a bench command is. -/
def BenchCommand.instr (w : RecordWrite) : BenchCommand → Instr
  | .pack l k => .pack l k w
  | .pick l => .pick l w
  | .back l => .back l w
  | .shelve x k => .shelve x k w
  | .nocart l => .nocart l w
  | .noset l => .noset l w
  | .dispatch => .dispatch w
  | .drop t e => .drop t e w
  | .set t e v k => .set t e v k w
  | .showSockets => .showSockets
  | .showTrays => .showTrays
  | .showLoan l => .showLoan l
  | .reset => .reset

/-- What a command's owner does with it. -/
def BenchCommand.effect (w : RecordWrite) : BenchCommand → State → State
  | .pack l c => (·.owned w (·.pack l c))
  | .pick l => (·.owned w (·.pick l))
  | .back l => (·.owned w (·.back l))
  | .shelve x k => (·.owned w (·.shelve x k))
  | .nocart l => (·.owned w (·.nocart l))
  | .noset l => (·.owned w (·.noset l))
  | .dispatch => (·.owned w (·.dispatch))
  | .drop t e => (·.owned w (·.drop t e))
  | .set t e v k => (·.owned w (·.installSet t e v k))
  | .showSockets => (·.showSockets)
  | .showTrays => (·.showTrays)
  | .showLoan l => (·.showLoan l)
  | .reset => State.afterReset

/-- The command words of R169. -/
def commandWords : List String :=
  ["PACK", "PICK", "BACK", "SHELVE", "NOCART", "NOSET", "DISPATCH", "DROP", "SET", "SHOW SOCKETS", "SHOW TRAYS",
    "SHOW LOAN", "RESET"]

section
variable {s : State} {w : RecordWrite} {c : BenchCommand}

/-- RESET passes every test of a line (R169). -/
theorem State.tested_reset (f : State → State) : s.tested "RESET" f = f s.emptyBuffer := by
  have hstart : s.startRefuses "RESET" = false := Bool.and_eq_false_iff.mpr (.inr rfl)
  have hlisten : s.listenRefuses "RESET" = false := Bool.and_eq_false_iff.mpr (.inr rfl)
  rw [State.tested, hstart, hlisten, if_neg (by decide), if_neg (by decide)]

theorem exec_instr : exec (c.instr w) s = .next (s.tested c.word (c.effect w)) := by
  cases c with
  | reset =>
    rw [BenchCommand.word, State.tested_reset]
    rfl
  | _ => rfl

theorem State.runCommand_eq : s.runCommand w c = s.tested c.word (c.effect w) := by
  cases c with
  | reset =>
    rw [BenchCommand.word, State.tested_reset]
    rfl
  | _ => rfl

/-! ### The grammar (R169) -/

theorem loanCommand_eq_some_iff {f : BenchLoan → BenchCommand} {fs : List (List Byte)} :
    loanCommand f fs = some c ↔ ∃ l, c = f l ∧ ∃ x, fs = [x] ∧ loanField x = some l := by
  unfold loanCommand
  split
  next x => simp [and_comm, eq_comm]
  next hne =>
    simp only [reduceCtorEq, false_iff]
    rintro ⟨l, -, x, rfl, -⟩
    exact hne x rfl

theorem pairCommand_eq_some_iff {f : Nat → Nat → BenchCommand} {fs : List (List Byte)} :
    pairCommand f fs = some c ↔
      ∃ a b, c = f a b ∧ ∃ x y, fs = [x, y] ∧ groupOfDigits x = some a ∧ groupOfDigits y = some b := by
  unfold pairCommand
  split
  next x y =>
    simp only [Option.bind_eq_some_iff, Option.map_eq_some_iff]
    constructor
    · rintro ⟨a, ha, b, hb, rfl⟩
      exact ⟨a, b, rfl, x, y, rfl, ha, hb⟩
    · rintro ⟨a, b, rfl, _, _, hxy, ha, hb⟩
      cases hxy
      exact ⟨a, ha, b, hb, rfl⟩
  next hne =>
    simp only [reduceCtorEq, false_iff]
    rintro ⟨a, b, -, x, y, rfl, -⟩
    exact hne x y rfl

theorem packCommand_eq_some_iff {fs : List (List Byte)} :
    packCommand fs = some c ↔ ∃ l k, c = .pack l k ∧ BenchCommand.Fields (.pack l k) fs := by
  unfold packCommand
  split
  next x y =>
    simp only [Option.bind_eq_some_iff, Option.map_eq_some_iff]
    constructor
    · rintro ⟨a, ha, b, hb, rfl⟩
      exact ⟨a, b, rfl, x, y, rfl, ha, hb⟩
    · rintro ⟨a, b, rfl, _, _, hxy, ha, hb⟩
      cases hxy
      exact ⟨a, ha, b, hb, rfl⟩
  next hne =>
    simp only [reduceCtorEq, false_iff]
    rintro ⟨a, b, -, x, y, rfl, -⟩
    exact hne x y rfl

theorem setCommand_eq_some_iff {fs : List (List Byte)} :
    setCommand fs = some c ↔ ∃ t e v k, c = .set t e v k ∧ BenchCommand.Fields (.set t e v k) fs := by
  unfold setCommand
  split
  next x y z q =>
    simp only [Option.bind_eq_some_iff, Option.map_eq_some_iff]
    constructor
    · rintro ⟨t, ht, e, he, v, hv, k, hk, rfl⟩
      exact ⟨t, e, v, k, rfl, x, y, z, q, rfl, ht, he, hv, hk⟩
    · rintro ⟨t, e, v, k, rfl, _, _, _, _, hfs, ht, he, hv, hk⟩
      cases hfs
      exact ⟨t, ht, e, he, v, hv, k, hk, rfl⟩
  next hne =>
    simp only [reduceCtorEq, false_iff]
    rintro ⟨t, e, v, k, -, x, y, z, q, rfl, -⟩
    exact hne x y z q rfl

theorem bareCommand_eq_some_iff {d : BenchCommand} {fs : List (List Byte)} :
    bareCommand d fs = some c ↔ c = d ∧ fs = [] := by
  cases fs with
  | nil => simp [bareCommand, eq_comm]
  | cons f fs => simp [bareCommand]

/-- A line reads as a command exactly when it is the command's word and its fields. -/
theorem commandOf_eq_some_some_iff {ps : List (List Byte)} :
    commandOf ps = some (some c) ↔ ∃ fs, ps = c.runs ++ fs ∧ c.Fields fs := by
  constructor
  · intro h
    cases ps with
    | nil => cases h
    | cons p fs =>
      rw [commandOf] at h
      split at h
      next h1 =>
        obtain ⟨l, k, rfl, hf⟩ := packCommand_eq_some_iff.mp (Option.some.inj h)
        exact ⟨fs, by rw [h1]; rfl, hf⟩
      split at h
      next h1 =>
        obtain ⟨l, rfl, hf⟩ := loanCommand_eq_some_iff.mp (Option.some.inj h)
        exact ⟨fs, by rw [h1]; rfl, hf⟩
      split at h
      next h1 =>
        obtain ⟨l, rfl, hf⟩ := loanCommand_eq_some_iff.mp (Option.some.inj h)
        exact ⟨fs, by rw [h1]; rfl, hf⟩
      split at h
      next h1 =>
        obtain ⟨a, b, rfl, hf⟩ := pairCommand_eq_some_iff.mp (Option.some.inj h)
        exact ⟨fs, by rw [h1]; rfl, hf⟩
      split at h
      next h1 =>
        obtain ⟨l, rfl, hf⟩ := loanCommand_eq_some_iff.mp (Option.some.inj h)
        exact ⟨fs, by rw [h1]; rfl, hf⟩
      split at h
      next h1 =>
        obtain ⟨l, rfl, hf⟩ := loanCommand_eq_some_iff.mp (Option.some.inj h)
        exact ⟨fs, by rw [h1]; rfl, hf⟩
      split at h
      next h1 =>
        obtain ⟨rfl, hf⟩ := bareCommand_eq_some_iff.mp (Option.some.inj h)
        exact ⟨fs, by rw [h1]; rfl, hf⟩
      split at h
      next h1 =>
        obtain ⟨a, b, rfl, hf⟩ := pairCommand_eq_some_iff.mp (Option.some.inj h)
        exact ⟨fs, by rw [h1]; rfl, hf⟩
      split at h
      next h1 =>
        obtain ⟨t, e, v, k, rfl, hf⟩ := setCommand_eq_some_iff.mp (Option.some.inj h)
        exact ⟨fs, by rw [h1]; rfl, hf⟩
      split at h
      next h1 =>
        obtain ⟨rfl, hf⟩ := bareCommand_eq_some_iff.mp (Option.some.inj h)
        exact ⟨fs, by rw [h1]; rfl, hf⟩
      split at h
      next h1 =>
        cases fs with
        | nil => cases h
        | cons v fs =>
          rw [showCommand] at h
          split at h
          next h2 =>
            obtain ⟨rfl, hf⟩ := bareCommand_eq_some_iff.mp (Option.some.inj h)
            exact ⟨fs, by rw [h1, h2]; rfl, hf⟩
          split at h
          next h2 =>
            obtain ⟨rfl, hf⟩ := bareCommand_eq_some_iff.mp (Option.some.inj h)
            exact ⟨fs, by rw [h1, h2]; rfl, hf⟩
          split at h
          next h2 =>
            obtain ⟨l, rfl, hf⟩ := loanCommand_eq_some_iff.mp (Option.some.inj h)
            exact ⟨fs, by rw [h1, h2]; rfl, hf⟩
          next => cases h
      next => cases h
  · rintro ⟨fs, rfl, hf⟩
    cases c with
    | pack l k =>
      simp only [BenchCommand.runs, BenchCommand.word]
      exact congrArg some (packCommand_eq_some_iff.mpr ⟨l, k, rfl, hf⟩)
    | pick l =>
      simp only [BenchCommand.runs, BenchCommand.word]
      exact congrArg some (loanCommand_eq_some_iff.mpr ⟨l, rfl, hf⟩)
    | back l =>
      simp only [BenchCommand.runs, BenchCommand.word]
      exact congrArg some (loanCommand_eq_some_iff.mpr ⟨l, rfl, hf⟩)
    | shelve x k =>
      simp only [BenchCommand.runs, BenchCommand.word]
      exact congrArg some (pairCommand_eq_some_iff.mpr ⟨x, k, rfl, hf⟩)
    | nocart l =>
      simp only [BenchCommand.runs, BenchCommand.word]
      exact congrArg some (loanCommand_eq_some_iff.mpr ⟨l, rfl, hf⟩)
    | noset l =>
      simp only [BenchCommand.runs, BenchCommand.word]
      exact congrArg some (loanCommand_eq_some_iff.mpr ⟨l, rfl, hf⟩)
    | dispatch =>
      simp only [BenchCommand.runs, BenchCommand.word]
      exact congrArg some (bareCommand_eq_some_iff.mpr ⟨rfl, hf⟩)
    | drop t e =>
      simp only [BenchCommand.runs, BenchCommand.word]
      exact congrArg some (pairCommand_eq_some_iff.mpr ⟨t, e, rfl, hf⟩)
    | set t e v k =>
      simp only [BenchCommand.runs, BenchCommand.word]
      exact congrArg some (setCommand_eq_some_iff.mpr ⟨t, e, v, k, rfl, hf⟩)
    | showSockets =>
      simp only [BenchCommand.runs]
      exact congrArg some (bareCommand_eq_some_iff.mpr ⟨rfl, hf⟩)
    | showTrays =>
      simp only [BenchCommand.runs]
      exact congrArg some (bareCommand_eq_some_iff.mpr ⟨rfl, hf⟩)
    | showLoan l =>
      simp only [BenchCommand.runs]
      exact congrArg some (loanCommand_eq_some_iff.mpr ⟨l, rfl, hf⟩)
    | reset =>
      simp only [BenchCommand.runs, BenchCommand.word]
      exact congrArg some (bareCommand_eq_some_iff.mpr ⟨rfl, hf⟩)

/-- No run of a command's word or fields holds a space. -/
theorem BenchCommand.Fields.no_space {fs : List (List Byte)} (h : c.Fields fs) : ∀ f ∈ fs, 32 ∉ f := by
  have hdigits {bs : List Byte} {k : Nat} (h : groupOfDigits bs = some k) : 32 ∉ bs :=
    not_mem_of_groupOfDigits h (by decide)
  cases c with
  | pack l k =>
    obtain ⟨x, y, rfl, hx, hy⟩ := h
    simpa using ⟨not_mem_of_loanField hx, hdigits hy⟩
  | shelve | drop =>
    obtain ⟨x, y, rfl, hx, hy⟩ := h
    simpa using ⟨hdigits hx, hdigits hy⟩
  | set =>
    obtain ⟨x, y, z, q, rfl, hx, hy, hz, hq⟩ := h
    simpa using ⟨hdigits hx, hdigits hy, hdigits hz, hdigits hq⟩
  | pick | back | nocart | noset | showLoan =>
    obtain ⟨x, rfl, hx⟩ := h
    simpa using not_mem_of_loanField hx
  | dispatch | showSockets | showTrays | reset =>
    obtain rfl := h
    exact fun f hf => absurd hf List.not_mem_nil

/-- The line of a command and its fields reads as that command's runs. -/
theorem splitBytes_command {fs : List (List Byte)} (h : c.Fields fs) :
    splitBytes 32 (ascii c.word ++ fs.flatMap fun f => 32 :: f) = c.runs ++ fs := by
  have hone {u : List Byte} (hu : 32 ∉ u) : splitBytes 32 (u ++ fs.flatMap fun f => 32 :: f) = [u] ++ fs :=
    splitBytes_flatMap hu h.no_space
  have htwo {v : List Byte} (hv : 32 ∉ v) :
      splitBytes 32 (ascii "SHOW" ++ 32 :: v ++ fs.flatMap fun f => 32 :: f) = [ascii "SHOW", v] ++ fs := by
    rw [List.append_assoc, List.cons_append, splitBytes_append_sep (by decide), splitBytes_flatMap hv h.no_space]
    rfl
  cases c with
  | showSockets => exact htwo (v := ascii "SOCKETS") (by decide)
  | showTrays => exact htwo (v := ascii "TRAYS") (by decide)
  | showLoan =>
    simp only [BenchCommand.word, BenchCommand.runs]
    exact htwo (v := ascii "LOAN") (by decide)
  | _ =>
    simp only [BenchCommand.word, BenchCommand.runs]
    exact hone (by decide)

/-- A line whose first runs are a command's word is that word and the fields. -/
theorem line_of_splitBytes {line : List Byte} {fs : List (List Byte)} (h : splitBytes 32 line = c.runs ++ fs) :
    line = ascii c.word ++ fs.flatMap fun f => 32 :: f := by
  cases c with
  | showSockets | showTrays | showLoan =>
    simp only [BenchCommand.word]
    exact (splitBytes_join line h).trans rfl
  | _ => exact splitBytes_join line h

theorem commandWord_of_splitBytes {line : List Byte} {fs : List (List Byte)} (h : splitBytes 32 line = c.runs ++ fs) :
    commandWord line = c.word := by
  rw [commandWord_eq, commandBytes, h]
  cases c with
  | showSockets | showTrays | showLoan =>
    simp only [BenchCommand.word, BenchCommand.runs]
    rfl
  | _ =>
    simp only [BenchCommand.word, BenchCommand.runs]
    cases fs <;> rfl

theorem textOf_mem_commandWords {bs : List Byte} : textOf bs ∈ commandWords ↔ bs ∈ commandWords.map ascii := by
  have hwords : ∀ x ∈ commandWords, textOf (ascii x) = x := by decide
  rw [List.mem_map]
  constructor
  · exact fun h => ⟨_, h, ascii_textOf bs⟩
  · rintro ⟨x, hx, rfl⟩
    rw [hwords x hx]
    exact hx

/-- A run without a space that is a command's word names a command. -/
theorem commandOf_isSome_of_mem {p : List Byte} (fs : List (List Byte)) (hp : 32 ∉ p) (h : p ∈ commandWords.map ascii) :
    (commandOf (p :: fs)).isSome = true := by
  have hmem : p ∈ (commandWords.map ascii).filter (fun x => !x.contains 32) :=
    List.mem_filter.mpr ⟨h, by simpa using hp⟩
  rw [show (commandWords.map ascii).filter (fun x => !x.contains 32) =
    ["PACK", "PICK", "BACK", "SHELVE", "NOCART", "NOSET", "DISPATCH", "DROP", "SET", "RESET"].map ascii by decide] at hmem
  simp only [List.map_cons, List.map_nil, List.mem_cons, List.not_mem_nil, or_false] at hmem
  rcases hmem with h | h | h | h | h | h | h | h | h | h <;> rw [h] <;> rfl

/-- A run other than SHOW that names a command is that command's word. -/
theorem mem_of_commandOf_isSome {p : List Byte} {fs : List (List Byte)} (hs : p ≠ ascii "SHOW")
    (h : (commandOf (p :: fs)).isSome = true) : textOf p ∈ commandWords := by
  rw [commandOf, if_neg hs] at h
  by_contra hno
  have hne {x : String} (hx : textOf (ascii x) ∈ commandWords) : p ≠ ascii x := fun e => hno (e ▸ hx)
  rw [if_neg (hne (x := "PACK") (by decide)), if_neg (hne (x := "PICK") (by decide)),
    if_neg (hne (x := "BACK") (by decide)), if_neg (hne (x := "SHELVE") (by decide)),
    if_neg (hne (x := "NOCART") (by decide)), if_neg (hne (x := "NOSET") (by decide)),
    if_neg (hne (x := "DISPATCH") (by decide)), if_neg (hne (x := "DROP") (by decide)),
    if_neg (hne (x := "SET") (by decide)), if_neg (hne (x := "RESET") (by decide))] at h
  cases h

/-- The second run after SHOW names a command exactly when the two are its word. -/
theorem showCommand_isSome_iff {v : List Byte} (fs : List (List Byte)) :
    (showCommand (v :: fs)).isSome = true ↔ textOf (ascii "SHOW" ++ 32 :: v) ∈ commandWords := by
  constructor
  · intro h
    have hmem : v = ascii "SOCKETS" ∨ v = ascii "TRAYS" ∨ v = ascii "LOAN" := by
      by_contra hno
      obtain ⟨h1, h2, h3⟩ := by simpa only [not_or] using hno
      rw [showCommand, if_neg h1, if_neg h2, if_neg h3] at h
      cases h
    rcases hmem with rfl | rfl | rfl <;> decide
  · intro h
    have hmem : ascii "SHOW" ++ 32 :: v ∈ (commandWords.map ascii).filter (fun x => x.contains 32) :=
      List.mem_filter.mpr ⟨textOf_mem_commandWords.mp h, by simp⟩
    rw [show (commandWords.map ascii).filter (fun x => x.contains 32) =
      ["SOCKETS", "TRAYS", "LOAN"].map fun x => ascii "SHOW" ++ 32 :: ascii x by decide] at hmem
    simp only [List.map_cons, List.map_nil, List.mem_cons, List.not_mem_nil, or_false, List.append_cancel_left_eq,
      List.cons.injEq, true_and] at hmem
    rcases hmem with rfl | rfl | rfl <;> rfl

/-- The command word of a line is one of R169's exactly when the line's runs name a command. -/
theorem commandOf_isSome_iff {line : List Byte} :
    (commandOf (splitBytes 32 line)).isSome = true ↔ commandWord line ∈ commandWords := by
  obtain ⟨p, fs, h⟩ := splitBytes_eq_cons (sep := 32) line
  have hp : 32 ∉ p := not_mem_of_mem_splitBytes line p (by rw [h]; exact List.mem_cons_self)
  rw [commandWord_eq, commandBytes, h]
  by_cases hs : p = ascii "SHOW"
  · subst hs
    cases fs with
    | nil => decide
    | cons v fs =>
      dsimp only
      rw [if_pos rfl]
      exact showCommand_isSome_iff fs
  · have hone : (commandOf (p :: fs)).isSome = true ↔ textOf p ∈ commandWords :=
      ⟨mem_of_commandOf_isSome hs, fun hw => commandOf_isSome_of_mem fs hp (textOf_mem_commandWords.mp hw)⟩
    cases fs with
    | nil => exact hone
    | cons v fs =>
      dsimp only
      rw [if_neg hs]
      exact hone

end

/-! ### The outcome of a line (R167, R169) -/

/-- Outside the texts that are too long, bad or empty, the words of a line decide (R169). -/
structure State.Plain (s : State) : Prop where
  extra : s.bench.extra = 0
  bad : s.bench.bad = false
  buffer : s.bench.buffer ≠ []

section
variable {s : State} {w : RecordWrite}

theorem State.lineOutcome_eq (h : s.Plain) :
    s.lineOutcome =
      if s.startRefuses (commandWord s.bench.buffer) = true then .error (.starting, commandWord s.bench.buffer)
      else
        match commandOf (splitBytes 32 s.bench.buffer) with
        | none => .error (.unknown, commandWord s.bench.buffer)
        | some c =>
          if s.listenRefuses (commandWord s.bench.buffer) = true then .error (.listen, commandWord s.bench.buffer)
          else
            match c with
            | none => .error (.form, commandWord s.bench.buffer)
            | some c => .ok (some c) := by
  obtain ⟨hextra, hbad, hbuffer⟩ := h
  rw [State.lineOutcome, hextra, hbad]
  exact if_neg hbuffer

/-- A line that is a command's word and fields runs as that command, each test of R169 taken once. -/
theorem State.endLine_command (h : s.Plain) {c : BenchCommand} {fs : List (List Byte)}
    (hc : splitBytes 32 s.bench.buffer = c.runs ++ fs) (hf : c.Fields fs) : .next (s.endLine w) = exec (c.instr w) s := by
  have hcommand := commandOf_eq_some_some_iff.mpr ⟨fs, hc, hf⟩
  rw [exec_instr, State.endLine, State.lineOutcome_eq h, hcommand, commandWord_of_splitBytes hc, State.tested]
  by_cases hstart : s.startRefuses c.word = true
  · rw [if_pos hstart, if_pos hstart]
  · rw [if_neg hstart, if_neg hstart]
    dsimp only
    by_cases hlisten : s.listenRefuses c.word = true
    · rw [if_pos hlisten, if_pos hlisten]
    · rw [if_neg hlisten, if_neg hlisten]
      dsimp only
      rw [State.runCommand_eq, State.tested, if_neg, if_neg]
      · rfl
      · exact hlisten
      · exact hstart

theorem State.refused_of_error {why : RefuseReason} {word : String} (h : s.lineOutcome = .error (why, word)) :
    exec (.benchCharacterReceived 13 false w) s = .next (s.emptyBuffer.refuse why word) ∧
      exec .benchLineRefused s = .next (s.emptyBuffer.refuse why word) := by
  constructor
  · show Host.Outcome.next (s.endLine w) = _
    rw [State.endLine, h]
  · show execBenchLineRefused s = _
    rw [execBenchLineRefused, h]

theorem State.startRefuses_iff {word : String} : s.startRefuses word = true ↔ s.start.phase ≠ .running ∧ word ≠ "RESET" := by
  rw [State.startRefuses, Bool.and_eq_true, bne_iff_ne, bne_iff_ne]

theorem listenAllows_iff {word : String} :
    listenAllows word = true ↔ word ∈ ["SHOW SOCKETS", "SHOW TRAYS", "SHOW LOAN", "RESET"] := by
  simp only [listenAllows, Bool.or_eq_true, beq_iff_eq, List.mem_cons, List.not_mem_nil, or_false, or_assoc]

theorem State.listenRefuses_iff {word : String} :
    s.listenRefuses word = true ↔
      s.line.state = .listen ∧ word ∉ ["SHOW SOCKETS", "SHOW TRAYS", "SHOW LOAN", "RESET"] := by
  rw [State.listenRefuses, Bool.and_eq_true, beq_iff_eq, Bool.not_eq_true', ← listenAllows_iff, Bool.not_eq_true]

end

end Sys2Proof.Machine
end

section
/-! PROOFS. The bench line (R167, R168, R169, R173). -/

namespace Sys2Proof.Machine

/-- A line's characters up to its first space are its command word, or its first two words for SHOW (R169). -/
theorem commandWord_append {u tail : List Byte} (hu : 32 ∉ u) (htail : tail = [] ∨ tail.head? = some 32)
    (hshow : u = ascii "SHOW" → tail = []) : commandWord (u ++ tail) = textOf u := by
  rw [commandWord_eq, commandBytes]
  obtain rfl | ⟨rest, rfl⟩ : tail = [] ∨ ∃ rest, tail = 32 :: rest := by
    refine htail.imp_right fun h => ?_
    obtain ⟨rest, hrest⟩ := List.head?_eq_some_iff.mp h
    exact ⟨rest, hrest⟩
  · rw [List.append_nil, splitBytes_of_not_mem hu]
  · obtain ⟨p, ps, hp⟩ := splitBytes_eq_cons (sep := 32) rest
    rw [splitBytes_append_sep hu, hp]
    dsimp only
    rw [if_neg fun h => absurd (hshow h) (List.cons_ne_nil _ _)]

theorem commandWord_show {v tail : List Byte} (hv : 32 ∉ v) (htail : tail = [] ∨ tail.head? = some 32) :
    commandWord (ascii "SHOW" ++ 32 :: v ++ tail) = "SHOW " ++ textOf v := by
  have hsplit : ∃ ps, splitBytes 32 (ascii "SHOW" ++ 32 :: v ++ tail) = ascii "SHOW" :: v :: ps := by
    rw [List.append_assoc, List.cons_append, splitBytes_append_sep (by decide)]
    obtain rfl | ⟨rest, rfl⟩ : tail = [] ∨ ∃ rest, tail = 32 :: rest := by
      refine htail.imp_right fun h => ?_
      obtain ⟨rest, hrest⟩ := List.head?_eq_some_iff.mp h
      exact ⟨rest, hrest⟩
    · exact ⟨[], by rw [List.append_nil, splitBytes_of_not_mem hv]⟩
    · exact ⟨_, by rw [splitBytes_append_sep hv]⟩
  obtain ⟨ps, hps⟩ := hsplit
  rw [commandWord_eq, commandBytes, hps]
  dsimp only
  rw [if_pos rfl, List.append_cons, textOf_append]
  rfl

theorem BenchCommand.ascii_word_ne_nil (c : BenchCommand) : ascii c.word ≠ [] := by
  cases c <;> simp only [BenchCommand.word] <;> decide

section
variable {s : State} {word : String}

theorem State.tested_starting (f : State → State) (h : s.start.phase ≠ .running) (hw : word ≠ "RESET") :
    s.tested word f = s.emptyBuffer.refuse .starting word := by
  rw [State.tested, if_pos (State.startRefuses_iff.mpr ⟨h, hw⟩)]

theorem State.tested_listen (f : State → State) (h : s.start.phase = .running) (hl : s.line.state = .listen)
    (hw : word ∉ ["SHOW SOCKETS", "SHOW TRAYS", "SHOW LOAN", "RESET"]) :
    s.tested word f = s.emptyBuffer.refuse .listen word := by
  rw [State.tested, State.startRefuses_eq_false h, if_neg (by decide), if_pos (State.listenRefuses_iff.mpr ⟨hl, hw⟩)]

theorem exec_char (c : Byte) (framing : Bool) (w : RecordWrite) :
    exec (.benchCharacterReceived c framing w) s = .next (
      if framing then s.markBad
      else if c = 13 then s.endLine w
      else if c = 10 then s
      else if 32 ≤ c.toNat ∧ c.toNat ≤ 126 then s.keepCharacter c
      else s.markBad) := rfl

theorem exec_char_of_printable {c : Byte} (w : RecordWrite) (h1 : 32 ≤ c.toNat) (h2 : c.toNat ≤ 126) :
    exec (.benchCharacterReceived c false w) s = .next (s.keepCharacter c) := by
  have hne {n : Byte} (hn : n.toNat < 32) : c ≠ n := fun h => by rw [h] at h1; omega
  rw [exec_char, if_neg (by decide), if_neg (hne (by decide)), if_neg (hne (by decide)), if_pos ⟨h1, h2⟩]

theorem exec_char_of_bad {c : Byte} {framing : Bool} (w : RecordWrite)
    (h : framing = true ∨ (c ≠ 13 ∧ c ≠ 10 ∧ (c.toNat < 32 ∨ 126 < c.toNat))) :
    exec (.benchCharacterReceived c framing w) s = .next s.markBad := by
  rw [exec_char]
  cases framing with
  | true => rw [if_pos rfl]
  | false =>
    obtain ⟨h13, h10, hrange⟩ := h.resolve_left (by decide)
    rw [if_neg (by decide), if_neg h13, if_neg h10, if_neg (by omega)]

end

/-- Settles O59: the line's outcome decides what the carriage return does. -/
theorem benchLineTests : Obligations.BenchLineTests := by
  intro s w b char
  refine ⟨fun c word hc => ?_, fun h => ?_, fun h => ?_, fun x xs h => ?_, fun c h1 h2 => ⟨fun h => ?_, fun h => ?_⟩,
    rfl, fun c framing h => exec_char_of_bad w h, fun h => ?_, fun hextra hbad hbuffer => ?_, ?_⟩
  · have hexec : ∃ f, exec c s = .next (s.tested word f) ∧ word ∉ ["SHOW SOCKETS", "SHOW TRAYS", "SHOW LOAN", "RESET"] := by
      rcases hc with ⟨l, k, rfl, rfl⟩ | ⟨l, rfl, rfl⟩ | ⟨l, rfl, rfl⟩ | ⟨x, k, rfl, rfl⟩ | ⟨l, rfl, rfl⟩ | ⟨l, rfl, rfl⟩ |
        ⟨rfl, rfl⟩ | ⟨t, e, rfl, rfl⟩ | ⟨t, e, v, k, rfl, rfl⟩ <;> exact ⟨_, rfl, by decide⟩
    obtain ⟨f, hf, hw⟩ := hexec
    refine ⟨fun h => ?_, fun h hl => ?_⟩
    · rw [hf, State.tested_starting f h fun e => hw (by simp [e])]
      rfl
    · rw [hf, State.tested_listen f h hl hw]
      rfl
  · exact ⟨congrArg Host.Outcome.next (State.tested_starting _ h (by decide)),
      congrArg Host.Outcome.next (State.tested_starting _ h (by decide)),
      fun l => congrArg Host.Outcome.next (State.tested_starting _ h (by decide))⟩
  · show execNoticeSend s = _
    rw [execNoticeSend, h]
  · show execNoticeSend s = _
    rw [execNoticeSend, h]
    rfl
  · rw [show char c false = _ from exec_char_of_printable w h1 h2, State.keepCharacter, if_pos h]
  · rw [show char c false = _ from exec_char_of_printable w h1 h2, State.keepCharacter, if_neg (Nat.not_lt.mpr h)]
  · exact State.refused_of_error (if_pos h)
  · have hout : s.lineOutcome = .ok none := by
      rw [State.lineOutcome, hextra, hbad]
      exact if_pos hbuffer
    constructor
    · show Host.Outcome.next (s.endLine w) = _
      rw [State.endLine, hout, State.emptyBuffer, ← hextra, ← hbad, ← hbuffer]
    · show execBenchLineRefused s = _
      rw [execBenchLineRefused, hout]
  · intro refuses text names
    have hnames {line : List Byte} {word : String} (h : names line word) : commandWord line = word := by
      obtain ⟨u, v, tail, hu, hv, htail, ⟨rfl, hshow, rfl⟩ | ⟨rfl, rfl⟩⟩ := h
      · exact commandWord_append hu htail hshow
      · exact commandWord_show hv htail
    have hrefuses {why : RefuseReason} {word : String} (h : s.lineOutcome = .error (why, word)) : refuses why word :=
      State.refused_of_error h
    refine ⟨fun word hextra hbad hn => hrefuses ?_, fun hextra hbad => ?_⟩
    · rw [State.lineOutcome, hextra, hbad, hnames hn]
      rfl
    intro number loan command words taken
    have hnumber {bs : List Byte} {k : Nat} : number bs k ↔ groupOfDigits bs = some k := groupOfDigits_eq_some_iff.symm
    have hloan {bs : List Byte} {l : BenchLoan} : loan bs l ↔ loanField bs = some l := by
      simp only [loanField_eq_some_iff, ← hnumber]
      rfl
    have hcommand {word : String} {fs : List (List Byte)} {c : Instr} :
        command word fs c ↔ ∃ d : BenchCommand, word = d.word ∧ d.Fields fs ∧ c = d.instr w := by
      simp only [command, hnumber, hloan]
      constructor
      · rintro (⟨rfl, x, y, l, k, hfs, hx, hy, rfl⟩ | ⟨rfl, x, l, hfs, hx, rfl⟩ | ⟨rfl, x, l, hfs, hx, rfl⟩ |
          ⟨rfl, x, y, k, z, hfs, hx, hy, rfl⟩ | ⟨rfl, x, l, hfs, hx, rfl⟩ | ⟨rfl, x, l, hfs, hx, rfl⟩ |
          ⟨rfl, hfs, rfl⟩ | ⟨rfl, x, y, t, e, hfs, hx, hy, rfl⟩ |
          ⟨rfl, x, y, z, q, t, e, v, k, hfs, hx, hy, hz, hq, rfl⟩ | ⟨rfl, hfs, rfl⟩ | ⟨rfl, hfs, rfl⟩ |
          ⟨rfl, x, l, hfs, hx, rfl⟩ | ⟨rfl, hfs, rfl⟩)
        · exact ⟨.pack l k, rfl, ⟨x, y, hfs, hx, hy⟩, rfl⟩
        · exact ⟨.pick l, rfl, ⟨x, hfs, hx⟩, rfl⟩
        · exact ⟨.back l, rfl, ⟨x, hfs, hx⟩, rfl⟩
        · exact ⟨.shelve k z, rfl, ⟨x, y, hfs, hx, hy⟩, rfl⟩
        · exact ⟨.nocart l, rfl, ⟨x, hfs, hx⟩, rfl⟩
        · exact ⟨.noset l, rfl, ⟨x, hfs, hx⟩, rfl⟩
        · exact ⟨.dispatch, rfl, hfs, rfl⟩
        · exact ⟨.drop t e, rfl, ⟨x, y, hfs, hx, hy⟩, rfl⟩
        · exact ⟨.set t e v k, rfl, ⟨x, y, z, q, hfs, hx, hy, hz, hq⟩, rfl⟩
        · exact ⟨.showSockets, rfl, hfs, rfl⟩
        · exact ⟨.showTrays, rfl, hfs, rfl⟩
        · exact ⟨.showLoan l, rfl, ⟨x, hfs, hx⟩, rfl⟩
        · exact ⟨.reset, rfl, hfs, rfl⟩
      · rintro ⟨d, rfl, hf, rfl⟩
        cases d with
        | pack l k =>
          obtain ⟨x, y, hfs, hx, hy⟩ := hf
          exact .inl ⟨rfl, x, y, l, k, hfs, hx, hy, rfl⟩
        | pick l =>
          obtain ⟨x, hfs, hx⟩ := hf
          exact .inr (.inl ⟨rfl, x, l, hfs, hx, rfl⟩)
        | back l =>
          obtain ⟨x, hfs, hx⟩ := hf
          exact .inr (.inr (.inl ⟨rfl, x, l, hfs, hx, rfl⟩))
        | shelve k z =>
          obtain ⟨x, y, hfs, hx, hy⟩ := hf
          exact .inr (.inr (.inr (.inl ⟨rfl, x, y, k, z, hfs, hx, hy, rfl⟩)))
        | nocart l =>
          obtain ⟨x, hfs, hx⟩ := hf
          exact .inr (.inr (.inr (.inr (.inl ⟨rfl, x, l, hfs, hx, rfl⟩))))
        | noset l =>
          obtain ⟨x, hfs, hx⟩ := hf
          exact .inr (.inr (.inr (.inr (.inr (.inl ⟨rfl, x, l, hfs, hx, rfl⟩)))))
        | dispatch =>
          exact .inr (.inr (.inr (.inr (.inr (.inr (.inl ⟨rfl, hf, rfl⟩))))))
        | drop t e =>
          obtain ⟨x, y, hfs, hx, hy⟩ := hf
          exact .inr (.inr (.inr (.inr (.inr (.inr (.inr (.inl ⟨rfl, x, y, t, e, hfs, hx, hy, rfl⟩)))))))
        | set t e v k =>
          obtain ⟨x, y, z, q, hfs, hx, hy, hz, hq⟩ := hf
          exact .inr (.inr (.inr (.inr (.inr (.inr (.inr (.inr (.inl ⟨rfl, x, y, z, q, t, e, v, k, hfs, hx, hy, hz, hq, rfl⟩))))))))
        | showSockets =>
          exact .inr (.inr (.inr (.inr (.inr (.inr (.inr (.inr (.inr (.inl ⟨rfl, hf, rfl⟩)))))))))
        | showTrays =>
          exact .inr (.inr (.inr (.inr (.inr (.inr (.inr (.inr (.inr (.inr (.inl ⟨rfl, hf, rfl⟩))))))))))
        | showLoan l =>
          obtain ⟨x, hfs, hx⟩ := hf
          exact .inr (.inr (.inr (.inr (.inr (.inr (.inr (.inr (.inr (.inr (.inr (.inl ⟨rfl, x, l, hfs, hx, rfl⟩)))))))))))
        | reset =>
          exact .inr (.inr (.inr (.inr (.inr (.inr (.inr (.inr (.inr (.inr (.inr (.inr (⟨rfl, hf, rfl⟩))))))))))))
    have htaken {word : String} (h : taken word) : s.startRefuses word = false ∧ s.listenRefuses word = false := by
      obtain ⟨hstart, hlisten⟩ := h
      constructor
      · rw [← Bool.not_eq_true, State.startRefuses_iff]
        tauto
      · rw [← Bool.not_eq_true, State.listenRefuses_iff]
        tauto
    refine ⟨fun word fs c hc hbuffer => ?_, fun word hbuffer hn => ?_⟩
    · obtain ⟨d, rfl, hf, rfl⟩ := hcommand.mp hc
      have hsplit : splitBytes 32 s.bench.buffer = d.runs ++ fs := by
        rw [hbuffer]
        exact splitBytes_command hf
      have hplain : s.Plain := ⟨hextra, hbad, fun e => BenchCommand.ascii_word_ne_nil d
        (List.append_eq_nil_iff.mp (hbuffer.symm.trans e)).1⟩
      refine ⟨State.endLine_command hplain hsplit hf, fun ht => ?_⟩
      obtain ⟨hstart, hlisten⟩ := htaken ht
      show execBenchLineRefused s = _
      rw [execBenchLineRefused, State.lineOutcome_eq hplain, commandOf_eq_some_some_iff.mpr ⟨fs, hsplit, hf⟩,
        commandWord_of_splitBytes hsplit, hstart, hlisten]
      rfl
    · have hplain : s.Plain := ⟨hextra, hbad, hbuffer⟩
      have hout := State.lineOutcome_eq hplain
      have hsome := commandOf_isSome_iff (line := s.bench.buffer)
      rw [hnames hn] at hout hsome
      refine ⟨fun h hw => hrefuses ?_, fun h hw => hrefuses ?_, fun h hw ht => hrefuses ?_, fun hw ht hno => hrefuses ?_⟩
      · rw [hout, if_pos (State.startRefuses_iff.mpr ⟨h, hw⟩)]
      · have hnone : commandOf (splitBytes 32 s.bench.buffer) = none := by
          rw [← Option.not_isSome_iff_eq_none, hsome]
          exact hw
        rw [hout, State.startRefuses_eq_false h, hnone]
        rfl
      · obtain ⟨c, hc⟩ := Option.isSome_iff_exists.mp (hsome.mpr hw)
        have hlisten : s.listenRefuses word = true := by
          rw [State.listenRefuses_iff]
          tauto
        rw [hout, State.startRefuses_eq_false h, hc, hlisten]
        rfl
      · obtain ⟨hstart, hlisten⟩ := htaken ht
        obtain ⟨c, hc⟩ := Option.isSome_iff_exists.mp (hsome.mpr hw)
        cases c with
        | none =>
          rw [hout, hstart, hc, hlisten]
          rfl
        | some d =>
          obtain ⟨fs, hsplit, hf⟩ := commandOf_eq_some_some_iff.mp hc
          have hword : word = d.word := (hnames hn).symm.trans (commandWord_of_splitBytes hsplit)
          refine absurd (line_of_splitBytes hsplit) ?_
          rw [← hword]
          exact hno fs _ (hcommand.mpr ⟨d, hword, hf, rfl⟩)

end Sys2Proof.Machine
end

section
/-! PROOFS. What becomes of a gang as its members finish or leave it, and of the store's requests (R98 to R104). -/

namespace Sys2Proof.Machine

/-! ### The Store Arbiter with one request (R100) -/

theorem mem_rotation (p b : Fin 4) : b ∈ rotation p := by
  revert p b
  decide

theorem findSome?_single {α β : Type} [DecidableEq α] {b : α} {l : List α} (f : α → β) (h : b ∈ l) :
    l.findSome? (fun q => if q = b then some (f q) else none) = some (f b) := by
  induction l with
  | nil => cases h
  | cons a l ih =>
    rw [List.findSome?_cons]
    by_cases hab : a = b
    · rw [if_pos hab, hab]
    · rw [if_neg hab]
      exact ih ((List.mem_cons.mp h).resolve_left (Ne.symm hab))

section
variable {s : State} {b : Fin 4} {r : StoreReq}

theorem State.buffer_setBuffer (x : Buffer) (q : Fin 4) : (s.setBuffer b x).buffer q = if q = b then x else s.buffer q := by
  simp only [State.buffer, State.setBuffer, Fin.getElem_fin, Vector.getElem_set, Fin.ext_iff, eq_comm]

theorem State.setBuffer_setBuffer (x y : Buffer) : (s.setBuffer b x).setBuffer b y = s.setBuffer b y := by
  simp only [State.setBuffer, Vector.set_set]

theorem State.setBuffer_self : s.setBuffer b (s.buffer b) = s := by
  simp only [State.setBuffer, State.buffer, Fin.getElem_fin, Vector.set_getElem_self]

/-- With the store busy a request waits at its buffer. -/
theorem State.requestBlock_of_busy (h : s.copy.current ≠ none) :
    s.requestBlock b r = s.setBuffer b { s.buffer b with request := some r } :=
  if_pos (Option.isSome_iff_ne_none.mpr h)

/-- With the store free the one request that is pending is granted. -/
theorem State.grant_of_one (hcurrent : s.copy.current = none) (hr : (s.buffer b).request = some r)
    (hidle : ∀ q, q ≠ b → (s.buffer q).request = none) :
    s.grant =
      { s.setBuffer b { s.buffer b with request := none } with
        copy := { (s.setBuffer b { s.buffer b with request := none }).copy with current := some (b, r), pointer := b } } := by
  have hf : (fun q => (s.buffer q).request.map (q, ·)) = fun q => if q = b then some (q, r) else none := by
    funext q
    by_cases hq : q = b
    · rw [if_pos hq, hq, hr]
      rfl
    · rw [if_neg hq, hidle q hq]
      rfl
  rw [State.grant, hcurrent, if_neg (by decide), hf, findSome?_single (fun q => (q, r)) (mem_rotation _ b)]

/-- With the store free and no other request pending, a request is granted at once. -/
theorem State.requestBlock_of_free (hcurrent : s.copy.current = none) (hidle : ∀ q, (s.buffer q).request = none) :
    s.requestBlock b r = { s with copy := { s.copy with current := some (b, r), pointer := b } } := by
  have hself : ({ s.buffer b with request := none } : Buffer) = s.buffer b := by rw [← hidle b]
  rw [State.requestBlock, State.grant_of_one (b := b) (r := r), State.setBuffer_setBuffer, State.buffer_setBuffer,
    if_pos rfl, hself, State.setBuffer_self]
  · exact hcurrent
  · rw [State.buffer_setBuffer, if_pos rfl]
  · intro q hq
    rw [State.buffer_setBuffer, if_neg hq]
    exact hidle q

end

/-! ### Every member of a gang (R98) -/

/-- The sockets once each member listed has changed its own. -/
def socketsAfter (s : State) (ms : List (Idx8 × Member)) (f : Socket → Member → Socket) : Vector Socket 8 :=
  Vector.ofFn fun q => ((ms.find? fun p => p.1 == q).map fun p => f (s.socket q) p.2).getD (s.socket q)

theorem foldl_setSocket (f : Socket → Member → Socket) (ms : List (Idx8 × Member)) (s : State)
    (h : ms.Pairwise fun p q => p.1 ≠ q.1) :
    ms.foldl (fun s p => s.setSocket p.1 (f (s.socket p.1) p.2)) s = { s with sockets := socketsAfter s ms f } := by
  induction ms generalizing s with
  | nil =>
    have : s.sockets = socketsAfter s [] f := by
      ext i hi
      simp [socketsAfter, State.socket]
    rw [List.foldl_nil, ← this]
  | cons p ms ih =>
    obtain ⟨n, m⟩ := p
    rw [List.pairwise_cons] at h
    rw [List.foldl_cons, ih _ h.2]
    have : socketsAfter (s.setSocket n (f (s.socket n) m)) ms f = socketsAfter s ((n, m) :: ms) f := by
      refine congrArg Vector.ofFn (funext fun q => ?_)
      rw [State.socket_setSocket, List.find?_cons]
      by_cases hq : q = n
      · have hnone : ms.find? (fun p => p.1 == q) = none := by
          rw [List.find?_eq_none]
          intro p hp
          simpa [hq] using (h.1 p hp).symm
        rw [hnone, hq]
        simp
      · rw [if_neg hq, beq_eq_false_iff_ne.mpr (Ne.symm hq)]
    rw [this]
    rfl

section
variable {s : State} {id : Nat}

theorem State.membersOf_pairwise : (s.membersOf id).Pairwise fun p q => p.1 ≠ q.1 := by
  refine List.Pairwise.filter _ ?_
  rw [State.members, List.pairwise_filterMap]
  refine (List.nodup_finRange 8).imp fun {a b} hab p hp q hq => ?_
  obtain ⟨-, -, rfl⟩ := Option.map_eq_some_iff.mp hp
  obtain ⟨-, -, rfl⟩ := Option.map_eq_some_iff.mp hq
  exact hab

theorem State.find?_membersOf (q : Idx8) :
    (s.membersOf id).find? (fun p => p.1 == q) =
      ((s.socket q).state.member.filter fun m => m.gang == id).map (q, ·) := by
  cases hm : (s.socket q).state.member.filter fun m => m.gang == id with
  | none =>
    rw [Option.map_none, List.find?_eq_none]
    rintro ⟨n, m⟩ hp hn
    obtain rfl : n = q := beq_iff_eq.mp hn
    obtain ⟨hm', hg⟩ := State.mem_membersOf.mp hp
    rw [Option.filter_eq_none_iff] at hm
    exact hm m hm' (beq_iff_eq.mpr hg)
  | some m =>
    obtain ⟨hm', hg⟩ := Option.filter_eq_some_iff.mp hm
    have hmem : (q, m) ∈ s.membersOf id := State.mem_membersOf.mpr ⟨hm', beq_iff_eq.mp hg⟩
    obtain ⟨pre, post, happ⟩ := List.append_of_mem hmem
    have hpair := s.membersOf_pairwise (id := id)
    rw [happ, List.pairwise_append] at hpair
    rw [happ, Option.map_some]
    refine find?_append_cons (fun p hp => ?_) (by simp)
    simpa using hpair.2.2 p hp (q, m) List.mem_cons_self

/-- The sockets of a gang all of whose members copy, once each has changed its own. -/
theorem socketsAfter_membersOf (f : Socket → Member → Socket)
    (h : ∀ p ∈ s.membersOf id, (s.socket p.1).state = .copying p.2) :
    socketsAfter s (s.membersOf id) f = Vector.ofFn fun q =>
      match (s.socket q).state with
      | .copying m => if m.gang = id then f (s.socket q) m else s.socket q
      | _ => s.socket q := by
  refine congrArg Vector.ofFn (funext fun q => ?_)
  rw [State.find?_membersOf]
  split
  next m hm =>
    rw [hm]
    by_cases hg : m.gang = id <;> simp [SockState.member, Option.filter, hg]
  next hno =>
    cases hm : (s.socket q).state.member with
    | none => rfl
    | some m =>
      by_cases hg : m.gang = id
      · exact absurd (h (q, m) (State.mem_membersOf.mpr ⟨hm, hg⟩)) (hno m)
      · simp [Option.filter, hg]

/-- The socket of one that asks for its content record's write once its image is copied (R108). -/
def Socket.finishes (s : State) (k : Socket) (m : Member) : Socket :=
  { k with
    state := .finishing { m with progress := .finishing false }
    op := some (.guarded
      (contentWrite m.job.work m.job.len (s.imageCheck m.job.work) s.station s.tables.day) (.beforeCommand (some k.link)))
    hold := none, link := k.link.unlock }

theorem Capacity.blocks_pos (c : Capacity) : 8192 ≤ c.blocks := by
  cases c <;> decide

theorem guardOk_other_page {v : View} (h : v.kind = .stock) {a : Nat} (data : List Byte) (ha : a % 256 = 0)
    (hlow : 4096 ≤ a) (hhigh : a + 256 ≤ 8192 * 65536) : guardOk v (.page a data .other) = true := by
  have hpos := v.capacity.blocks_pos
  rw [guardOk_page_iff]
  exact ⟨CartKind.eq_stock_iff.mp h, ha, Nat.le_trans hhigh (Nat.mul_le_mul_right _ hpos), .inl hlow⟩

/-- A socket enters a state with a guarded operation, which UNLOCK begins (R82). -/
theorem State.startGuarded_putSock {n : Idx8} {v : View} {g : Guarded} (st : SockState)
    (hv : (s.socket n).view = some v) (h : guardOk v g = true) :
    (s.putSock n st).startGuarded n g =
      s.setSocket n
        { s.socket n with
          state := st, op := some (.guarded g (.beforeCommand (some (s.socket n).link))), hold := none
          link := (s.socket n).link.unlock } := by
  rw [State.putSock, State.modSocket, State.startGuarded, State.modSocket_setSocket]
  exact congrArg _ (Socket.startGuarded_of_ok (k := { s.socket n with state := st }) hv h)

theorem State.startFinishing_eq {n : Idx8} {m : Member} {v : View} (hv : (s.socket n).view = some v)
    (hk : v.kind = .stock) : s.startFinishing n m = s.setSocket n ((s.socket n).finishes s m) :=
  State.startGuarded_putSock _ hv (guardOk_other_page hk _ (by decide) (by decide) (by decide))

/-! ### A gang goes on, or ends (R98, R102) -/

theorem foldl_putProgress (ms : List (Idx8 × Member)) (x : Progress) (h : ms.Pairwise fun p q => p.1 ≠ q.1) :
    ms.foldl (fun s p => s.putProgress p.1 p.2 x) s =
      { s with sockets := socketsAfter s ms fun k m => { k with state := .copying { m with progress := x } } } :=
  foldl_setSocket (fun k m => { k with state := .copying { m with progress := x } }) ms s h

/-- The members that finish each ask for their content record's write. -/
theorem foldl_startFinishing (ms : List (Idx8 × Member)) (h : ms.Pairwise fun p q => p.1 ≠ q.1)
    (hview : ∀ p ∈ ms, ∃ v, (s.socket p.1).view = some v ∧ v.kind = .stock) :
    ms.foldl (fun s p => s.startFinishing p.1 p.2) s =
      { s with sockets := socketsAfter s ms (Socket.finishes s) } := by
  rw [← foldl_setSocket (Socket.finishes s) ms s h]
  suffices hgen : ∀ t : State, t.tables = s.tables → t.start = s.start →
      (∀ p ∈ ms, ∃ v, (t.socket p.1).view = some v ∧ v.kind = .stock) →
      ms.foldl (fun s p => s.startFinishing p.1 p.2) t =
        ms.foldl (fun t p => t.setSocket p.1 (Socket.finishes s (t.socket p.1) p.2)) t from hgen s rfl rfl hview
  clear hview
  induction ms with
  | nil => exact fun _ _ _ _ => rfl
  | cons p ms ih =>
    intro t htables hstart hview
    rw [List.pairwise_cons] at h
    rw [List.forall_mem_cons] at hview
    obtain ⟨⟨v, hv, hk⟩, hview⟩ := hview
    have hsame : Socket.finishes t (t.socket p.1) p.2 = Socket.finishes s (t.socket p.1) p.2 := by
      simp only [Socket.finishes, State.imageCheck, State.dir?, State.station, htables, hstart]
    rw [List.foldl_cons, List.foldl_cons, State.startFinishing_eq hv hk, hsame]
    refine ih h.2 _ htables hstart fun q hq => ?_
    rw [State.socket_setSocket, if_neg (h.1 q hq).symm]
    exact hview q hq

theorem socketsAfter_congr {t : State} (h : t.sockets = s.sockets) (ms : List (Idx8 × Member))
    (f : Socket → Member → Socket) : socketsAfter t ms f = socketsAfter s ms f := by
  simp only [socketsAfter, State.socket, h]

section
variable {g : Gang} {b : Fin 4}

/-- Once every member has finished the block, the gang asks for the next (R102, step 3). -/
theorem State.gangAdvance_next (hg : s.gang? id = some g) (hb : g.buffer = some b) (hloaded : g.loaded = true)
    (hall : ∀ p ∈ s.membersOf id, p.2.progress = .finished) (hindex : g.index < g.len) :
    s.gangAdvance id =
      ({ s.modGang id (fun _ => { g with index := g.index + 1, loaded := false, done := g.index }) with
        sockets := socketsAfter s (s.membersOf id) fun k m => { k with state := .copying { m with progress := .waiting } } }
        : State).requestBlock b (.read g.work g.start (g.start + g.index)) := by
  have hfinished : (s.membersOf id).all (fun p => p.2.progress == .finished) = true := by
    rw [List.all_eq_true]
    exact fun p hp => beq_iff_eq.mpr (hall p hp)
  rw [State.gangAdvance, hg]
  dsimp only
  rw [hb]
  dsimp only
  rw [hloaded, hfinished, Bool.and_self, if_pos rfl, if_pos hindex, foldl_putProgress _ _ s.membersOf_pairwise,
    socketsAfter_congr (s := s) rfl]
  rfl

/-- Once every member has finished the last block, each goes on to its content record, and the buffer is freed (R102,
step 4). -/
theorem State.gangAdvance_last (hg : s.gang? id = some g) (hb : g.buffer = some b) (hloaded : g.loaded = true)
    (hall : ∀ p ∈ s.membersOf id, p.2.progress = .finished) (hindex : g.len ≤ g.index)
    (hview : ∀ p ∈ s.membersOf id, ∃ v, (s.socket p.1).view = some v ∧ v.kind = .stock) :
    s.gangAdvance id =
      ({ s.modGang id (fun y => { y with done := y.len, buffer := none }) with
        sockets := socketsAfter s (s.membersOf id) (Socket.finishes s) } : State).freeBuffer b := by
  have hfinished : (s.membersOf id).all (fun p => p.2.progress == .finished) = true := by
    rw [List.all_eq_true]
    exact fun p hp => beq_iff_eq.mpr (hall p hp)
  rw [State.gangAdvance, hg]
  dsimp only
  rw [hb]
  dsimp only
  rw [hloaded, hfinished, Bool.and_self, if_pos rfl, if_neg (Nat.not_lt.mpr hindex),
    foldl_startFinishing _ s.membersOf_pairwise]
  · rw [socketsAfter_congr (s := s) rfl]
    rfl
  · exact hview

end

/-- What a member's leaving makes of its gang is what the model's own function gives. -/
theorem GangLeft.leaveGang {a u : State} (h : GangLeft a id u) : a.leaveGang id = u := by
  rcases h with ⟨hempty, g, hg, hbuffer⟩ | ⟨hunfinished, rfl⟩ | ⟨hne, hall, g, b, hg, hb, hloaded, hgoes⟩
  · rcases hbuffer with ⟨hb, rfl⟩ | ⟨b, hb, ⟨hcurrent, rfl⟩ | ⟨⟨x, hcurrent⟩, rfl⟩⟩
    · rw [State.leaveGang, hempty, List.isEmpty_nil, if_pos rfl, hg, Option.bind_some, hb]
    · rw [State.leaveGang_of_empty hempty hg hb]
      exact State.freeBuffer_of_not_current hcurrent
    · rw [State.leaveGang_of_empty hempty hg hb]
      exact State.freeBuffer_of_current hcurrent
  · exact State.leaveGang_of_unfinished hunfinished
  · have hcopying : ∀ p ∈ a.membersOf id, (a.socket p.1).state = .copying p.2 := fun p hp => (hall p hp).1
    have hfinished : ∀ p ∈ a.membersOf id, p.2.progress = .finished := fun p hp => (hall p hp).2.1
    have hview : ∀ p ∈ a.membersOf id, ∃ v, (a.socket p.1).view = some v ∧ v.kind = .stock := fun p hp => (hall p hp).2.2
    rw [State.leaveGang, List.isEmpty_eq_false_iff.mpr hne, if_neg (by decide)]
    rcases hgoes with ⟨hindex, hread⟩ | ⟨hindex, hcurrent, rfl⟩
    · rw [State.gangAdvance_next hg hb hloaded hfinished hindex, socketsAfter_membersOf _ hcopying]
      rcases hread with ⟨hcurrent, hidle, rfl⟩ | ⟨hcurrent, rfl⟩
      · exact State.requestBlock_of_free hcurrent hidle
      · exact State.requestBlock_of_busy hcurrent
    · rw [State.gangAdvance_last hg hb hloaded hfinished hindex hview, socketsAfter_membersOf _ hcopying]
      exact State.freeBuffer_of_not_current hcurrent

end

end Sys2Proof.Machine
end

section
/-! PROOFS. The rows of R65 as the model's functions take them, and with them the withdrawals and releases of a loan (R33,
R34, R64). -/

namespace Sys2Proof.Machine

/-! ### The tray row (R59, R161, R163) -/

section
variable {s : State}

theorem State.tray_of_trayOf? {t : TrayNo} {r : Fin 16} {x : Tray} (h : s.trayOf? t = some (r, x)) :
    s.tray r = some x ∧ x.number = t := by
  obtain ⟨q, -, hq⟩ := List.exists_of_findSome?_eq_some h
  split at hq
  next y hy =>
    split at hq
    next hn =>
      cases hq
      exact ⟨hy, hn⟩
    next => cases hq
  next => cases hq

/-- The record that holds a number which no other does. -/
theorem State.trayOf?_of_unique {q : Fin 16} {x : Tray} (hx : s.tray q = some x)
    (hone : ∀ p y, s.tray p = some y → y.number = x.number → p = q) : s.trayOf? x.number = some (q, x) := by
  obtain ⟨⟨r, y⟩, hr⟩ := Option.isSome_iff_exists.mp (State.trayOf?_isSome_iff.mpr ⟨q, x, hx, rfl⟩)
  obtain ⟨hy, hn⟩ := State.tray_of_trayOf? hr
  obtain rfl := hone r y hy hn
  obtain rfl := Option.some.inj (hy.symm.trans hx)
  exact hr

/-- The records of the loans after a change of one that keeps its number. -/
theorem State.loan?_modLoan_map {f : Loan → Loan} (n m : LoanNo) (hf : ∀ y, (f y).number = y.number) :
    (s.modLoan n f).loan? m = (s.loan? m).map fun y => if y.number = n then f y else y := by
  have hnumber : ((fun y : Loan => y.number == m) ∘ fun y => if y.number = n then f y else y) = fun y => y.number == m := by
    funext y
    by_cases hy : y.number = n <;> simp [hy, hf]
  rw [State.loan?, State.modLoan, List.find?_map, hnumber]
  rfl

theorem State.anyUrgent_modLoan {f : Loan → Loan} (n : LoanNo) (ls : List LoanNo) (hf : ∀ y, (f y).number = y.number)
    (hu : ∀ y, (f y).urgent = y.urgent) : (s.modLoan n f).anyUrgent ls = s.anyUrgent ls := by
  have (m : LoanNo) : ((s.modLoan n f).loan? m).map (·.urgent) = (s.loan? m).map (·.urgent) := by
    rw [State.loan?_modLoan_map n m hf, Option.map_map]
    congr 1
    funext y
    by_cases hy : y.number = n <;> simp [hy, hu]
  simp only [State.anyUrgent, this]

theorem TrayRow.removeFromTray {l : Loan} {u : State} (h : TrayRow s l u) :
    (if l.state = .packed then s.removeFromTray l else s) = u := by
  rcases h with ⟨hne, rfl⟩ | ⟨hp, q, x, ht, hx, hone, rfl⟩
  · exact if_neg hne
  · have hof : (s.modLoan l.number fun y => { y with tray := none }).trayOf? x.number = some (q, x) :=
      State.trayOf?_of_unique hx hone
    rw [if_pos hp, State.removeFromTray, ht]
    dsimp only
    rw [hof]
    dsimp only
    rw [State.anyUrgent_modLoan (f := fun y => { y with tray := none }) l.number _ (fun _ => rfl) fun _ => rfl, State.storeTray, State.anyUrgent]
    congr 1
    by_cases hrest : (x.loans.filter fun n => n != l.number) = [] ∧ x.state ≠ .filling
    · rw [if_pos hrest, if_pos hrest, if_pos]
      · rfl
      · simpa using hrest
    · rw [if_neg hrest, if_neg hrest, if_neg]
      · rfl
      · simpa using hrest

/-! ### The cartridge row (R65, R109, R110, R115, R133) -/

theorem State.memberOfLoan?_eq {k : Idx8} {m : Member} (hk : (s.socket k).state.member = some m)
    (hone : ∀ p ∈ s.members, p.2.job.loan = m.job.loan → p.1 = k) : s.memberOfLoan? m.job.loan = some (k, m) := by
  have hmem : (k, m) ∈ s.members := State.mem_members.mpr hk
  have hsome : (s.memberOfLoan? m.job.loan).isSome = true :=
    List.find?_isSome.mpr ⟨(k, m), hmem, beq_self_eq_true _⟩
  obtain ⟨⟨j, m'⟩, hj⟩ := Option.isSome_iff_exists.mp hsome
  obtain rfl : j = k := hone _ (List.mem_of_find?_eq_some hj) (beq_iff_eq.mp (List.find?_some hj :))
  obtain rfl := Option.some.inj ((State.mem_members.mp (List.mem_of_find?_eq_some hj)).symm.trans hk)
  exact hj

/-- What the leaving of a member makes of its gang leaves a socket that holds no member of it as it was. -/
theorem GangLeft.socket {a u : State} {id : Nat} (h : GangLeft a id u) {q : Idx8} (hq : (a.socket q).state = .aborting) :
    u.socket q = a.socket q := by
  rcases h with ⟨-, g, -, hg⟩ | ⟨-, rfl⟩ | ⟨-, -, g, b, -, -, -, hg⟩
  · rcases hg with ⟨-, rfl⟩ | ⟨b, -, ⟨-, rfl⟩ | ⟨-, rfl⟩⟩ <;> rfl
  · rfl
  · have hstate : a.sockets[q.val].state = .aborting := hq
    rcases hg with ⟨-, ⟨-, -, rfl⟩ | ⟨-, rfl⟩⟩ | ⟨-, -, rfl⟩ <;> simp [State.socket, State.setBuffer, hstate]

theorem slotPage_of_le {k : Nat} (h : k ≤ 64) : slotPage k % 256 = 0 ∧ slotPage k + 256 ≤ 4096 := by
  unfold slotPage
  omega

theorem View.openSlot_spec {v : View} {k : Nat} (h : v.openSlot = some k) :
    1 ≤ k ∧ k ≤ v.slots.length ∧ slotClass (v.slot k) = .open := by
  have hmem := List.mem_of_getLast? h
  rw [View.slotsWhere, List.mem_filter, List.mem_map] at hmem
  obtain ⟨⟨i, hi, rfl⟩, ho⟩ := hmem
  rw [List.mem_range] at hi
  exact ⟨by omega, by omega, beq_iff_eq.mp ho⟩

/-- An open slot of a stock cartridge may be closed (R78). -/
theorem guardOk_closeWrite {v : View} (hk : v.kind = .stock) (hlen : v.slots.length = 64) {k : Nat}
    (ho : v.openSlot = some k) (day : Day) (x : Station) : guardOk v (closeWrite k day x) = true := by
  obtain ⟨-, hle, hopen⟩ := View.openSlot_spec ho
  obtain ⟨hmod, hend⟩ := slotPage_of_le (k := k) (by omega)
  have hpos := v.capacity.blocks_pos
  rw [closeWrite, guardOk_page_iff]
  exact ⟨CartKind.eq_stock_iff.mp hk, hmod, by omega, .inr ⟨rfl, hopen⟩⟩

/-- No-loan mode begins with the close of the cartridge's open slot (R89). -/
theorem State.closeFirst_eq {n : Idx8} {v : View} {k : Nat} (hv : (s.socket n).view = some v) (hk : v.kind = .stock)
    (hlen : v.slots.length = 64) (ho : v.openSlot = some k) :
    s.closeFirst n k =
      s.setSocket n
        { s.socket n with
          state := .checking ⟨.noLoan, some k, some (slotLoan (v.slot k)), .closing⟩
          op := some (.guarded (closeWrite k s.tables.day s.station) (.beforeCommand (some (s.socket n).link)))
          hold := none, link := (s.socket n).link.unlock } := by
  rw [State.closeFirst, hv]
  exact State.startGuarded_putSock _ hv (guardOk_closeWrite hk hlen ho _ _)

theorem State.openSlotAt_eq (n : Idx8) : s.openSlotAt n = (s.socket n).view.bind View.openSlot := rfl

theorem State.leaveAborting_of_no_slot {n : Idx8} (h : s.openSlotAt n = none) :
    s.leaveAborting n = s.modSocket n fun x => { x with state := .blank false, op := none, hold := none } := by
  rw [State.leaveAborting, h]

theorem findSocket_unique {p : Idx8 → Bool} {k : Idx8} (hk : p k = true) (hone : ∀ q, p q = true → q = k) :
    allSockets.find? p = some k :=
  find?_finRange_eq_some_iff.mpr ⟨hk, fun q hq => by
    rw [← Bool.not_eq_true]
    exact fun h => absurd (hone q h) (Fin.ne_of_lt hq)⟩

/-- The row of the cartridge part, where the loan has one. -/
def State.unwindCart? (s : State) (l : Loan) : State := (l.cart.map (s.unwindCart l.number)).getD s

/-- The row of the braille part, where the loan has one. -/
def State.unwindBraille? (s : State) (l : Loan) : State := (l.braille.map s.unwindBraille).getD s

theorem State.doneSocket?_none {x : Serial} (h : ∀ q z, (s.socket q).state = .done z → s.serialAt q ≠ x) :
    s.doneSocket? x = none := by
  refine find?_finRange_eq_none_iff.mpr fun q => ?_
  split
  next z hz => exact beq_eq_false_iff_ne.mpr (h q z hz)
  next => rfl

theorem State.doneSocket?_some {x : Serial} {k : Idx8} {z : LoanNo} (hk : (s.socket k).state = .done z)
    (hx : s.serialAt k = x) (hone : ∀ q y, (s.socket q).state = .done y → s.serialAt q = x → q = k) :
    s.doneSocket? x = some k := by
  refine findSocket_unique (by rw [hk]; exact beq_iff_eq.mpr hx) fun q hq => ?_
  split at hq
  next y hy => exact hone q y hy (beq_iff_eq.mp hq)
  next => cases hq

theorem State.taggingSocket?_some {n : LoanNo} {k : Idx8} {b : Bool} (hk : (s.socket k).state = .tagging n b)
    (hone : ∀ q b, (s.socket q).state = .tagging n b → q = k) : s.taggingSocket? n = some k := by
  refine findSocket_unique (by rw [hk]; exact beq_iff_eq.mpr rfl) fun q hq => ?_
  split at hq
  next l b hl => exact hone q b (by rw [hl, beq_iff_eq.mp hq])
  next => cases hq

/-- The row of a cartridge part in READY: the DONE socket that holds it closes the loan's slot, and else a REINSERT names it
(R65, R110). -/
theorem State.unwindCart_ready {l : Loan} {p : CartPath} {x : Serial} {a : Nat} {u : State}
    (h : ((∀ q z, (s.socket q).state = .done z → s.serialAt q ≠ x) ∧ u = s.raise (.reinsert x l.number)) ∨
      ∃ k z v slot, (s.socket k).state = .done z ∧ (s.socket k).view = some v ∧ v.serial = x ∧ v.kind = .stock ∧
        v.slots.length = 64 ∧ (∀ q y, (s.socket q).state = .done y → s.serialAt q = x → q = k) ∧ v.openSlot = some slot ∧
        u = s.setSocket k
          { s.socket k with
            state := .checking ⟨.noLoan, some slot, some (slotLoan (v.slot slot)), .closing⟩
            op := some (.guarded (closeWrite slot s.tables.day (s.start.own.getD 0)) (.beforeCommand (some (s.socket k).link)))
            hold := none, link := (s.socket k).link.unlock }) :
    s.unwindCart l.number ⟨p, .ready x, a⟩ = u := by
  have hready : s.unwindCart l.number ⟨p, .ready x, a⟩ = s.unwindCart l.number ⟨.copy, .ready x, a⟩ := by cases p <;> rfl
  rw [hready, State.unwindCart]
  dsimp only
  rcases h with ⟨hnone, rfl⟩ | ⟨k, z, v, slot, hk, hv, hx, hstock, hlen, hone, hslot, rfl⟩
  · rw [State.doneSocket?_none hnone]
  · have hserial : s.serialAt k = x := by rw [State.serialAt_eq, hv]; exact hx
    have hopen : s.openSlotAt k = some slot := by rw [State.openSlotAt_eq, hv]; exact hslot
    rw [State.doneSocket?_some hk hserial hone]
    dsimp only
    rw [hopen]
    exact State.closeFirst_eq hv hstock hlen hslot

/-- R109: a member is aborted, and leaves ABORTING at once where no operation is in progress. -/
theorem State.abortMember_eq {k : Idx8} {m : Member} {u v : State}
    (hleft : GangLeft (s.setSocket k { s.socket k with state := .aborting }) m.gang v)
    (h : ((s.socket k).op ≠ none ∧ u = v) ∨
      ((s.socket k).op = none ∧ (s.socket k).view.bind View.openSlot = none ∧
        u = v.setSocket k { s.socket k with state := .blank false, hold := none })) :
    s.abortMember k m = u := by
  have hsocket : v.socket k = { s.socket k with state := .aborting } := by
    have := hleft.socket (q := k) (by rw [State.socket_setSocket_self])
    rwa [State.socket_setSocket_self] at this
  have hputs : (s.putSock k .aborting).leaveGang m.gang = v := hleft.leaveGang
  rw [State.abortMember, hputs, hsocket]
  rcases h with ⟨hop, rfl⟩ | ⟨hop, hslot, rfl⟩
  · exact if_pos (Option.isSome_iff_ne_none.mpr hop)
  · rw [hop, if_neg (by decide), State.leaveAborting_of_no_slot, State.modSocket, hsocket]
    · simp only [hop]
    · rw [State.openSlotAt_eq, hsocket]
      exact hslot

theorem CartRow.unwindCart {l : Loan} {u : State} (h : CartRow s l u) : s.unwindCart? l = u := by
  unfold State.unwindCart?
  rw [CartRow] at h
  cases hc : l.cart with
  | none =>
    rw [hc] at h
    exact h.symm
  | some c =>
    rw [hc] at h
    rw [Option.map_some, Option.getD_some]
    obtain ⟨path, status, a⟩ := c
    cases status with
    | queued =>
      cases path with
      | copy => exact h.symm
      | reissue =>
        obtain ⟨r, hr, rfl⟩ := h
        show s.freeIssuing l.number = _
        rw [State.freeIssuing, hr]
        rfl
    | copying =>
      cases path with
      | copy =>
        obtain ⟨k, m, v, hk, hloan, hone, hleft, hu⟩ := h
        have hmember : (s.socket k).state.member = some m := by rcases hk with hk | hk <;> rw [hk] <;> rfl
        show State.unwindCart s l.number ⟨.copy, .copying, a⟩ = u
        rw [State.unwindCart, ← hloan]
        dsimp only
        rw [State.memberOfLoan?_eq hmember (by rw [hloan]; exact hone)]
        exact State.abortMember_eq hleft hu
      | reissue =>
        obtain ⟨r, k, hr, hk, hone, rfl⟩ := h
        show State.unwindCart s l.number ⟨.reissue, .copying, a⟩ = _
        rw [State.unwindCart]
        dsimp only
        rw [State.dropIssuing, hr]
        dsimp only
        rw [State.taggingSocket?_some (s := s.dropStock r.serial) hk hone]
        rfl
    | ready x =>
      cases path with
      | copy => exact State.unwindCart_ready h
      | reissue => exact State.unwindCart_ready h
    | back => cases path <;> exact h.symm

theorem BrailleRow.unwindBraille {l : Loan} {u : State} (h : BrailleRow s l u) : s.unwindBraille? l = u := by
  unfold State.unwindBraille?
  rw [BrailleRow] at h
  cases hb : l.braille with
  | none =>
    rw [hb] at h
    exact h.symm
  | some b =>
    rw [hb] at h
    obtain ⟨k, st⟩ := b
    cases st <;> exact h.symm

end

end Sys2Proof.Machine
end

section
/-! PROOFS. The withdrawals and the releases of a loan (R33, R34, R64, R65). -/

namespace Sys2Proof.Machine

section
variable {s : State} {l : Loan}

/-! ### The unwinding as its rows (R65) -/

/-- The tray row of a loan. -/
def State.unwindTray (s : State) (l : Loan) : State := if l.state = .packed then s.removeFromTray l else s

theorem TrayRow.unwindTray {u : State} (h : TrayRow s l u) : s.unwindTray l = u := h.removeFromTray

theorem State.unwind_both :
    s.unwind l ⟨false, false⟩ = (((s.unwindTray l).unwindCart? l).unwindBraille? l).dropLoan l.number := by
  unfold State.unwind State.unwindTray State.unwindCart? State.unwindBraille?
  cases l.cart <;> cases l.braille <;> rfl

theorem State.unwind_skipCart : s.unwind l ⟨true, false⟩ = ((s.unwindTray l).unwindBraille? l).dropLoan l.number := by
  unfold State.unwind State.unwindTray State.unwindBraille?
  cases l.cart <;> cases l.braille <;> rfl

theorem State.unwind_skipBraille : s.unwind l ⟨false, true⟩ = ((s.unwindTray l).unwindCart? l).dropLoan l.number := by
  unfold State.unwind State.unwindTray State.unwindCart?
  cases l.cart <;> cases l.braille <;> rfl

/-! ### Whether a withdrawal is taken (R64) -/

theorem State.withdrawable_of_unpacked (h : l.state = .claimed ∨ l.state = .ready) : s.withdrawable l = true := by
  rcases h with h | h <;> rw [State.withdrawable, h] <;> rfl

theorem State.dispatching_of_not (h : ∀ k q y, l.tray = some k → s.tray q = some y → y.number = k → y.state ≠ .dispatching) :
    s.dispatching l = false := by
  unfold State.dispatching
  split
  next q x hx =>
    obtain ⟨k, hk, hof⟩ := Option.bind_eq_some_iff.mp hx
    obtain ⟨hy, hn⟩ := State.tray_of_trayOf? hof
    exact beq_eq_false_iff_ne.mpr (h k q x hk hy hn)
  next => rfl

theorem State.withdrawable_of (h : l.state = .claimed ∨ l.state = .ready ∨
      (l.state = .packed ∧ ∀ k q y, l.tray = some k → s.tray q = some y → y.number = k → y.state ≠ .dispatching)) :
    s.withdrawable l = true := by
  rcases h with h | h | ⟨h, hno⟩
  · exact State.withdrawable_of_unpacked (.inl h)
  · exact State.withdrawable_of_unpacked (.inr h)
  · rw [State.withdrawable, h, State.dispatching_of_not hno]
    rfl

/-- A loan past withdrawal: it is out, or in a tray that dispatches (R64). -/
theorem State.not_withdrawable_of_out (h : l.state = .shipped ∨ l.state = .overdue ∨ l.state = .lost) :
    s.withdrawable l = false := by
  rcases h with h | h | h <;> rw [State.withdrawable, h] <;> rfl

theorem State.not_withdrawable_of_dispatching {q : Fin 16} {y : Tray} (hp : l.state = .packed)
    (ht : l.tray = some y.number) (hq : s.tray q = some y)
    (hone : ∀ p z, s.tray p = some z → z.number = y.number → p = q) (hd : y.state = .dispatching) :
    s.withdrawable l = false := by
  have hdisp : s.dispatching l = true := by
    rw [State.dispatching, ht, Option.bind_some, State.trayOf?_of_unique hq hone]
    exact beq_iff_eq.mpr hd
  rw [State.withdrawable, hp, hdisp]
  rfl

section
variable {n : LoanNo}

theorem State.withdraw_none (h : s.loan? n = none) : s.withdraw n = (s, true) := by
  rw [State.withdraw, h]

theorem State.withdraw_refused (h : s.loan? n = some l) (hw : s.withdrawable l = false) : s.withdraw n = (s, false) := by
  rw [State.withdraw, h]
  exact if_neg (by simp [hw])

/-- A withdrawal that is taken unwinds the loan by its rows and removes the record. -/
theorem State.withdraw_taken {a b c : State} (h : s.loan? n = some l) (hw : s.withdrawable l = true) (ha : TrayRow s l a)
    (hb : CartRow a l b) (hc : BrailleRow b l c) : s.withdraw n = (c.dropLoan n, true) := by
  rw [State.withdraw, h]
  dsimp only
  rw [if_pos hw, State.unwind_both, ha.unwindTray, hb.unwindCart, hc.unwindBraille, State.loan?_number h]

/-! ### The entry of a loan in the book -/

/-- The book's entry for a loan is this one. -/
def State.BookHolds (s : State) (n : LoanNo) (e : Entry) : Prop := s.entryOfLoan? n = some e ∧ s.entry? e.order = some e

theorem State.BookHolds.congr {t : State} {e : Entry} (h : s.BookHolds n e) (hb : t.book = s.book) : t.BookHolds n e := by
  rw [State.BookHolds, State.entryOfLoan?, State.entry?, hb]
  exact h

theorem State.BookHolds.state {e : Entry} (h : s.BookHolds n e) : e.state = .takenSelf n := by
  simpa using List.find?_some h.1

/-- A stock gain changes entries in UNBID alone. -/
theorem State.BookHolds.stockGain {e : Entry} (h : s.BookHolds n e) (w : Work) (serves : Format → Bool) :
    (s.stockGain w serves).BookHolds n e := by
  have hstate := h.state
  obtain ⟨hloan, horder⟩ := h
  have hsame : reopenEntry w serves (s.time.ms + s.windowMs) e = e := if_neg fun hu => by
    rw [hstate] at hu
    cases hu.1
  constructor
  · have hp : ((fun y : Entry => y.state == .takenSelf n) ∘ reopenEntry w serves (s.time.ms + s.windowMs)) =
        fun y => y.state == .takenSelf n := by
      funext y
      rw [Function.comp_apply, reopenEntry]
      split
      next hu => rw [hu.1]; rfl
      next => rfl
    rw [State.entryOfLoan?, State.stockGain, List.find?_map, hp]
    rw [State.entryOfLoan?] at hloan
    rw [hloan, Option.map_some, hsame]
  · have hp : ((fun y : Entry => y.order == e.order) ∘ reopenEntry w serves (s.time.ms + s.windowMs)) =
        fun y => y.order == e.order := by
      funext y
      rw [Function.comp_apply, reopenEntry]
      split <;> rfl
    rw [State.entry?, State.stockGain, List.find?_map, hp]
    rw [State.entry?] at horder
    rw [horder, Option.map_some, hsame]

theorem TrayRow.book {u : State} (h : TrayRow s l u) : u.book = s.book := by
  rcases h with ⟨-, rfl⟩ | ⟨-, q, x, -, -, -, rfl⟩
  · rfl
  · exact State.raise_book _ _

theorem GangLeft.book {u : State} {id : Nat} (h : GangLeft s id u) : u.book = s.book := by
  rcases h with ⟨-, g, -, hg⟩ | ⟨-, rfl⟩ | ⟨-, -, g, b, -, -, -, hg⟩
  · rcases hg with ⟨-, rfl⟩ | ⟨b, -, ⟨-, rfl⟩ | ⟨-, rfl⟩⟩ <;> rfl
  · rfl
  · rcases hg with ⟨-, ⟨-, -, rfl⟩ | ⟨-, rfl⟩⟩ | ⟨-, -, rfl⟩ <;> rfl

/-- The cartridge row leaves the book as it was, but for a cartridge gain. -/
theorem State.BookHolds.cartRow {e : Entry} {u : State} (h : s.BookHolds n e) (hu : CartRow s l u) : u.BookHolds n e := by
  rw [CartRow] at hu
  split at hu
  · exact h.congr (by rw [hu])
  · exact h.congr (by rw [hu])
  · obtain ⟨k, m, v, -, -, -, hleft, ⟨-, rfl⟩ | ⟨-, -, rfl⟩⟩ := hu
    · exact h.congr hleft.book
    · exact h.congr hleft.book
  · obtain ⟨r, -, rfl⟩ := hu
    exact (h.congr rfl).stockGain _ _
  · obtain ⟨r, k, -, -, -, rfl⟩ := hu
    exact h.congr rfl
  · obtain ⟨-, rfl⟩ | ⟨k, z, v, slot, -, -, -, -, -, -, -, rfl⟩ := hu
    · exact h.congr (State.raise_book _ _)
    · exact h.congr rfl
  · exact h.congr (by rw [hu])

/-- The braille row leaves the book as it was, but for a braille gain. -/
theorem State.BookHolds.brailleRow {e : Entry} {u : State} (h : s.BookHolds n e) (hu : BrailleRow s l u) :
    u.BookHolds n e := by
  rw [BrailleRow] at hu
  split at hu
  · exact h.congr (by rw [hu])
  · exact h.congr (by rw [hu])
  · rw [hu, State.brailleGain]
    refine State.BookHolds.stockGain (h.congr ?_) _ _
    rw [State.raise_book]
  · exact h.congr (by rw [hu])

/-- A release that is taken brings an own release of the loan's entry (R33, R64). -/
theorem State.release_released {t : State} {skip : Skip} {e : Entry} (why : Reason) (h : s.loan? n = some l)
    (hw : s.withdrawable l = true) (ht : s.unwind l skip = t) (he : t.BookHolds n e) :
    OwnReleased t e why (s.release n why skip) := by
  obtain ⟨hloan, horder⟩ := he
  rw [State.release, h]
  dsimp only
  rw [if_pos hw, ht, hloan]
  exact State.ownRelease_released why horder

end

end

end Sys2Proof.Machine
end

section
/-! PROOFS. A HELD, a SHIPPED and a CANCEL heard for an order that this station may hold (R28, R30, R32, R36, R64). -/

namespace Sys2Proof.Machine

/-! ### A HELD heard (R28) -/

section
variable {s : State} {o : OrderNo} {e : Entry} {x : Station} (he : s.entry? o = some e)
include he

theorem State.heardHeld_self {n : LoanNo} (h : e.state = .takenSelf n) :
    s.heardHeld o x = if x < s.station then s.yieldTo o n x else s.sendHeld e := by
  rw [State.heardHeld, he]
  simp only [h]

/-- In every state but TAKEN(self) a HELD is taken as a BID. -/
theorem State.heardHeld_other (h : ∀ n, e.state ≠ .takenSelf n) : s.heardHeld o x = s.heardHolder o x := by
  rw [State.heardHeld, he]
  dsimp only
  split
  next n hn => exact absurd hn (h n)
  next => rfl

end

/-- Settles O35: the two station numbers decide who yields, and the loan's state whether its withdrawal is taken. -/
theorem heldHeardByNumber : Obligations.HeldHeardByNumber := by
  intro s rest time rank x o w hrx t own r
  have hexec : r = .next (finish w (t.heardHeld o x)) := by
    change execHeldHeard w s = _
    rw [execHeldHeard, State.rxHead?_eq hrx]
  have hends {u : State} (h : t.heardHeld o x = u) : Ends r w u := .of_eq (by rw [hexec, h])
  have hother {e : Entry} (he : s.entry? o = some e) (h : ∀ n, e.state ≠ .takenSelf n) :
      t.heardHeld o x = t.heardHolder o x := State.heardHeld_other (s := t) he h
  refine ⟨fun hno => hends ?_, fun e n he hn hlt => ?_, fun e n he hn hle => ?_, fun e he hopen => hends ?_,
    fun e y he hy => hends ?_, fun e p c he hq => hends ?_, fun e p pre b post he hq htx hpre hb =>
    ⟨fun hsend hpacing => hends ?_, fun hsend => hends ?_⟩⟩
  · rw [State.heardHeld, show t.entry? o = none from hno]
  · have hyield : t.heardHeld o x = t.yieldTo o n x :=
      (State.heardHeld_self (s := t) he hn).trans (if_pos hlt)
    have htaken {u : State} (h : t.withdraw n = (u, true)) : t.heardHeld o x = u.setEntryState o (.takenOther x) := by
      rw [hyield, State.yieldTo, h]
    have hrefused (h : t.withdraw n = (t, false)) : t.heardHeld o x = t := by
      rw [hyield, State.yieldTo, h]
    refine ⟨fun l hl => ⟨fun hst a b c ha hb hc => hends ?_, fun q y hp ht hq hone hd => hends ?_⟩, fun hl => hends ?_⟩
    · rw [htaken (State.withdraw_taken (s := t) hl (State.withdrawable_of hst) ha hb hc), State.loan?_number hl]
      rfl
    · exact hrefused (State.withdraw_refused (s := t) hl (State.not_withdrawable_of_dispatching (s := t) hp ht hq hone hd))
    · exact htaken (State.withdraw_none (s := t) hl)
  · have hheld : t.heardHeld o x = t.sendHeld e :=
      (State.heardHeld_self (s := t) he hn).trans (if_neg (BitVec.not_lt.mpr hle))
    obtain rfl := State.entry?_order he
    refine ⟨fun hmark htx hroom => hends ?_, fun hsent => hends ?_⟩
    · exact hheld.trans (State.sendHeld_sent (s := t) hmark htx hroom)
    · rw [hheld, State.sendHeld_not_sent (s := t) hsent]
  · rw [hother he fun n hn => by rcases hopen with ⟨d, h⟩ | h <;> rw [hn] at h <;> cases h]
    exact State.heardHolder_open (s := t) x he hopen
  · rw [hother he (by simp [hy])]
    exact State.heardHolder_takenOther (s := t) x he hy
  · rw [hother he (by simp [hq]), State.heardHolder_queued (s := t) x he hq, State.withdrawBid_awaited (s := t) _ he hq,
      Cause.replaces_heard]
  · rw [hother he (by simp [hq]), State.heardHolder_queued (s := t) x he hq]
    exact State.withdrawBid_queued (s := t) _ he hq ⟨htx, hpre, hb⟩ hsend hpacing
  · rw [hother he (by simp [hq]), State.heardHolder_queued (s := t) x he hq]
    exact State.withdrawBid_sending (s := t) _ he hq ⟨htx, hpre, hb⟩ hsend

/-! ### SHIPPED and CANCEL (R30, R32) -/

section
variable {s : State} {o : OrderNo} {e : Entry} (he : s.entry? o = some e)
include he

theorem State.endOrder_open (h : (∃ d, e.state = .window d) ∨ e.state = .unbid ∨ ∃ y, e.state = .takenOther y) :
    s.endOrder o = s.dropEntry o := by
  rw [State.endOrder, he]
  rcases h with ⟨d, h⟩ | h | ⟨y, h⟩ <;> simp only [h]

theorem State.endOrder_queued {p : Pledge} {q : PendingWithdrawal} (h : e.state = .queued p q) :
    s.endOrder o = s.withdrawBid o .remove := by
  rw [State.endOrder, he]
  simp only [h]

/-- A withdrawal that is taken removes the entry, and one that is refused keeps it. -/
theorem State.endOrder_self {n : LoanNo} (h : e.state = .takenSelf n) :
    s.endOrder o = if (s.withdraw n).2 = true then (s.withdraw n).1.dropEntry o else (s.withdraw n).1 := by
  rw [State.endOrder, he]
  simp only [h]
  obtain ⟨t, b⟩ := s.withdraw n
  cases b <;> rfl

end

/-- Settles O36: both commands end the order, a CANCEL where its desk sent it. -/
theorem shippedOrCancelEndsOrder : Obligations.ShippedOrCancelEndsOrder := by
  intro s rest time rank x o payload w hrx t ends
  have hall {c : Instr} (hexec : exec c s = .next (finish w (t.endOrder o))) {e : Entry} (he : s.entry? o = some e) :
      ends c e := by
    have hends {u : State} (h : t.endOrder o = u) : Ends (exec c s) w u := .of_eq (by rw [hexec, h])
    refine ⟨fun h => hends (State.endOrder_open (s := t) he h), fun p c' hq => hends ?_, fun p pre b post hq htx hpre hb =>
      ⟨fun hsend hpacing => hends ?_, fun hsend => hends ?_⟩, fun n l hn hl => ⟨fun hout => hends ?_,
      fun hst a b c ha hb hc => hends ?_, fun q y hp ht hq hone hd => hends ?_⟩, fun n hn hl => hends ?_⟩
    · rw [State.endOrder_queued (s := t) he hq, State.withdrawBid_awaited (s := t) _ he hq, Cause.replaces_remove]
    · rw [State.endOrder_queued (s := t) he hq]
      exact State.withdrawBid_queued (s := t) _ he hq ⟨htx, hpre, hb⟩ hsend hpacing
    · rw [State.endOrder_queued (s := t) he hq]
      exact State.withdrawBid_sending (s := t) _ he hq ⟨htx, hpre, hb⟩ hsend
    · rw [State.endOrder_self (s := t) he hn, State.withdraw_refused (s := t) hl (State.not_withdrawable_of_out hout)]
      rfl
    · rw [State.endOrder_self (s := t) he hn, State.withdraw_taken (s := t) hl (State.withdrawable_of hst) ha hb hc,
        State.loan?_number hl]
      rfl
    · rw [State.endOrder_self (s := t) he hn,
        State.withdraw_refused (s := t) hl (State.not_withdrawable_of_dispatching (s := t) hp ht hq hone hd)]
      rfl
    · rw [State.endOrder_self (s := t) he hn, State.withdraw_none (s := t) hl]
      rfl
  refine ⟨fun n k d u hpay => ?_, fun hpay => ?_⟩
  · subst hpay
    have hexec : exec (.shippedHeard w) s = .next (finish w (t.endOrder o)) := by
      change execShippedHeard w s = _
      rw [execShippedHeard, State.rxHead?_eq hrx]
    refine ⟨fun hno => .of_eq ?_, fun e he => hall hexec he⟩
    rw [hexec, State.endOrder, show t.entry? o = none from hno]
  · subst hpay
    have hexec : exec (.cancel w) s = .next (finish w (t.cancelOrder o x)) := by
      change execCancel w s = _
      rw [execCancel, State.rxHead?_eq hrx]
    refine ⟨fun hno => .of_eq ?_, fun e he => ⟨fun hdesk => hall ?_ he, fun hdesk => .of_eq ?_⟩⟩
    · rw [hexec, State.cancelOrder, show t.entry? o = none from hno]
      rfl
    · rw [hexec, State.cancelOrder, show t.entry? o = some e from he, if_pos (by simp [hdesk])]
    · rw [hexec, State.cancelOrder, show t.entry? o = some e from he, if_neg (by simpa using Ne.symm hdesk)]

end Sys2Proof.Machine
end

section
/-! PROOFS. PICK, BACK, NOSET and NOCART at the bench (R58, R66, R67, R69, R70, R150). -/

namespace Sys2Proof.Machine

section
variable {s : State} {b : BenchLoan} {l : Loan}

theorem Loan.pledgedSet_eq_some_iff {w : Work} :
    l.pledgedSet = some w ↔ l.state = .claimed ∧ l.braille = some ⟨w, .pledged⟩ := by
  unfold Loan.pledgedSet
  split
  next k hb => simp [hb, and_comm]
  next hno =>
    simp only [reduceCtorEq, false_iff]
    exact fun h => hno w h.2

theorem State.isOwnByte_iff {x : Nat} : s.isOwnByte x = true ↔ ∃ o, s.start.own = some o ∧ o.toNat = x := by
  unfold State.isOwnByte
  cases s.start.own <;> simp

/-! ### PICK (R58) -/

theorem pick_of_none (h : s.benchLoan? b = none) : s.pick b = s.refuse .noLoan "PICK" := by
  rw [State.pick, h]

theorem pick_of_not_pledged (h : s.benchLoan? b = some l) (hp : l.pledgedSet = none) :
    s.pick b = s.refuse .state "PICK" := by
  rw [State.pick, h]
  dsimp only
  rw [hp]

/-- A PICK takes the pledged set and tests the loan for READY. -/
theorem pick_of_pledged {w : Work} (h : s.benchLoan? b = some l) (hp : l.pledgedSet = some w) :
    s.pick b =
      (s.modLoan l.number fun y =>
        { y with
          braille := some ⟨w, .picked⟩
          state := if y.state = .claimed ∧ y.cart.all (·.isReady) = true then .ready else y.state }).modSet w SetRec.pick := by
  rw [State.pick, h]
  dsimp only
  rw [hp]
  have htest : (fun y : Loan => if y.state = .claimed ∧ ({ y with braille := some ⟨w, .picked⟩ } : Loan).allReady = true then
      ({ y with braille := some ⟨w, .picked⟩, state := .ready } : Loan) else { y with braille := some ⟨w, .picked⟩ }) =
      fun y =>
        { y with
          braille := some ⟨w, .picked⟩
          state := if y.state = .claimed ∧ y.cart.all (·.isReady) = true then .ready else y.state } := by
    funext y
    have hready : ({ y with braille := some ⟨w, .picked⟩ } : Loan).allReady = y.cart.all (·.isReady) := by
      unfold Loan.allReady
      cases y.cart <;> simp
    rw [hready]
    split <;> rfl
  have hmod := State.modLoan_modLoan (s := s) (n := l.number) (f := fun y => { y with braille := some ⟨w, .picked⟩ })
    (g := fun y => if y.state = .claimed ∧ y.allReady = true then { y with state := .ready } else y) fun _ => rfl
  rw [htest] at hmod
  rw [← hmod]
  rfl

/-! ### NOSET (R70) -/

theorem noset_of_none (h : s.benchLoan? b = none) : s.noset b = s.refuse .noLoan "NOSET" := by
  rw [State.noset, h]

theorem noset_of_not_pledged (h : s.benchLoan? b = some l) (hp : l.pledgedSet = none) :
    s.noset b = s.refuse .state "NOSET" := by
  rw [State.noset, h]
  dsimp only
  rw [hp]

theorem noset_of_pledged {w : Work} (h : s.benchLoan? b = some l) (hp : l.pledgedSet = some w) :
    s.noset b = (s.loseSet w).release l.number .stockMissing ⟨false, true⟩ := by
  rw [State.noset, h]
  dsimp only
  rw [hp]

/-! ### BACK (R150) -/

theorem back_of_not_own (h : s.isOwnByte b.station = false) : s.back b = s.refuse .notOwn "BACK" := if_pos h

theorem back_of_none (ho : s.isOwnByte b.station = true) (h : s.benchLoan? b = none) :
    s.back b = s.refuse .noLoan "BACK" := by
  rw [State.back, if_neg (by simp [ho]), h]

theorem back_of_not_out (ho : s.isOwnByte b.station = true) (h : s.benchLoan? b = some l)
    (hno : ¬ (l.out = true ∧ ∃ k, l.braille = some ⟨k, .picked⟩)) : s.back b = s.refuse .state "BACK" := by
  rw [State.back, if_neg (by simp [ho]), h]
  dsimp only
  split
  next k hb => exact if_neg fun hout => hno ⟨hout, k, hb⟩
  next => rfl

/-- The braille part goes to BACK (R150). -/
def Loan.brailleBack (l : Loan) (k : Work) : Loan := { l with braille := some ⟨k, .back⟩ }

theorem back_of_out {k : Work} (ho : s.isOwnByte b.station = true) (h : s.benchLoan? b = some l) (hout : l.out = true)
    (hb : l.braille = some ⟨k, .picked⟩) :
    s.back b =
      (((s.modLoan l.number (Loan.brailleBack · k)).recoveryNotice l).modSet k SetRec.reshelve |>.brailleGain k).closeTest
        l.number := by
  rw [State.back, if_neg (by simp [ho]), h]
  dsimp only
  rw [hb]
  dsimp only
  rw [if_pos hout]
  rfl

theorem Loan.closes_brailleBack {k : Work} {r : RecoveryNotice} :
    ({ l.brailleBack k with recovery := r } : Loan).closes = true ↔ (∀ c, l.cart = some c → c.status = .back) ∧ r ≠ .owed := by
  unfold Loan.closes Loan.brailleBack
  cases l.cart <;> simp

/-- A braille return leaves the record, or takes it away where every part is BACK and nothing is owed (R67). -/
theorem back_closes {k : Work} (ho : s.isOwnByte b.station = true) (h : s.benchLoan? b = some l)
    (hl : s.loan? l.number = some l) (hout : l.out = true) (hb : l.braille = some ⟨k, .picked⟩) :
    let u := (s.partBack l.number l (Loan.brailleBack · k)).modSet k SetRec.reshelve |>.brailleGain k
    ((∀ c, l.cart = some c → c.status = .back) ∧ l.recoveryAfter ≠ .owed → s.back b = u.dropLoan l.number) ∧
      (¬ ((∀ c, l.cart = some c → c.status = .back) ∧ l.recoveryAfter ≠ .owed) → s.back b = u) := by
  intro u
  have hrecord : u.loan? l.number = some { l.brailleBack k with recovery := l.recoveryAfter } :=
    State.loan?_partBack (f := (Loan.brailleBack · k)) hl fun _ => rfl
  have hback : s.back b = u.closeTest l.number := by
    rw [back_of_out ho h hout hb, State.recoveryNotice_modLoan (f := (Loan.brailleBack · k)) hl (fun _ => rfl) fun _ => rfl]
  constructor
  · intro hc
    rw [hback, State.closeTest_of_closes hrecord (Loan.closes_brailleBack.mpr hc)]
  · intro hc
    rw [hback, State.closeTest_of_open hrecord]
    rw [← Bool.not_eq_true]
    exact fun hc' => hc (Loan.closes_brailleBack.mp hc')

/-! ### NOCART (R69) -/

theorem nocart_of_none (h : s.benchLoan? b = none) : s.nocart b = s.refuse .noLoan "NOCART" := by
  rw [State.nocart, h]

theorem nocart_of_not_shelved (h : s.benchLoan? b = some l)
    (hno : ¬ (l.state = .claimed ∧ ∃ a, l.cart = some ⟨.reissue, .queued, a⟩)) : s.nocart b = s.refuse .state "NOCART" := by
  rw [State.nocart, h]
  dsimp only
  split
  next a hc => exact if_neg fun hs => hno ⟨hs, a, hc⟩
  next => rfl

theorem nocart_of_shelved {a : Nat} (h : s.benchLoan? b = some l) (hs : l.state = .claimed)
    (hc : l.cart = some ⟨.reissue, .queued, a⟩) : s.nocart b = (s.dropIssuing l.number).fallback l := by
  rw [State.nocart, h]
  dsimp only
  rw [hc]
  exact if_pos hs

end

/-! ### The fallback of a loan whose cartridge is missing (R69) -/

section
variable {s : State} {l : Loan}

theorem State.validLen_of_valid {w : Work} {d : DirEntry} (hd : s.dir? w = some d) (hv : d.state = .valid) :
    s.validLen w = some d.len := by
  rw [State.validLen, hd]
  exact if_pos hv

theorem State.validLen_eq_none {w : Work} (h : ∀ d, s.dir? w = some d → d.state ≠ .valid) : s.validLen w = none := by
  unfold State.validLen
  cases hd : s.dir? w with
  | none => rfl
  | some d => exact if_neg (h d hd)

/-- R95: a job at the tail of the queue, where the title is VALID. -/
theorem State.createJob_of_valid {n : LoanNo} {w : Work} {d : DirEntry} (hd : s.dir? w = some d) (hv : d.state = .valid)
    (m t : Nat) :
    s.createJob n w m t = { s with copy := { s.copy with queue := s.copy.queue ++ [⟨n, w, d.start, d.len, m, t, false⟩] } } := by
  obtain ⟨k, start, len, check, state⟩ := d
  obtain rfl : state = .valid := hv
  rw [State.createJob, hd]

/-- The copy job of the fallback, where the title is VALID and the copy work allows it. -/
theorem State.fallback_job {d : DirEntry} (hd : s.dir? l.work = some d) (hv : d.state = .valid) (hload : s.copyLoad ≤ 23) :
    s.fallback l =
      { s.modLoan l.number (fun y => { y with cart := y.cart.map fun c => { c with path := .copy, status := .queued } }) with
        copy :=
          { s.copy with
            queue := s.copy.queue ++
              [⟨l.number, l.work, d.start, d.len, s.cfg.program + s.cfg.erase,
                (d.len * (s.cfg.program + s.cfg.erase) + 999) / 1000, false⟩] } } := by
  rw [State.fallback, State.validLen_of_valid hd hv]
  dsimp only
  rw [if_pos hload, State.createJob_of_valid (d := d)]
  · rfl
  · exact hd
  · exact hv

/-- Without a job to make, the loan is released (R69). -/
theorem State.fallback_release (h : ∀ d, s.dir? l.work = some d → d.state = .valid → 23 < s.copyLoad) :
    s.fallback l = s.release l.number .stockMissing ⟨true, false⟩ := by
  unfold State.fallback
  split
  next len hlen =>
    refine if_neg fun hload => ?_
    unfold State.validLen at hlen
    split at hlen
    next d hd =>
      split at hlen
      next hv => exact absurd (h d hd hv) (Nat.not_lt.mpr hload)
      next => cases hlen
    next => cases hlen
  next => rfl

theorem State.dropIssuing_eq {n : LoanNo} {x : StockRec} (h : s.issuing? n = some x) :
    s.dropIssuing n = s.dropStock x.serial := by
  rw [State.dropIssuing, h]

/-- A release without the cartridge row, of a loan in CLAIMED (R64, R65). -/
theorem State.release_braille {n : LoanNo} {e : Entry} {u : State} (why : Reason) (h : s.loan? n = some l)
    (hs : l.state = .claimed) (hu : BrailleRow s l u) (he : s.BookHolds n e) :
    OwnReleased (u.dropLoan n) e why (s.release n why ⟨true, false⟩) := by
  have htray : TrayRow s l s := .inl ⟨by simp [hs], rfl⟩
  refine State.release_released why h (State.withdrawable_of_unpacked (.inl hs)) ?_ ((he.brailleRow hu).congr rfl)
  rw [State.unwind_skipCart, htray.unwindTray, hu.unwindBraille, State.loan?_number h]

/-- A release without the braille row, of a loan in CLAIMED. -/
theorem State.release_cart {n : LoanNo} {e : Entry} {u : State} (why : Reason) (h : s.loan? n = some l)
    (hs : l.state = .claimed) (hu : CartRow s l u) (he : s.BookHolds n e) :
    OwnReleased (u.dropLoan n) e why (s.release n why ⟨false, true⟩) := by
  have htray : TrayRow s l s := .inl ⟨by simp [hs], rfl⟩
  refine State.release_released why h (State.withdrawable_of_unpacked (.inl hs)) ?_ ((he.cartRow hu).congr rfl)
  rw [State.unwind_skipBraille, htray.unwindTray, hu.unwindCart, State.loan?_number h]

end

/-- Settles O57: the record the line names, and its state, pick the answer of each command. -/
theorem loanCommandsAtBench : Obligations.LoanCommandsAtBench := by
  intro s loan w hrun hlisten b named n refused ours pledged out shelved releases gone
  have hends {c : Instr} {word : String} {f : State → State} {t : State}
      (hexec : exec c s = .next (s.tested word (·.owned w f))) (h : f s.emptyBuffer = t) : Ends (exec c s) w t :=
    ends_of_command hexec hrun hlisten h
  have hours : s.emptyBuffer.isOwnByte loan.station = true ↔ ours := State.isOwnByte_iff
  have hnone (h : named → s.loan? n = none) : s.emptyBuffer.benchLoan? loan = none :=
    (State.benchLoan?_eq_none (s := s.emptyBuffer)).mpr h
  refine ⟨fun h => ⟨hends rfl (pick_of_none (hnone h)), hends rfl (noset_of_none (hnone h)),
    hends rfl (nocart_of_none (hnone h)), fun ho => hends rfl (back_of_none (hours.mpr ho) (hnone h))⟩,
    fun ho => hends rfl (back_of_not_own (by rw [← Bool.not_eq_true, hours]; exact ho)), fun l hn hl => ?_⟩
  have hbench : s.emptyBuffer.benchLoan? loan = some l := (State.benchLoan?_eq_some (s := s.emptyBuffer)).mpr ⟨hn, hl⟩
  have hnumber := State.loan?_number hl
  have hset (k : Work) (hs : l.state = .claimed) (hk : l.braille = some ⟨k, .pledged⟩) : l.pledgedSet = some k :=
    Loan.pledgedSet_eq_some_iff.mpr ⟨hs, hk⟩
  refine ⟨fun hp => ?_, fun hs => hends rfl (nocart_of_not_shelved hbench hs), fun ho hno => hends rfl
    (back_of_not_out (hours.mpr ho) hbench (by rw [Loan.out_iff]; exact hno)), fun k hs hk => ⟨hends rfl ?_, fun u hu e hloan horder => ?_⟩,
    fun k ho hout hk => ?_, fun a x hs hc hx => ?_⟩
  · have hno : l.pledgedSet = none := by
      rw [Option.eq_none_iff_forall_not_mem]
      intro k hk
      obtain ⟨hs, hb⟩ := Loan.pledgedSet_eq_some_iff.mp hk
      exact hp ⟨hs, k, hb⟩
    exact ⟨hends rfl (pick_of_not_pledged hbench hno), hends rfl (noset_of_not_pledged hbench hno)⟩
  · rw [pick_of_pledged hbench (hset k hs hk), hnumber]
    rfl
  · exact ⟨_, State.release_cart (s := s.emptyBuffer.loseSet k) .stockMissing hl hs hu ⟨hloan, horder⟩,
      hends rfl (by rw [noset_of_pledged hbench (hset k hs hk), hnumber])⟩
  · intro notice closes back
    obtain ⟨hclose, hstay⟩ := back_closes (hours.mpr ho) hbench (by rw [hnumber]; exact hl) (Loan.out_iff.mpr hout) hk
    have hdrop : (s.emptyBuffer.partBack n l (Loan.brailleBack · k)).dropLoan n =
        { s.emptyBuffer.dropLoan n with scan := s.scanAfter l } := by
      rw [← State.modLoan_dropLoan (s := s.emptyBuffer) (n := n) (f := l.partBack (Loan.brailleBack · k)) fun _ => rfl]
      rfl
    have hcomm (p : State) : ((p.modSet k SetRec.reshelve).brailleGain k).dropLoan n =
        ((p.dropLoan n).modSet k SetRec.reshelve).brailleGain k := rfl
    refine ⟨fun hc => hends rfl ?_, fun hc => hends rfl ?_⟩
    · rw [hclose hc, hnumber, hcomm, hdrop]
      rfl
    · rw [hstay hc, hnumber]
      rfl
  · intro stock
    have hnocart : s.emptyBuffer.nocart loan = (s.emptyBuffer.dropStock x.serial).fallback l := by
      rw [nocart_of_shelved hbench hs hc, hnumber, State.dropIssuing_eq (s := s.emptyBuffer) hx]
    refine ⟨fun d hd hv hload => ?_, fun u hjob hu e hloan horder => ?_⟩
    · intro m
      refine hends rfl ?_
      rw [hnocart, State.fallback_job (s := s.emptyBuffer.dropStock x.serial) hd hv hload, hnumber]
      rfl
    · refine ⟨_, State.release_braille (s := s.emptyBuffer.dropStock x.serial) .stockMissing hl hs hu ⟨hloan, horder⟩,
        hends rfl ?_⟩
      rw [hnocart, State.fallback_release (s := s.emptyBuffer.dropStock x.serial) hjob, hnumber]

end Sys2Proof.Machine
end

section
/-! PROOFS. PACK: the tray a loan joins, closes or opens (R155 to R158). -/

namespace Sys2Proof.Machine

theorem findSome?_eq_find?_bind {α β : Type} (f : α → Option β) (l : List α) :
    l.findSome? f = (l.find? fun a => (f a).isSome).bind f := by
  induction l with
  | nil => rfl
  | cons a l ih =>
    rw [List.findSome?_cons, List.find?_cons]
    cases h : f a with
    | none => exact ih
    | some b => exact h.symm

theorem findSome?_finRange_eq_some {β : Type} {n : Nat} {f : Fin n → Option β} {i : Fin n} {b : β} (hi : f i = some b)
    (hlow : ∀ j < i, f j = none) : (List.finRange n).findSome? f = some b := by
  rw [findSome?_eq_find?_bind, find?_finRange_eq_some_iff.mpr ⟨by rw [hi]; rfl, fun j hj => by rw [hlow j hj]; rfl⟩]
  exact hi

section
variable {s : State} {g : Idx8} {q : Fin 16} {x : Tray}

/-! ### The FILLING tray of a group (R157) -/

theorem State.fillingTray?_eq_some (hx : s.tray q = some x) (hf : x.group = g ∧ x.state = .filling)
    (hlow : ∀ p y, s.tray p = some y → y.group = g ∧ y.state = .filling → q ≤ p) : s.fillingTray? g = some (q, x) := by
  refine findSome?_finRange_eq_some (i := q) ?_ fun p hp => ?_
  · rw [hx]
    exact if_pos hf
  · cases hy : s.tray p with
    | none => rfl
    | some y => exact if_neg fun hf => absurd (hlow p y hy hf) (Fin.not_le.mpr hp)

theorem State.fillingTray?_eq_none (h : ∀ p y, s.tray p = some y → ¬ (y.group = g ∧ y.state = .filling)) :
    s.fillingTray? g = none := by
  rw [State.fillingTray?, List.findSome?_eq_none_iff]
  intro p _
  cases hy : s.tray p with
  | none => rfl
  | some y => exact if_neg (h p y hy)

theorem State.tray_setTray (t : Option Tray) (p : Fin 16) : (s.setTray q t).tray p = if p = q then t else s.tray p := by
  simp only [State.tray, State.setTray, Fin.getElem_fin, Vector.getElem_set, Fin.ext_iff, eq_comm]

theorem Tray.cannotTake_iff {u : Nat} : x.cannotTake u = true ↔ x.capacity < x.load + u ∨ 48 ≤ x.loans.length := by
  simp [Tray.cannotTake]

theorem State.closeFull_of_kept {u : Nat} (h : s.fillingTray? g = some (q, x)) (hk : x.cannotTake u = false ∨ x.loans = []) :
    s.closeFull g u = s := by
  rw [State.closeFull, h]
  refine if_neg ?_
  rcases hk with hk | hk <;> simp [hk]

theorem State.closeFull_of_full {u : Nat} (h : s.fillingTray? g = some (q, x)) (hf : x.cannotTake u = true)
    (hl : x.loans ≠ []) : s.closeFull g u = s.closeTray q x := by
  rw [State.closeFull, h]
  exact if_pos (by simp [hf, hl])

theorem State.closeFull_of_none (u : Nat) (h : s.fillingTray? g = none) : s.closeFull g u = s := by
  rw [State.closeFull, h]

/-! ### Joining and opening a tray (R155, R157, R158) -/

/-- The loan packed in a tray: its record names the container and the tray, which lists it (R158). -/
def State.packedInto (s : State) (l : Loan) (c : Container) (q : Fin 16) (x : Tray) : State :=
  State.setTray
    { s with
      tables :=
        { s.tables with
          loans := s.tables.loans.map fun y =>
            if y.number = l.number then { y with state := .packed, container := some c, tray := some x.number } else y } } q
    (some { x with loans := x.loans ++ [l.number], load := x.load + l.mailUnits, urgent := x.urgent || l.urgent })

theorem State.joinTray_eq {l : Loan} {c : Container} (h : s.fillingTray? g = some (q, x)) :
    s.joinTray l c g = s.packedInto l c q x := by
  rw [State.joinTray, h]
  rfl

/-- A tray that a group opens (R157). -/
def State.newTray (s : State) (g : Idx8) : Tray :=
  ⟨s.freeTrayNo 16 s.tables.nextTray, g, s.cfg.groups[g].capacity, s.cfg.groups[g].threshold, s.cfg.groups[g].maxAge, 0, [],
    s.time.sec, false, .filling⟩

theorem State.openTray_none (h : ∀ q, s.tray q ≠ none) : s.openTray g = none := by
  rw [State.openTray, show allTrays.find? (fun r => (s.tray r).isNone) = none from
    find?_finRange_eq_none_iff.mpr fun q => Option.isNone_eq_false_iff.mpr (Option.isSome_iff_ne_none.mpr (h q))]

/-- A loan joins the tray that its group opens for it, the lowest FREE record. -/
theorem State.openTray_joinTray {l : Loan} {c : Container} (hq : s.tray q = none) (hlow : ∀ p < q, s.tray p ≠ none)
    (hno : ∀ p y, s.tray p = some y → ¬ (y.group = g ∧ y.state = .filling)) :
    ∃ u, s.openTray g = some u ∧
      u.joinTray l c g =
        State.packedInto { s with tables := { s.tables with nextTray := trayNoAfter (s.newTray g).number } } l c q
          (s.newTray g) := by
  refine ⟨_, by
    rw [State.openTray, show allTrays.find? (fun r => (s.tray r).isNone) = some q from
      find?_finRange_eq_some_iff.mpr ⟨by rw [hq]; rfl, fun p hp =>
        Option.isNone_eq_false_iff.mpr (Option.isSome_iff_ne_none.mpr (hlow p hp))⟩], ?_⟩
  rw [State.joinTray_eq (q := q) (x := s.newTray g)]
  · simp only [State.packedInto, State.setTray, Vector.set_set]
    rfl
  · have htray (p : Fin 16) : (s.setTray q (some (s.newTray g))).tray p = if p = q then some (s.newTray g) else s.tray p :=
      State.tray_setTray _ p
    refine State.fillingTray?_eq_some (x := s.newTray g) ((htray q).trans (if_pos rfl)) ⟨rfl, rfl⟩ fun p y hy hf => ?_
    have hy' := (htray p).symm.trans hy
    by_cases hp : p = q
    · exact Fin.le_of_eq hp.symm
    · rw [if_neg hp] at hy'
      exact absurd hf (hno p y hy')

/-- The free number that a search finds depends on the numbers in use alone. -/
theorem State.freeTrayNo_congr {t : State} (h : ∀ k, (t.trayOf? k).isSome = (s.trayOf? k).isSome) (fuel : Nat) (k : TrayNo) :
    t.freeTrayNo fuel k = s.freeTrayNo fuel k := by
  induction fuel generalizing k with
  | zero => rfl
  | succ fuel ih => rw [State.freeTrayNo, State.freeTrayNo, h, ih]

/-- A tray that closes keeps its number. -/
theorem State.trayOf?_isSome_closeTray (hx : s.tray q = some x) (k : TrayNo) :
    ((s.closeTray q x).trayOf? k).isSome = (s.trayOf? k).isSome := by
  have htray (p : Fin 16) : (s.closeTray q x).tray p = if p = q then some { x with state := .closed } else s.tray p := by
    rw [State.closeTray, State.raise_tray, State.tray_setTray]
  rw [Bool.eq_iff_iff, State.trayOf?_isSome_iff, State.trayOf?_isSome_iff]
  simp only [htray]
  constructor
  · rintro ⟨p, y, hy, hk⟩
    by_cases hp : p = q
    · rw [if_pos hp] at hy
      obtain rfl := Option.some.inj hy
      exact ⟨q, x, hx, hk⟩
    · rw [if_neg hp] at hy
      exact ⟨p, y, hy, hk⟩
  · rintro ⟨p, y, hy, hk⟩
    by_cases hp : p = q
    · subst hp
      obtain rfl := Option.some.inj (hx.symm.trans hy)
      exact ⟨p, { x with state := .closed }, if_pos rfl, hk⟩
    · exact ⟨p, y, by rw [if_neg hp]; exact hy, hk⟩

/-! ### PACK (R156, R157) -/

theorem packReady_of_joins {l : Loan} {c : Container} (h : (s.closeFull (s.groupOf l) l.mailUnits).fillingTray? (s.groupOf l) = some (q, x)) :
    s.packReady l c = (s.closeFull (s.groupOf l) l.mailUnits).packedInto l c q x := by
  rw [State.packReady, h, if_pos (by rfl), State.joinTray_eq h]

theorem packReady_of_opens {l : Loan} {c : Container} {t u : State} (ht : s.closeFull (s.groupOf l) l.mailUnits = t)
    (hno : t.fillingTray? (s.groupOf l) = none) (hu : t.openTray (s.groupOf l) = some u) :
    s.packReady l c = u.joinTray l c (s.groupOf l) := by
  rw [State.packReady, ht, hno, if_neg (by decide), hu]

theorem packReady_of_full {l : Loan} {c : Container} {t : State} (ht : s.closeFull (s.groupOf l) l.mailUnits = t)
    (hno : t.fillingTray? (s.groupOf l) = none) (hu : t.openTray (s.groupOf l) = none) :
    s.packReady l c = t.refuse .traysFull "PACK" := by
  rw [State.packReady, ht, hno, if_neg (by decide), hu]

theorem pack_of_none {b : BenchLoan} (c : Nat) (h : s.benchLoan? b = none) : s.pack b c = s.refuse .noLoan "PACK" := by
  rw [State.pack, h]

theorem pack_of_some {b : BenchLoan} {l : Loan} (c : Nat) (h : s.benchLoan? b = some l) :
    s.pack b c =
      if c = 0 ∨ 65535 < c then s.refuse .range "PACK"
      else if l.state ≠ .ready then s.refuse .state "PACK"
      else s.packReady l (BitVec.ofNat 16 c) := by
  rw [State.pack, h]

end

/-- Settles O55: the loan, its state, and the group's FILLING tray pick the answer. -/
theorem packPlacesLoan : Obligations.PackPlacesLoan := by
  intro s loan c w hrun hlisten b r refused named n
  have hends {t : State} (h : s.emptyBuffer.pack loan c = t) : Ends r w t := ends_of_command rfl hrun hlisten h
  refine ⟨fun h => hends (pack_of_none c ((State.benchLoan?_eq_none (s := s.emptyBuffer)).mpr h)), fun l hn hl => ?_⟩
  have hpack := pack_of_some c ((State.benchLoan?_eq_some (s := s.emptyBuffer)).mpr ⟨hn, hl⟩)
  have hnumber := State.loan?_number hl
  refine ⟨fun hc => hends (by rw [hpack, if_pos hc]; rfl), fun h1 h2 hs => hends (by
    rw [hpack, if_neg (by omega), if_pos hs]; rfl), fun h1 h2 hs => ?_⟩
  intro g filling full packed joins opens
  have hready {t : State} (h : b.packReady l (BitVec.ofNat 16 c) = t) : Ends r w t := hends (by
    rw [hpack, if_neg (by omega), if_neg (by simp [hs]), ← h]; rfl)
  have hfull (x : Tray) : x.cannotTake l.mailUnits = false ↔ ¬ full x := by
    rw [← Bool.not_eq_true, Tray.cannotTake_iff]
  have hjoins (u : State) (q : Fin 16) (x : Tray) (hu : u.tables.loans = s.tables.loans) :
      u.packedInto l (BitVec.ofNat 16 c) q x = joins u q x := by
    rw [State.packedInto, hu, hnumber]
  refine ⟨fun q x hx hf hlow hk => hready ?_, fun hno => ?_, fun q x hx hf hone hfl hne => ?_⟩
  · have hfind : b.fillingTray? g = some (q, x) := State.fillingTray?_eq_some hx hf hlow
    have hclose : b.closeFull g l.mailUnits = b := State.closeFull_of_kept hfind (hk.imp_left (hfull x).mpr)
    rw [packReady_of_joins (s := b) (q := q) (x := x)]
    · rw [show b.closeFull (b.groupOf l) l.mailUnits = b from hclose]
      exact hjoins b q x rfl
    · rw [show b.closeFull (b.groupOf l) l.mailUnits = b from hclose]
      exact hfind
  · have hfind : b.fillingTray? g = none := State.fillingTray?_eq_none hno
    have hclose : b.closeFull g l.mailUnits = b := State.closeFull_of_none _ hfind
    refine ⟨fun q hq hlow => hready ?_, fun hall => hready ?_⟩
    · obtain ⟨u, hu, hjoin⟩ := State.openTray_joinTray (s := b) (g := g) (l := l) (c := BitVec.ofNat 16 c) hq hlow hno
      rw [packReady_of_opens (s := b) hclose hfind hu, show b.groupOf l = g from rfl, hjoin]
      exact hjoins _ q _ rfl
    · exact packReady_of_full (s := b) hclose hfind (State.openTray_none hall)
  · intro closed
    have hfind : b.fillingTray? g = some (q, x) :=
      State.fillingTray?_eq_some hx hf fun p y hy hf' => Fin.ge_of_eq (hone p y hy hf')
    have hclose : b.closeFull (b.groupOf l) l.mailUnits = closed :=
      State.closeFull_of_full hfind (Tray.cannotTake_iff.mpr hfl) hne
    have htray (p : Fin 16) : closed.tray p = if p = q then some { x with state := .closed } else s.tray p :=
      (State.raise_tray _ _ p).trans (State.tray_setTray _ p)
    have hno (p : Fin 16) (y : Tray) (hy : closed.tray p = some y) : ¬ filling y := by
      rintro ⟨hg, hst⟩
      rw [htray] at hy
      by_cases hp : p = q
      · rw [if_pos hp] at hy
        obtain rfl := Option.some.inj hy
        cases hst
      · rw [if_neg hp] at hy
        exact hp (hone p y hy ⟨hg, hst⟩)
    have hnone : closed.fillingTray? g = none := State.fillingTray?_eq_none hno
    refine ⟨fun p hp hlow => hready ?_, fun hall => hready ?_⟩
    · have hpq : p ≠ q := fun h => by rw [h, hx] at hp; cases hp
      obtain ⟨u, hu, hjoin⟩ := State.openTray_joinTray (s := closed) (g := g) (q := p) (l := l) (c := BitVec.ofNat 16 c)
        (by rw [htray, if_neg hpq]; exact hp) (fun o ho => by
          rw [htray]
          split
          next => simp
          next => exact hlow o ho) hno
      have hnext : closed.tables.nextTray = s.tables.nextTray := by
        rw [show closed.tables = _ from State.raise_tables _ _]
        rfl
      have hnumbers : closed.freeTrayNo 16 s.tables.nextTray = s.freeTrayNo 16 s.tables.nextTray :=
        State.freeTrayNo_congr (State.trayOf?_isSome_closeTray (s := b) hx) _ _
      have hnew : closed.newTray g = ⟨s.freeTrayNo 16 s.tables.nextTray, g, s.cfg.groups[g].capacity,
          s.cfg.groups[g].threshold, s.cfg.groups[g].maxAge, 0, [], s.time.sec, false, .filling⟩ := by
        rw [State.newTray, hnext, hnumbers, show closed.cfg = s.cfg from State.raise_cfg _ _,
          show closed.time = s.time from State.raise_time _ _]
      rw [packReady_of_opens (s := b) hclose hnone hu, show b.groupOf l = g from rfl, hjoin, hnew]
      exact hjoins _ p _ (by rw [show closed.tables = _ from State.raise_tables _ _]; rfl)
    · refine packReady_of_full (s := b) hclose hnone (State.openTray_none fun p => ?_)
      rw [htray]
      split
      next => simp
      next => exact hall p

end Sys2Proof.Machine
end

section
/-! PROOFS. DISPATCH, the shipment of a loan, and the age of a tray (R60, R159 to R162, R174). -/

namespace Sys2Proof.Machine

/-! ### A notice changes the bench alone (R173) -/

/-- The bench once a notice is raised. -/
def Bench.raised (b : Bench) (x : Notice) : Bench :=
  if b.notices.length < 64 then { b with notices := b.notices ++ [x] } else { b with lost := true }

theorem State.raise_eq (s : State) (x : Notice) : s.raise x = { s with bench := s.bench.raised x } := by
  unfold State.raise Bench.raised
  split <;> rfl

theorem Bench.raised_of_lt {b : Bench} (x : Notice) (h : b.notices.length < 64) :
    b.raised x = { b with notices := b.notices ++ [x] } := if_pos h

/-! ### The trays a DISPATCH takes (R160, R161) -/

section
variable {n : Nat} {β : Type} {f : Fin n → Option β}

theorem mem_indexed {i : Fin n} {b : β} : (i, b) ∈ ((List.finRange n).filterMap fun i => (f i).map (i, ·)) ↔ f i = some b := by
  rw [List.mem_filterMap]
  constructor
  · rintro ⟨j, -, hj⟩
    obtain ⟨c, hc, heq⟩ := Option.map_eq_some_iff.mp hj
    obtain ⟨rfl, rfl⟩ := Prod.mk.inj heq
    exact hc
  · exact fun h => ⟨i, List.mem_finRange i, by rw [h]; rfl⟩

theorem indexed_pairwise : ((List.finRange n).filterMap fun i => (f i).map (i, ·)).Pairwise fun p q => p.1 ≠ q.1 := by
  rw [List.pairwise_filterMap]
  refine (List.nodup_finRange n).imp fun {a b} hab p hp q hq => ?_
  obtain ⟨-, -, rfl⟩ := Option.map_eq_some_iff.mp hp
  obtain ⟨-, -, rfl⟩ := Option.map_eq_some_iff.mp hq
  exact hab

/-- The one pair with an index, in a list of a number's values. -/
theorem find?_indexed (i : Fin n) :
    ((List.finRange n).filterMap fun i => (f i).map (i, ·)).find? (fun p => p.1 == i) = (f i).map (i, ·) := by
  cases hi : f i with
  | none =>
    rw [Option.map_none, List.find?_eq_none]
    rintro ⟨j, b⟩ hj hji
    obtain rfl : j = i := beq_iff_eq.mp hji
    rw [mem_indexed.mp hj] at hi
    cases hi
  | some b =>
    obtain ⟨pre, post, happ⟩ := List.append_of_mem (mem_indexed.mpr hi)
    have hpair := indexed_pairwise (f := f)
    rw [happ, List.pairwise_append] at hpair
    rw [happ, Option.map_some]
    refine find?_append_cons (fun p hp => ?_) (by simp)
    simpa using hpair.2.2 p hp (i, b) List.mem_cons_self

end

section
variable {s : State}

theorem dispatchable_eq : s.dispatchable =
    (List.finRange 16).filterMap fun q => ((s.tray q).filter Tray.dispatchable).map (q, ·) := by
  refine List.filterMap_congr fun q _ => ?_
  cases s.tray q with
  | none => rfl
  | some x => by_cases h : x.dispatchable = true <;> simp [Option.filter, h]

/-- The trays once those listed dispatch. -/
def traysAfter (s : State) (ps : List (Fin 16 × Tray)) : Vector (Option Tray) 16 :=
  Vector.ofFn fun q => ((ps.find? fun p => p.1 == q).map fun p => some { p.2 with state := .dispatching }).getD (s.tray q)

/-- The notice of a tray that dispatches. -/
def dispatchNotice (x : Tray) : Notice := .dispatched (some x.number) x.group.val x.loans.length

theorem foldl_takeTray (ps : List (Fin 16 × Tray)) (s : State) (hpair : ps.Pairwise fun p q => p.1 ≠ q.1)
    (hlen : s.bench.notices.length + ps.length ≤ 64) :
    ps.foldl State.takeTray s =
      { s with
        tables :=
          { s.tables with
            trays := traysAfter s ps, dispatchLine := s.tables.dispatchLine ++ ps.map (·.1) }
        bench := { s.bench with notices := s.bench.notices ++ ps.map fun p => dispatchNotice p.2 } } := by
  induction ps generalizing s with
  | nil =>
    have : s.tables.trays = traysAfter s [] := by
      ext i hi
      simp [traysAfter, State.tray]
    rw [List.foldl_nil, ← this, List.map_nil, List.map_nil, List.append_nil, List.append_nil]
  | cons p ps ih =>
    obtain ⟨r, x⟩ := p
    rw [List.pairwise_cons] at hpair
    rw [List.length_cons] at hlen
    have htake : s.takeTray (r, x) =
        { s with
          tables :=
            { s.tables with
              trays := s.tables.trays.set r.val (some { x with state := .dispatching }) r.isLt
              dispatchLine := s.tables.dispatchLine ++ [r] }
          bench := { s.bench with notices := s.bench.notices ++ [dispatchNotice x] } } := by
      rw [State.takeTray, State.raise_eq, Bench.raised_of_lt]
      · rfl
      · exact (by omega : s.bench.notices.length < 64)
    have htrays : traysAfter (s.takeTray (r, x)) ps = traysAfter s ((r, x) :: ps) := by
      refine congrArg Vector.ofFn (funext fun q => ?_)
      have htray : (s.takeTray (r, x)).tray q = if q = r then some { x with state := .dispatching } else s.tray q := by
        rw [htake]
        exact State.tray_setTray (s := s) _ q
      rw [htray, List.find?_cons]
      by_cases hq : q = r
      · have hnone : ps.find? (fun p => p.1 == q) = none := by
          rw [List.find?_eq_none]
          intro p hp
          simpa [hq] using (hpair.1 p hp).symm
        rw [hnone, hq]
        simp
      · rw [if_neg hq, beq_eq_false_iff_ne.mpr (Ne.symm hq)]
    rw [List.foldl_cons, ih _ hpair.2, htrays, htake]
    · simp only [List.append_assoc, List.map_cons, List.singleton_append]
    · rw [htake, List.length_append, List.length_singleton]
      omega

theorem map_dispatchable {β : Type} (h : Fin 16 → Tray → β) :
    s.dispatchable.map (fun p => h p.1 p.2) =
      (List.finRange 16).filterMap fun q => ((s.tray q).filter Tray.dispatchable).map (h q) := by
  rw [dispatchable_eq, List.map_filterMap]
  refine List.filterMap_congr fun q _ => ?_
  rw [Option.map_map]
  rfl

theorem dispatchable_fst :
    s.dispatchable.map (·.1) = (List.finRange 16).filter fun q => (s.tray q).any Tray.dispatchable := by
  rw [map_dispatchable fun q _ => q, ← List.filterMap_eq_filter]
  refine List.filterMap_congr fun q _ => ?_
  rw [Option.guard]
  cases s.tray q with
  | none => rfl
  | some x => by_cases h : x.dispatchable = true <;> simp [Option.filter, h]

theorem dispatchable_eq_nil_iff : s.dispatchable = [] ↔ ∀ q x, s.tray q = some x → x.dispatchable = false := by
  rw [dispatchable_eq, List.eq_nil_iff_forall_not_mem]
  constructor
  · intro h q x hx
    rw [← Bool.not_eq_true]
    exact fun hd => h (q, x) (mem_indexed.mpr (Option.filter_eq_some_iff.mpr ⟨hx, hd⟩))
  · rintro h ⟨q, x⟩ hm
    obtain ⟨hx, hd⟩ := Option.filter_eq_some_iff.mp (mem_indexed.mp hm)
    rw [h q x hx] at hd
    cases hd

theorem length_dispatchable_le : s.dispatchable.length ≤ 16 := by
  rw [dispatchable_eq]
  exact (List.length_filterMap_le _ _).trans (List.length_finRange).le

/-- The one tray that a DISPATCH takes. -/
theorem dispatchable_eq_singleton {q : Fin 16} {x : Tray} (hx : s.tray q = some x) (hd : x.dispatchable = true)
    (hone : ∀ p y, s.tray p = some y → y.dispatchable = true → p = q) : s.dispatchable = [(q, x)] := by
  have hmem {p : Fin 16} {y : Tray} : (p, y) ∈ s.dispatchable ↔ s.tray p = some y ∧ y.dispatchable = true := by
    rw [dispatchable_eq, mem_indexed, Option.filter_eq_some_iff]
  have hpair : s.dispatchable.Pairwise fun p q => p.1 ≠ q.1 := by
    rw [dispatchable_eq]
    exact indexed_pairwise
  have hq : (q, x) ∈ s.dispatchable := hmem.mpr ⟨hx, hd⟩
  obtain ⟨p, ps, hps⟩ := List.exists_cons_of_ne_nil (List.ne_nil_of_mem hq)
  have hall : ∀ p ∈ s.dispatchable, p = (q, x) := by
    rintro ⟨p, y⟩ hp
    obtain ⟨hy, hyd⟩ := hmem.mp hp
    obtain rfl := hone p y hy hyd
    rw [Option.some.inj (hy.symm.trans hx)]
  rw [hps] at hall hpair ⊢
  rw [List.forall_mem_cons] at hall
  obtain ⟨rfl, hrest⟩ := hall
  rw [List.pairwise_cons] at hpair
  cases ps with
  | nil => rfl
  | cons p' ps => exact absurd (by rw [hrest p' List.mem_cons_self]) (hpair.1 p' List.mem_cons_self)

end

/-! ### The shipment of a loan (R60, R161, R162) -/

section
variable {s : State} {q : Fin 16} {x : Tray} {n : LoanNo} {l : Loan}

theorem State.nextToShip_eq {rest : List (Fin 16)} {ns : List LoanNo} (hline : s.tables.dispatchLine = q :: rest)
    (hx : s.tray q = some x) (hn : x.loans = n :: ns) (hl : s.loan? n = some l) : s.nextToShip = some (q, x, l) := by
  rw [State.nextToShip, hline]
  dsimp only
  rw [hx]
  dsimp only
  rw [hn]
  dsimp only
  rw [hl]
  rfl

theorem State.nextToShip_nil (h : s.tables.dispatchLine = []) : s.nextToShip = none := by
  rw [State.nextToShip, h]

theorem State.trayOffer_nil (k : Nat) (h : s.nextToShip = none) : s.trayOffer k = s := by
  cases k with
  | zero => rfl
  | succ k =>
    rw [State.trayOffer, h]
    split <;> rfl

/-- An offer that is accepted ships its loan, and the next follows. -/
theorem State.trayOffer_accepted {k : Nat} (hlisten : s.line.state ≠ .listen) (h : s.nextToShip = some (q, x, l))
    (hroom : s.Room .tray) :
    s.trayOffer (k + 1) =
      (State.shipLoan
        { s with
          line :=
            { s.line with
              tx := s.line.tx ++ [⟨⟨0, s.start.own.getD 0, s.shippedFrame l⟩, false, false⟩]
              pacing := s.line.pacing.filter fun y => y != .tray } } q x l).trayOffer k := by
  rw [State.trayOffer, if_neg hlisten, h]
  dsimp only
  rw [State.offerPaced_of_room _ hroom]

theorem State.storeTray_empty (h : x.loans = []) (hs : x.state ≠ .filling) : s.storeTray q x = s.freeTray q := by
  refine if_pos ?_
  simp [h, hs]

/-- The last loan of a tray of the dispatch line ships: the tray is freed (R60, R161, R162). -/
theorem State.shipLoan_last {e : Entry} (hl : l.number = n) (hx : x.loans = [n]) (hs : x.state ≠ .filling)
    (he : s.entryOfLoan? n = some e) :
    s.shipLoan q x l =
      { s with
        tables :=
          { s.tables with
            loans := s.tables.loans.map fun y =>
              if y.number = n then
                { y with
                  state := .shipped, dispatchDay := some s.tables.day
                  dueDay := some (dueDayOf s.tables.day s.cfg.loanPeriod), tray := none }
              else y
            trays := s.tables.trays.set q.val none q.isLt
            dispatchLine := s.tables.dispatchLine.filter fun p => p != q }
        book := (s.dropEntry e.order).book } := by
  have he' (f : Loan → Loan) : (s.modLoan n f).entryOfLoan? n = some e := he
  rw [State.shipLoan, hl]
  dsimp only
  rw [he']
  dsimp only
  rw [State.storeTray_empty]
  · rfl
  · rw [hx]
    rfl
  · exact hs

/-- The state once the one loan of the one tray on the dispatch line has shipped. -/
def State.lastShipped (s : State) (q : Fin 16) (l : Loan) (e : Entry) : State :=
  { s with
    line := { s.line with tx := s.line.tx ++ [⟨⟨0, s.start.own.getD 0, s.shippedFrame l⟩, false, false⟩] }
    tables :=
      { s.tables with
        loans := s.tables.loans.map fun y =>
          if y.number = l.number then
            { y with
              state := .shipped, dispatchDay := some s.tables.day
              dueDay := some (dueDayOf s.tables.day s.cfg.loanPeriod), tray := none }
          else y
        trays := s.tables.trays.set q.val none q.isLt
        dispatchLine := [] }
    book := (s.dropEntry e.order).book }

/-- With no owner waiting and 4 entries of the transmit queue free, the last loan of the dispatch line ships. -/
theorem State.trayOffer_last {e : Entry} (k : Nat) (hlisten : s.line.state ≠ .listen) (hline : s.tables.dispatchLine = [q])
    (hx : s.tray q = some x) (hloans : x.loans = [n]) (hs : x.state ≠ .filling) (hl : s.loan? n = some l)
    (he : s.entryOfLoan? n = some e) (hpacing : s.line.pacing = []) (htx : s.line.tx.length ≤ 12) :
    s.trayOffer (k + 1) = s.lastShipped q l e := by
  have hnumber := State.loan?_number hl
  have hline' : s.tables.dispatchLine.filter (fun p => p != q) = [] := by rw [hline]; simp
  have hpacing' : s.line.pacing.filter (fun y => y != .tray) = s.line.pacing := by rw [hpacing]; rfl
  rw [State.trayOffer_accepted hlisten (State.nextToShip_eq hline hx hloans hl) ⟨htx, .inl hpacing⟩, hpacing',
    State.shipLoan_last (e := e) hnumber hloans hs, State.trayOffer_nil]
  · simp only [hline', State.lastShipped, hnumber]
    rfl
  · exact State.nextToShip_nil hline'
  · exact he

/-- A tray that goes to DISPATCHING joins the line, with its notice. -/
theorem State.takeTray_eq : s.takeTray (q, x) =
    { s with
      tables :=
        { s.tables with
          trays := s.tables.trays.set q.val (some { x with state := .dispatching }) q.isLt
          dispatchLine := s.tables.dispatchLine ++ [q] }
      bench := s.bench.raised (dispatchNotice x) } :=
  State.raise_eq _ _

end

/-! ### DISPATCH (R160) -/

section
variable {s : State}

theorem dispatch_of_no_date (h : s.tables.day = 0) : s.dispatch = s.raise .noDate :=
  if_pos (beq_iff_eq.mpr h)

theorem dispatch_of_none (hd : s.tables.day ≠ 0) (h : s.dispatchable = []) : s.dispatch = s.raise (.dispatched none 0 0) := by
  rw [State.dispatch, if_neg (by simpa using hd), h]

theorem dispatch_of_some (hd : s.tables.day ≠ 0) (h : s.dispatchable ≠ []) :
    s.dispatch =
      if s.tables.dispatchLine.isEmpty = true then (s.dispatchable.foldl State.takeTray s).trayOffer 17
      else s.dispatchable.foldl State.takeTray s := by
  rw [State.dispatch, if_neg (by simpa using hd)]
  cases hp : s.dispatchable with
  | nil => exact absurd hp h
  | cons p ps => rfl

end

/-- Settles O56: the day, the trays that are ready and the line pick what a DISPATCH does. -/
theorem dispatchTakesReadyTrays : Obligations.DispatchTakesReadyTrays := by
  intro s w b r ready day
  have hready : ready = Tray.dispatchable := rfl
  refine ⟨fun hrun hlisten => ?_, fun q => ?_⟩
  · have hends {t : State} (h : b.dispatch = t) : Ends r w t := ends_of_command (f := State.dispatch) rfl hrun hlisten h
    refine ⟨fun hd => hends (dispatch_of_no_date (s := b) hd), fun hd hno => hends (dispatch_of_none (s := b) hd
      (dispatchable_eq_nil_iff.mpr hno)), fun hd hline hsome hlen => ?_, fun q x n l e hd hline hx hxr hone hloans hl he hpacing htx => ?_⟩
    · have hne : b.dispatchable ≠ [] := by
        obtain ⟨q, x, hx, hxr⟩ := hsome
        exact fun h => Bool.false_ne_true ((dispatchable_eq_nil_iff.mp h q x hx).symm.trans hxr)
      have hpair : b.dispatchable.Pairwise fun p q => p.1 ≠ q.1 := by
        rw [dispatchable_eq]
        exact indexed_pairwise
      have hfold := foldl_takeTray b.dispatchable b hpair (by
        have := length_dispatchable_le (s := b)
        have : b.bench.notices.length = s.bench.notices.length := rfl
        omega)
      refine ⟨traysAfter b b.dispatchable, fun q => ?_, hends ?_⟩
      · rw [traysAfter, Fin.getElem_fin, Vector.getElem_ofFn, dispatchable_eq, find?_indexed]
        rw [show b.tray q = s.tray q from rfl, hready]
        cases s.tray q with
        | none => rfl
        | some x => by_cases hx : x.dispatchable = true <;> simp [Option.filter, hx]
      · rw [dispatch_of_some (s := b) hd hne, if_neg (by simpa using hline), hfold, dispatchable_fst,
          map_dispatchable fun _ x => dispatchNotice x]
        rfl
    · intro due serial shipped
      have hone' : b.dispatchable = [(q, x)] := dispatchable_eq_singleton (s := b) hx hxr hone
      have hline' : b.tables.dispatchLine = [] := hline
      have htake : b.takeTray (q, x) =
          { b with
            tables :=
              { s.tables with
                trays := s.tables.trays.set q.val (some { x with state := .dispatching }) q.isLt, dispatchLine := [q] }
            bench := b.bench.raised (dispatchNotice x) } := by
        rw [State.takeTray_eq, hline']
        rfl
      have htray : (b.takeTray (q, x)).tray q = some { x with state := .dispatching } := by
        rw [htake]
        exact (State.tray_setTray (s := s) (q := q) _ q).trans (if_pos rfl)
      have hoffer : (b.takeTray (q, x)).trayOffer 17 = (b.takeTray (q, x)).lastShipped q l e := by
        refine State.trayOffer_last 16 ?_ ?_ htray hloans (by simp) ?_ ?_ ?_ ?_ <;> rw [htake]
        · exact hlisten
        · exact hl
        · exact he
        · exact hpacing
        · exact htx
      have hnotice : dispatchNotice x = .dispatched (some x.number) x.group.val 1 := by rw [dispatchNotice, hloans]; rfl
      refine hends ?_
      rw [dispatch_of_some (s := b) hd (by rw [hone']; exact List.cons_ne_nil _ _), hone', hline', if_pos (by rfl),
        List.foldl_cons, List.foldl_nil, hoffer, htake, State.raise_eq, ← hnotice, State.lastShipped,
        State.loan?_number hl]
      simp only [Vector.set_set, State.shippedFrame, State.loan?_number hl]
      have hnil : ([] : List (Fin 16)) = s.tables.dispatchLine := hline.symm
      rw [hnil]
      rfl
  · intro age old
    have hage : age = execTrayAgeExpiry q w s := rfl
    have hold (x : Tray) : (s.start.phase = .running ∧ s.aged x = true) ↔ old x := by
      rw [State.aged, Bool.and_eq_true, beq_iff_eq, decide_eq_true_iff]
    refine ⟨fun x hx ho hl => .of_eq ?_, fun x hx ho hl => .of_eq ?_, fun hno => ?_⟩
    · rw [hage, execTrayAgeExpiry, hx]
      dsimp only
      rw [if_pos ((hold x).mpr ho), if_pos (by simp [hl])]
    · rw [hage, execTrayAgeExpiry, hx]
      dsimp only
      rw [if_pos ((hold x).mpr ho), if_neg (by simp [hl])]
      rfl
    · rw [hage, execTrayAgeExpiry]
      cases hx : s.tray q with
      | none => rfl
      | some x =>
        dsimp only
        rw [if_neg fun h => hno x hx ((hold x).mp h)]

end Sys2Proof.Machine
end

section
/-! PROOFS. Recovery, steps 1, 2 and 5 (R73, R134, R165): O15 and O17. -/

namespace Sys2Proof.Machine

variable {s : State}

/-! ### Steps 1 and 2 -/

/-- A part that was being made is QUEUED again (R73). -/
def CartPart.requeued (c : CartPart) : CartPart := if c.status = .copying then { c with status := .queued } else c

def Loan.requeued (l : Loan) : Loan := { l with cart := l.cart.map CartPart.requeued }

theorem CartPart.requeued_awaits (c : CartPart) :
    (c.requeued.path == .reissue && c.requeued.status == .queued) =
      (c.path == .reissue && (c.status == .queued || c.status == .copying)) := by
  by_cases h : c.status = .copying
  · simp [CartPart.requeued, h]
  · simp [CartPart.requeued, h, beq_eq_false_iff_ne.mpr h]

theorem getD_map_false {α : Type} (o : Option α) (p : α → Bool) : (o.map p).getD false = o.any p := by
  cases o <;> rfl

theorem State.recoverRegister_eq : s.recoverRegister =
    { s with tables := { s.tables with loans := s.tables.loans.map Loan.requeued }, scan := ⟨false, none, false, none⟩ } :=
  rfl

theorem State.loan?_recoverRegister (n : LoanNo) : s.recoverRegister.loan? n = (s.loan? n).map Loan.requeued := by
  rw [State.recoverRegister_eq, State.loan?, State.loan?, List.find?_map]
  rfl

theorem State.awaitsReissue_recoverRegister (n : LoanNo) : s.recoverRegister.awaitsReissue n =
    (s.tables.loans.find? fun l => l.number == n).any fun l =>
      l.state == .claimed && l.cart.any fun c => c.path == .reissue && (c.status == .queued || c.status == .copying) := by
  rw [State.awaitsReissue, State.loan?_recoverRegister, State.loan?]
  cases s.tables.loans.find? fun l => l.number == n with
  | none => rfl
  | some l =>
    rw [Option.map_some, Option.any_some]
    dsimp only
    rw [getD_map_false, Loan.requeued, Option.any_map]
    exact congrArg (l.state == .claimed && l.cart.any ·) (funext CartPart.requeued_awaits)

theorem State.recountPledged_recoverRegister (w : Work) : s.recoverRegister.recountPledged w =
    s.tables.loans.countP fun l => l.state == .claimed && l.braille.any fun b => b.set == w && b.status == .pledged := by
  rw [State.recountPledged, ← List.countP_eq_length_filter, State.recoverRegister_eq, List.countP_map]
  refine congrArg (List.countP · s.tables.loans) (funext fun l => ?_)
  rw [Function.comp, getD_map_false]
  rfl

theorem State.recoverStock_recoverRegister (r : StockRec) : s.recoverRegister.recoverStock r =
    match r.state with
    | .free => r
    | .pledged _ => { r with state := .free }
    | .issuing n =>
      if ((s.tables.loans.find? fun l => l.number == n).any fun l =>
        l.state == .claimed && l.cart.any fun c =>
          c.path == .reissue && (c.status == .queued || c.status == .copying)) then r
      else { r with state := .free } := by
  rw [State.recoverStock]
  cases r.state with
  | free => rfl
  | pledged _ => rfl
  | issuing n => exact if_congr (by rw [State.awaitsReissue_recoverRegister]) rfl rfl

/-- Settles O15. -/
theorem recoverySetsRecordsRight : Obligations.RecoverySetsRecordsRight := by
  intro s back
  have hstock : s.recoverRegister.recoverStock = _ := funext State.recoverStock_recoverRegister
  have hsets : s.recoverRegister.recountPledged = _ := funext State.recountPledged_recoverRegister
  rw [State.recoverDirectory, hstock, hsets]
  rfl

/-! ### Step 5 -/

def State.heldIn (s : State) (x : Tray) : List LoanNo :=
  x.loans.filter fun n => (s.loan? n).any fun l => l.state == .packed && l.tray == some x.number

/-- The record that a tray's recovery leaves, if it keeps one (R165). -/
def State.recoveredTray (s : State) (r : Fin 16) : Option Tray :=
  (s.tray r).bind fun x =>
    if s.heldIn x = [] ∧ x.state ≠ .filling then none
    else some
      { x with
        loans := s.heldIn x
        load := ((s.heldIn x).map fun n => ((s.loan? n).map (·.mailUnits)).getD 0).sum
        urgent := (s.heldIn x).any fun n => ((s.loan? n).map (·.urgent)).getD false
        opened := if x.state = .filling then 0 else x.opened }

def State.withTrays (s : State) (v : Vector (Option Tray) 16) (line : List (Fin 16)) : State :=
  { s with tables := { s.tables with trays := v, dispatchLine := line } }

theorem State.recoveredTray_congr {t : State} {r : Fin 16} (hl : t.tables.loans = s.tables.loans)
    (ht : t.tray r = s.tray r) : t.recoveredTray r = s.recoveredTray r := by
  have hloan : t.loan? = s.loan? := funext fun n => congrArg (List.find? _) hl
  rw [State.recoveredTray, State.recoveredTray, ht]
  refine congrArg (Option.bind _) (funext fun x => ?_)
  rw [State.heldIn, State.heldIn, hloan]

/-- Whether the dispatch line keeps a record whose tray was checked. -/
def State.staysInLine (s : State) (r : Fin 16) : Bool := (s.tray r).isNone || (s.recoveredTray r).isSome

theorem State.recoverTray_eq (r : Fin 16) : s.recoverTray r =
    s.withTrays (s.tables.trays.set r.val (s.recoveredTray r) r.isLt)
      (s.tables.dispatchLine.filter fun q => q != r || s.staysInLine r) := by
  have hkeeps (h : s.staysInLine r = true) :
      (s.tables.dispatchLine.filter fun q => q != r || s.staysInLine r) = s.tables.dispatchLine := by
    simp [h]
  rw [State.recoverTray]
  cases hx : s.tray r with
  | none =>
    have hrec : s.recoveredTray r = none := by rw [State.recoveredTray, hx]; rfl
    have hset : s.tables.trays.set r.val none r.isLt = s.tables.trays := by
      have : s.tables.trays[r.val] = none := hx
      rw [← this, Vector.set_getElem_self]
    rw [hkeeps (by rw [State.staysInLine, hx]; rfl), hrec, hset]
    rfl
  | some x =>
    have hheld : x.loans.filter (s.packedIn x.number) = s.heldIn x :=
      congrArg (List.filter · x.loans) (funext fun n => getD_map_false _ _)
    dsimp only
    rw [hheld, State.storeTray]
    by_cases hfree : s.heldIn x = [] ∧ x.state ≠ .filling
    · have hrec : s.recoveredTray r = none := by rw [State.recoveredTray, hx, Option.bind_some, if_pos hfree]
      have hstays : s.staysInLine r = false := by rw [State.staysInLine, hx, hrec]; rfl
      rw [if_pos (by simpa using hfree), hrec, hstays]
      simp only [Bool.or_false]
      rfl
    · have hrec := congrArg (fun o : Option Tray => o) (show s.recoveredTray r = _ by
        rw [State.recoveredTray, hx, Option.bind_some, if_neg hfree])
      rw [if_neg (by simpa using hfree), hkeeps (by rw [State.staysInLine, hrec, Option.isSome_some, Bool.or_true]), hrec]
      rfl

theorem foldl_recoverTray (rs : List (Fin 16)) (hnd : rs.Nodup) (s : State) :
    rs.foldl State.recoverTray s =
      s.withTrays (Vector.ofFn fun q => if q ∈ rs then s.recoveredTray q else s.tray q)
        (s.tables.dispatchLine.filter fun q => decide (q ∉ rs) || s.staysInLine q) := by
  induction rs generalizing s with
  | nil =>
    have : (Vector.ofFn fun q => if q ∈ ([] : List (Fin 16)) then s.recoveredTray q else s.tray q) = s.tables.trays := by
      ext i hi
      simp [State.tray]
    rw [this]
    simp [State.withTrays]
  | cons r rs ih =>
    rw [List.nodup_cons] at hnd
    obtain ⟨hr, hnd⟩ := hnd
    rw [List.foldl_cons, ih hnd]
    have htray (q : Fin 16) : (s.recoverTray r).tray q = if q = r then s.recoveredTray r else s.tray q := by
      rw [State.recoverTray_eq]
      exact State.tray_setTray (s := s) _ q
    have hother {q : Fin 16} (hq : q ≠ r) : (s.recoverTray r).recoveredTray q = s.recoveredTray q :=
      State.recoveredTray_congr (by rw [State.recoverTray_eq]; rfl) ((htray q).trans (if_neg hq))
    have hstays {q : Fin 16} (hq : q ≠ r) : (s.recoverTray r).staysInLine q = s.staysInLine q := by
      rw [State.staysInLine, State.staysInLine, hother hq, htray q, if_neg hq]
    have htrays : (Vector.ofFn fun q => if q ∈ rs then (s.recoverTray r).recoveredTray q else (s.recoverTray r).tray q) =
        Vector.ofFn fun q => if q ∈ r :: rs then s.recoveredTray q else s.tray q := by
      refine congrArg Vector.ofFn (funext fun q => ?_)
      by_cases hq : q = r
      · subst hq
        rw [if_neg hr, htray, if_pos rfl, if_pos List.mem_cons_self]
      · rw [hother hq, htray, if_neg hq]
        simp [hq]
    have hline : ((s.recoverTray r).tables.dispatchLine.filter
          fun q => decide (q ∉ rs) || (s.recoverTray r).staysInLine q) =
        s.tables.dispatchLine.filter fun q => decide (q ∉ r :: rs) || s.staysInLine q := by
      have hl : (s.recoverTray r).tables.dispatchLine =
          s.tables.dispatchLine.filter fun q => q != r || s.staysInLine r := by
        rw [State.recoverTray_eq]
        rfl
      rw [hl, List.filter_filter]
      refine congrArg (List.filter · _) (funext fun q => ?_)
      by_cases hq : q = r
      · subst hq
        simp [hr]
      · rw [hstays hq]
        simp [hq]
    rw [htrays, hline, State.recoverTray_eq]
    rfl

/-- Settles O17. -/
theorem recoveryChecksTrays : Obligations.RecoveryChecksTrays := by
  intro s held t
  have ht : t = s.withTrays (Vector.ofFn s.recoveredTray) (s.tables.dispatchLine.filter s.staysInLine) := by
    have hfold := foldl_recoverTray allTrays (List.nodup_finRange 16) s
    have hmem (q : Fin 16) : q ∈ allTrays := List.mem_finRange q
    simp only [hmem, if_true, not_true, decide_false, Bool.false_or] at hfold
    exact hfold
  have htray (r : Fin 16) : t.tray r = s.recoveredTray r := by
    rw [ht]
    exact Vector.getElem_ofFn r.isLt
  refine ⟨htray, ?_, by rw [ht]; rfl⟩
  simp only [htray]
  rw [ht]
  rfl

end Sys2Proof.Machine
end

section
/-! PROOFS. Recovery, steps 3 and 4 (R41, R51, R68, R117): O16. -/

namespace Sys2Proof.Machine

variable {s : State}

/-! ### The order of the claim days -/

/-- Ascending claim day, then loan number (R41, R117). -/
def Loan.inOrder (a b : Loan) : Prop := a.claimDay < b.claimDay ∨ (a.claimDay = b.claimDay ∧ a.number ≤ b.number)

theorem insertByDay_perm (l : Loan) (ls : List Loan) : (insertByDay l ls).Perm (l :: ls) := by
  induction ls with
  | nil => exact .refl _
  | cons x xs ih =>
    rw [insertByDay]
    split
    next => exact .refl _
    next => exact (ih.cons x).trans (.swap l x xs)

/-- A record joins behind those of its day, whose numbers are no higher. -/
theorem insertByDay_inOrder {l : Loan} {ls : List Loan} (h : ls.Pairwise Loan.inOrder) (hl : ∀ x ∈ ls, x.number ≤ l.number) :
    (insertByDay l ls).Pairwise Loan.inOrder := by
  induction ls with
  | nil => exact List.pairwise_singleton _ _
  | cons x xs ih =>
    rw [List.pairwise_cons] at h
    obtain ⟨hx, hxs⟩ := h
    rw [insertByDay]
    split
    next hlt =>
      refine List.pairwise_cons.mpr ⟨fun y hy => .inl ?_, List.pairwise_cons.mpr ⟨hx, hxs⟩⟩
      rcases List.mem_cons.mp hy with rfl | hy
      · exact hlt
      · rcases hx y hy with hd | ⟨hd, -⟩
        · exact BitVec.lt_trans hlt hd
        · exact hd ▸ hlt
    next hge =>
      refine List.pairwise_cons.mpr ⟨fun y hy => ?_, ih hxs fun y hy => hl y (List.mem_cons_of_mem _ hy)⟩
      rcases List.mem_cons.mp ((insertByDay_perm l xs).mem_iff.mp hy) with rfl | hy
      · have hle : x.claimDay < y.claimDay ∨ x.claimDay = y.claimDay := by bv_omega
        rcases hle with hd | hd
        · exact .inl hd
        · exact .inr ⟨hd, hl x List.mem_cons_self⟩
      · exact hx y hy

theorem foldl_insertByDay (ls acc : List Loan) (hacc : acc.Pairwise Loan.inOrder)
    (hls : ls.Pairwise fun a b => a.number ≤ b.number) (hle : ∀ x ∈ acc, ∀ l ∈ ls, x.number ≤ l.number) :
    (ls.foldl (fun acc l => insertByDay l acc) acc).Perm (acc ++ ls) ∧
      (ls.foldl (fun acc l => insertByDay l acc) acc).Pairwise Loan.inOrder := by
  induction ls generalizing acc with
  | nil => exact ⟨by rw [List.append_nil]; exact .refl _, hacc⟩
  | cons l ls ih =>
    rw [List.pairwise_cons] at hls
    obtain ⟨hperm, hpair⟩ := ih (insertByDay l acc)
      (insertByDay_inOrder hacc fun x hx => hle x hx l List.mem_cons_self) hls.2 fun x hx y hy => by
        rcases List.mem_cons.mp ((insertByDay_perm l acc).mem_iff.mp hx) with rfl | hx
        · exact hls.1 y hy
        · exact hle x hx y (List.mem_cons_of_mem _ hy)
    refine ⟨hperm.trans ?_, hpair⟩
    exact ((insertByDay_perm l acc).append_right ls).trans List.perm_middle.symm

/-- The loans of a kind in the order of their claim days. -/
theorem State.filter_loansByDay (h : s.tables.loans.Pairwise fun a b => a.number ≤ b.number) (p : Loan → Bool) :
    (s.loansByDay.filter p).Perm (s.tables.loans.filter p) ∧ (s.loansByDay.filter p).Pairwise Loan.inOrder := by
  obtain ⟨hperm, hpair⟩ := foldl_insertByDay s.tables.loans [] .nil h fun _ hx => absurd hx List.not_mem_nil
  exact ⟨hperm.filter p, hpair.filter p⟩

/-! ### The copy jobs -/

/-- The part whose job recovery makes (R117). -/
def Loan.wantsCopy (l : Loan) : Bool := l.cart.any fun c => c.path == .copy && c.status == .queued

/-- One loan's job in step 4 (R51). -/
def State.recoverJob (s : State) (l : Loan) : State :=
  s.createJob l.number l.work (s.plainEstimate ((s.validLen l.work).getD 0)).1
    (s.plainEstimate ((s.validLen l.work).getD 0)).2

theorem State.recoverJobs_eq : s.recoverJobs = (s.loansByDay.filter Loan.wantsCopy).foldl State.recoverJob s := by
  have : (fun l : Loan => (l.cart.map fun c => c.path == .copy && c.status == .queued).getD false) = Loan.wantsCopy :=
    funext fun l => getD_map_false _ _
  rw [State.recoverJobs, this]
  rfl

/-- The job of a loan whose title has this entry. -/
def State.recoveredJob (s : State) (l : Loan) (d : DirEntry) : Job :=
  ⟨l.number, l.work, d.start, d.len, s.cfg.program + s.cfg.erase, (d.len * (s.cfg.program + s.cfg.erase) + 999) / 1000,
    false⟩

theorem State.recoverJob_of_valid {l : Loan} {d : DirEntry} (hd : s.dir? l.work = some d) (hv : d.state = .valid) :
    s.recoverJob l = { s with copy := { s.copy with queue := s.copy.queue ++ [s.recoveredJob l d] } } := by
  rw [State.recoverJob, State.createJob_of_valid hd hv, State.validLen_of_valid hd hv]
  rfl

theorem State.createJob_of_not_valid {n : LoanNo} {w : Work} (h : ∀ d, s.dir? w = some d → d.state ≠ .valid) (m t : Nat) :
    s.createJob n w m t = s.titleVoidFailure n := by
  unfold State.createJob
  split
  next hd => exact absurd rfl (h _ hd)
  next => rfl

theorem State.titleVoidFailure_queued {l : Loan} {n : LoanNo} {a : Nat} (h : s.loan? n = some l)
    (hc : l.cart = some ⟨.copy, .queued, a⟩) : s.titleVoidFailure n = s.release n .titleVoid ⟨true, false⟩ := by
  rw [State.titleVoidFailure, h, Option.bind_some, hc]

/-- Where every title is VALID the jobs join the queue in the order of the loans. -/
theorem foldl_recoverJob (ls : List Loan) (s : State)
    (hvalid : ∀ l ∈ ls, ∃ d, s.dir? l.work = some d ∧ d.state = .valid) :
    ∃ js : List Job, ls.foldl State.recoverJob s = { s with copy := { s.copy with queue := s.copy.queue ++ js } } ∧
      List.Forall₂ (fun (l : Loan) (j : Job) => ∃ d, s.dir? l.work = some d ∧ j = s.recoveredJob l d) ls js := by
  induction ls generalizing s with
  | nil => exact ⟨[], by rw [List.append_nil]; rfl, .nil⟩
  | cons l ls ih =>
    obtain ⟨d, hd, hv⟩ := hvalid l List.mem_cons_self
    obtain ⟨js, hfold, hjs⟩ := ih (s.recoverJob l) fun y hy => by
      rw [State.recoverJob_of_valid hd hv]
      exact hvalid y (List.mem_cons_of_mem _ hy)
    rw [State.recoverJob_of_valid hd hv] at hfold hjs
    refine ⟨s.recoveredJob l d :: js, ?_, .cons ⟨d, hd, rfl⟩ hjs⟩
    rw [List.foldl_cons, State.recoverJob_of_valid hd hv, hfold]
    simp only [List.append_assoc, List.singleton_append]

/-- Settles O16. -/
theorem recoveryRebuildsBookAndJobs : Obligations.RecoveryRebuildsBookAndJobs := by
  intro s hnumbers inOrder open' copies
  obtain ⟨hperm, hpair⟩ := State.filter_loansByDay hnumbers Loan.wantsCopy
  refine ⟨?_, fun hvalid => ?_, fun l e a hone hd hs hl hc he hentry u hu => ?_⟩
  · obtain ⟨hperm, hpair⟩ := State.filter_loansByDay hnumbers open'
    exact ⟨_, hperm, hpair, rfl⟩
  · obtain ⟨js, hfold, hjs⟩ := foldl_recoverJob (s.loansByDay.filter Loan.wantsCopy) s fun l hl =>
      hvalid l (hperm.mem_iff.mp hl)
    exact ⟨_, hperm, hpair, js, State.recoverJobs_eq.trans hfold, hjs⟩
  · have hcopies : s.loansByDay.filter Loan.wantsCopy = [l] := List.perm_singleton.mp (hone ▸ hperm)
    rw [State.recoverJobs_eq, hcopies, List.foldl_cons, List.foldl_nil, State.recoverJob,
      State.createJob_of_not_valid hd, State.titleVoidFailure_queued hl hc]
    exact State.release_braille .titleVoid hl hs hu ⟨he, hentry⟩

end Sys2Proof.Machine
end

section
/-! PROOFS. The end of start (R12, R62, R73, R87, R168, R180): O14. -/

namespace Sys2Proof.Machine

/-! ### What the Tray Unit's offers and a recovery's releases leave alone -/

/-- The sockets, the day scan and the day number are as they were. -/
structure FloorKept (a s : State) : Prop where
  sockets : s.sockets = a.sockets
  scan : s.scan = a.scan
  day : s.tables.day = a.tables.day

section
variable {a s : State}

theorem FloorKept.refl (s : State) : FloorKept s s := ⟨rfl, rfl, rfl⟩

theorem FloorKept.congr {t : State} (h : FloorKept a s) (hsockets : t.sockets = s.sockets) (hscan : t.scan = s.scan)
    (hday : t.tables.day = s.tables.day) : FloorKept a t :=
  ⟨hsockets.trans h.sockets, hscan.trans h.scan, hday.trans h.day⟩

theorem FloorKept.raise (h : FloorKept a s) (x : Notice) : FloorKept a (s.raise x) := by
  rw [State.raise_eq]
  exact h.congr rfl rfl rfl

theorem FloorKept.storeTray (h : FloorKept a s) (r : Fin 16) (x : Tray) : FloorKept a (s.storeTray r x) := by
  unfold State.storeTray
  split <;> exact h.congr rfl rfl rfl

theorem FloorKept.offerPaced (h : FloorKept a s) (o : PacedOwner) (p : Payload) : FloorKept a (s.offerPaced o p).1 := by
  by_cases hroom : s.Room o
  · rw [State.offerPaced_of_room p hroom]
    exact h.congr rfl rfl rfl
  · rw [State.offerPaced_of_no_room p hroom]
    exact h.congr rfl rfl rfl

theorem FloorKept.offerPaced_eq {o : PacedOwner} {p : Payload} {t : State} {b : Bool} (h : FloorKept a s)
    (ht : s.offerPaced o p = (t, b)) : FloorKept a t := by
  have := h.offerPaced o p
  rwa [ht] at this

theorem FloorKept.releaseSent (h : FloorKept a s) (e : Entry) : FloorKept a (s.releaseSent e) := by
  unfold State.releaseSent
  dsimp only
  split <;> exact h.congr rfl rfl rfl

theorem FloorKept.bookOffer (h : FloorKept a s) (k : Nat) : FloorKept a (s.bookOffer k) := by
  induction k generalizing s with
  | zero => exact h
  | succ k ih =>
    unfold State.bookOffer
    split
    · exact h
    · split
      next ht => exact ih ((h.offerPaced_eq ht).releaseSent _)
      next ht => exact h.offerPaced_eq ht

theorem FloorKept.ownRelease (h : FloorKept a s) (e : Entry) (why : Reason) : FloorKept a (s.ownRelease e why) := by
  unfold State.ownRelease
  dsimp only
  split
  · refine .bookOffer ?_ 17
    exact h.congr rfl rfl rfl
  · exact h.congr rfl rfl rfl

theorem FloorKept.removeFromTray (h : FloorKept a s) (l : Loan) : FloorKept a (s.removeFromTray l) := by
  unfold State.removeFromTray
  split
  · exact h
  · dsimp only
    refine .raise ?_ _
    split
    · exact h.congr rfl rfl rfl
    · refine .storeTray ?_ _ _
      exact h.congr rfl rfl rfl

theorem FloorKept.unwindBraille (h : FloorKept a s) (b : BraillePart) : FloorKept a (s.unwindBraille b) := by
  unfold State.unwindBraille
  split
  · exact h.congr rfl rfl rfl
  · exact .congr (.raise (h.congr (t := s.modSet b.set SetRec.reshelve) rfl rfl rfl) (.reshelve b.set)) rfl rfl rfl
  · exact h

/-- Where the cartridge row is passed over, an unwinding touches no socket. -/
theorem FloorKept.unwind_skipCart (h : FloorKept a s) (l : Loan) : FloorKept a (s.unwind l ⟨true, false⟩) := by
  rw [State.unwind_skipCart]
  have htray : FloorKept a (s.unwindTray l) := by
    unfold State.unwindTray
    split
    · exact h.removeFromTray l
    · exact h
  have hset : FloorKept a ((s.unwindTray l).unwindBraille? l) := by
    unfold State.unwindBraille?
    cases l.braille with
    | none => exact htray
    | some b => exact htray.unwindBraille b
  exact hset.congr rfl rfl rfl

theorem FloorKept.release_skipCart (h : FloorKept a s) (n : LoanNo) (why : Reason) :
    FloorKept a (s.release n why ⟨true, false⟩) := by
  unfold State.release
  split
  · exact h
  · split
    · dsimp only
      split
      · exact (h.unwind_skipCart _).ownRelease _ _
      · exact h.unwind_skipCart _
    · exact h

theorem FloorKept.recoverJob (h : FloorKept a s) (l : Loan) : FloorKept a (s.recoverJob l) := by
  unfold State.recoverJob State.createJob
  split
  · exact h.congr rfl rfl rfl
  · unfold State.titleVoidFailure
    split
    · exact h.release_skipCart _ _
    · exact h.release_skipCart _ _
    · exact h

theorem FloorKept.shipLoan (h : FloorKept a s) (r : Fin 16) (x : Tray) (l : Loan) : FloorKept a (s.shipLoan r x l) := by
  unfold State.shipLoan
  dsimp only
  refine .storeTray ?_ _ _
  split <;> exact h.congr rfl rfl rfl

theorem FloorKept.trayOffer (h : FloorKept a s) (k : Nat) : FloorKept a (s.trayOffer k) := by
  induction k generalizing s with
  | zero => exact h
  | succ k ih =>
    unfold State.trayOffer
    split
    · exact h
    · split
      · exact h
      · split
        next ht => exact ih ((h.offerPaced_eq ht).shipLoan _ _ _)
        next ht => exact h.offerPaced_eq ht

theorem FloorKept.foldl {α : Type} {f : State → α → State} (hf : ∀ t x, FloorKept a t → FloorKept a (f t x)) (xs : List α)
    (h : FloorKept a s) : FloorKept a (xs.foldl f s) := by
  induction xs generalizing s with
  | nil => exact h
  | cons x xs ih => exact ih (hf s x h)

/-- The state before step 4 of recovery, whose releases alone reach the line. -/
def State.recoveredBook (s : State) : State := s.recoverRegister.recoverDirectory.recoverBook

theorem State.recover_eq : s.recover = s.recoveredBook.recoverJobs.recoverTrays := rfl

theorem FloorKept.recover : FloorKept s.recoveredBook s.recover := by
  rw [State.recover_eq, State.recoverJobs_eq]
  refine .foldl (fun t r h => ?_) _ (.foldl (fun t l h => h.recoverJob l) _ (.refl _))
  rw [State.recoverTray_eq]
  exact h.congr rfl rfl rfl

theorem Within.recover : Within s.recoveredBook s.recover := by
  rw [State.recover_eq, State.recoverJobs_eq]
  refine .foldl (fun t r h => ?_) _ (.foldl (fun t l h => ?_) _ (.refl _))
  · rw [State.recoverTray_eq]
    exact h.tables _
  · exact h.createJob _ _ _ _

end

/-! ### An offer's frames join behind those queued -/

section
variable {s : State} {q : Fin 16} {x : Tray} {n : LoanNo} {l : Loan}

theorem State.offerPaced_tx (o : PacedOwner) (p : Payload) : ∃ more, (s.offerPaced o p).1.line.tx = s.line.tx ++ more := by
  by_cases hroom : s.Room o
  · exact ⟨_, by rw [State.offerPaced_of_room p hroom]⟩
  · exact ⟨[], by rw [State.offerPaced_of_no_room p hroom, List.append_nil]⟩

theorem State.shipLoan_line : (s.shipLoan q x l).line = s.line := by
  unfold State.shipLoan State.storeTray
  dsimp only
  split <;> split <;> rfl

theorem State.trayOffer_tx (k : Nat) : ∃ more, (s.trayOffer k).line.tx = s.line.tx ++ more := by
  induction k generalizing s with
  | zero => exact ⟨[], (List.append_nil _).symm⟩
  | succ k ih =>
    unfold State.trayOffer
    split
    · exact ⟨[], (List.append_nil _).symm⟩
    · split
      · exact ⟨[], (List.append_nil _).symm⟩
      next r y m _ =>
        obtain ⟨more, hmore⟩ := State.offerPaced_tx (s := s) .tray (s.shippedFrame m)
        split
        next t ht =>
          rw [ht] at hmore
          obtain ⟨rest, hrest⟩ := ih (s := t.shipLoan r y m)
          exact ⟨more ++ rest, by rw [hrest, State.shipLoan_line, hmore, List.append_assoc]⟩
        next t ht =>
          rw [ht] at hmore
          exact ⟨more, hmore⟩

theorem State.trayOffer_refused {k : Nat} (hlisten : s.line.state ≠ .listen) (h : s.nextToShip = some (q, x, l))
    (hroom : ¬ s.Room .tray) :
    s.trayOffer (k + 1) =
      { s with
        line :=
          { s.line with
            pacing := if .tray ∈ s.line.pacing then s.line.pacing else s.line.pacing ++ [.tray] } } := by
  rw [State.trayOffer, if_neg hlisten, h]
  dsimp only
  rw [State.offerPaced_of_no_room _ hroom]

end

/-! ### The state that the Tray Unit's offer meets -/

section
variable {s : State}

/-- What the end of start makes of a socket. -/
def State.seatedAt (s : State) (n : Idx8) : Socket :=
  if (s.socket n).present ∧ s.role n ≠ .off then
    { s.socket n with
      state := .identifying none, view := none, op := some (.awaitReady (s.time.ms + 3000)), hold := none }
  else s.socket n

def State.withSockets (s : State) (v : Vector Socket 8) : State := { s with sockets := v }

theorem State.seat_eq (n : Idx8) :
    (if (s.socket n).present && s.role n != .off then s.startIdentify n else s) = s.setSocket n (s.seatedAt n) := by
  unfold State.seatedAt
  by_cases h : (s.socket n).present ∧ s.role n ≠ .off
  · rw [if_pos (by simpa using h), if_pos h]
    rfl
  · rw [if_neg (by simpa using h), if_neg h, State.setSocket, State.socket]
    simp

theorem State.seatedInsertions_eq : s.seatedInsertions = s.withSockets (Vector.ofFn s.seatedAt) := by
  suffices hgen : ∀ (ns : List Idx8) (t : State), ns.Nodup →
      ns.foldl (fun s n => if (s.socket n).present && s.role n != .off then s.startIdentify n else s) t =
        t.withSockets (Vector.ofFn fun q => if q ∈ ns then t.seatedAt q else t.socket q) by
    have hmem (q : Idx8) : q ∈ allSockets := List.mem_finRange q
    have hfold := hgen allSockets s (List.nodup_finRange 8)
    simp only [hmem, if_true] at hfold
    exact hfold
  intro ns
  induction ns with
  | nil =>
    intro t _
    have : (Vector.ofFn fun q => if q ∈ ([] : List Idx8) then t.seatedAt q else t.socket q) = t.sockets := by
      ext i hi
      simp [State.socket]
    rw [this]
    rfl
  | cons n ns ih =>
    intro t hnd
    rw [List.nodup_cons] at hnd
    rw [List.foldl_cons, State.seat_eq, ih _ hnd.2]
    refine congrArg t.withSockets (congrArg Vector.ofFn (funext fun q => ?_))
    have hsocket := State.socket_setSocket (s := t) (n := n) (t.seatedAt n) q
    have hrole : (t.setSocket n (t.seatedAt n)).role q = t.role q := rfl
    by_cases hq : q = n
    · subst hq
      rw [if_neg hnd.1, hsocket, if_pos rfl, if_pos List.mem_cons_self]
    · rw [if_neg hq] at hsocket
      have hseated : (t.setSocket n (t.seatedAt n)).seatedAt q = t.seatedAt q := by
        rw [State.seatedAt, hsocket, hrole]
        rfl
      rw [hseated, hsocket]
      simp [hq]

/-- The station once the line and the bench rate are set (R12, R168). -/
def State.linedUp (s : State) : State :=
  { s with
    start := { s.start with phase := .running }
    line := { s.line with state := if s.start.invalid = none then .joining else .listen, following := false }
    bench :=
      { s.bench with
        rate := if s.start.invalid = none then s.cfg.benchRate else 9600
        bad := s.bench.bad ||
          (decide (s.start.invalid = none ∧ s.cfg.benchRate ≠ 9600) && !s.bench.buffer.isEmpty) } }

theorem State.linedUp_eq (hrate : s.bench.rate = 9600) : s.startRunning.lineStarts.setBenchRate = s.linedUp := by
  unfold State.setBenchRate State.lineStarts State.startRunning State.linedUp
  rw [← hrate]
  dsimp only
  cases s.start.invalid with
  | some c => simp
  | none => by_cases hr : s.cfg.benchRate = s.bench.rate <;> simp [hr]

theorem State.startScan_eq (h : s.scan = ⟨false, none, false, none⟩) :
    s.startScan = { s with scan := ⟨decide (s.tables.day ≠ 0), none, false, none⟩ } := by
  rw [State.startScan]
  by_cases hday : s.tables.day = 0
  · rw [if_pos (beq_iff_eq.mpr hday), decide_eq_false (not_not.mpr hday), ← h]
  · rw [if_neg (mt beq_iff_eq.mp hday), decide_eq_true hday, State.requestScan_eq, h]
    rfl

/-- The state that the Tray Unit's offer meets at the end of start (R180). -/
def State.started (s : State) : State :=
  { s.linedUp with
    sockets := Vector.ofFn s.linedUp.seatedAt, scan := ⟨decide (s.tables.day ≠ 0), none, false, none⟩ }

/-- The Tray Unit's offer comes last (R180). -/
theorem State.endOfStart_eq (hrate : s.bench.rate = 9600) (hscan : s.scan = ⟨false, none, false, none⟩) :
    s.endOfStart = s.started.trayOffer 17 := by
  rw [State.endOfStart, State.linedUp_eq hrate, State.seatedInsertions_eq, State.startScan_eq]
  · rfl
  · exact hscan

theorem State.seatedAt_linedUp (n : Idx8) :
    s.linedUp.seatedAt n =
      if s.start.invalid = none ∧ (s.socket n).present = true ∧ s.cfg.roles[n] ≠ .off then
        { s.socket n with
          state := .identifying none, view := none, op := some (.awaitReady (s.time.ms + 3000)), hold := none }
      else s.socket n := by
  rw [State.seatedAt]
  refine if_congr ?_ rfl rfl
  rw [State.role_ne_off_iff]
  have hlisten : (if s.start.invalid = none then LineState.joining else .listen) ≠ .listen ↔ s.start.invalid = none := by
    cases s.start.invalid <;> simp
  exact ⟨fun ⟨hp, hl, hr⟩ => ⟨hlisten.mp hl, hp, hr⟩, fun ⟨hv, hp, hr⟩ => ⟨hp, hlisten.mpr hv, hr⟩⟩

end

/-- Settles O14. -/
theorem recoveryEndsStart : Obligations.RecoveryEndsStart := by
  intro s
  refine ⟨rfl, ?_⟩
  intro hphase hrate r valid identifies t
  obtain ⟨-, htime, hstart, hcfg, hnv, hline, hbench, -⟩ : Within s.recoveredBook r := Within.recover
  obtain ⟨hsockets, hscan, hday⟩ : FloorKept s.recoveredBook r := FloorKept.recover
  have hstart : r.start = s.start := hstart
  have hcfg : r.cfg = s.cfg := hcfg
  have hday : r.tables.day = s.tables.day := hday
  have hsocketOf (n : Idx8) : r.socket n = s.socket n := by rw [State.socket, hsockets]; rfl
  have ht : t = r.started.trayOffer 17 := State.endOfStart_eq (by rw [hbench]; exact hrate) hscan
  obtain ⟨-, htime', hstart', hcfg', hnv', hline', hbench', -⟩ : Within r.started t := ht ▸ (Within.refl r.started).trayOffer 17
  obtain ⟨hsockets', hscan', -⟩ : FloorKept r.started t := ht ▸ (FloorKept.refl r.started).trayOffer 17
  have hexec : exec .recovery s = .next (finish .completed t) := congrArg Host.Outcome.next (if_pos hphase)
  have hrx : r.line.rx = s.line.rx := by rw [hline]; rfl
  have htiming : r.line.timing = s.line.timing := by rw [hline]; rfl
  clear_value t r
  refine ⟨.of_eq hexec, ?_, ?_, ?_, ?_, ?_, ?_, ?_, ?_, ?_, ?_, fun n => ?_, ?_⟩
  · rw [hstart', ← hstart]; rfl
  · rw [htime']; exact htime
  · rw [hcfg']; exact hcfg
  · rw [hnv']; exact hnv
  · rw [hline']
    exact if_congr (by rw [hstart]) rfl rfl
  · rw [hline']; rfl
  · rw [hline', ← hrx]; rfl
  · rw [hline', ← htiming]; rfl
  · rw [hbench', ← hcfg]
    exact if_congr (by rw [hstart]) rfl rfl
  · rw [hscan', ← hday]; rfl
  · have hsocket : t.socket n = r.linedUp.seatedAt n := by
      rw [State.socket, hsockets']
      exact Vector.getElem_ofFn n.isLt
    rw [hsocket, State.seatedAt_linedUp, hstart, hsocketOf, hcfg, htime]
    rfl
  · intro started room
    have hstarted : started = r.started := by
      have hlinked : started = { started with sockets := r.started.sockets } := by rw [← hsockets']
      rw [hlinked, State.started, State.linedUp, hstart, hcfg, hday]
    refine ⟨fun h => ?_, fun q line x n rest l hv hq hx hn hl => ?_⟩
    · rw [hstarted, ht]
      rcases h with h | h
      · rw [State.trayOffer, if_pos]
        exact if_neg (hstart ▸ h)
      · exact State.trayOffer_nil 17 (State.nextToShip_nil h)
    · intro day due serial frame
      have hnumber := State.loan?_number hl
      have hlisten : r.started.line.state ≠ .listen := by
        have : r.started.line.state = .joining := if_pos (hstart ▸ hv)
        rw [this]
        exact nofun
      have hnext : r.started.nextToShip = some (q, x, l) := State.nextToShip_eq (s := r.started) hq hx hn hl
      have hshipped : frame = ⟨⟨0, r.started.start.own.getD 0, r.started.shippedFrame l⟩, false, false⟩ := by
        have hperiod : r.started.cfg.loanPeriod = s.cfg.loanPeriod := congrArg Cfg.loanPeriod hcfg
        rw [State.shippedFrame, hnumber, show r.started.tables.day = s.tables.day from hday, hperiod,
          show r.started.start.own = s.start.own by rw [← hstart]; rfl]
        rfl
      refine ⟨fun hroom => ?_, fun hroom => ?_, fun e hroom hline hrest hx' he => ?_⟩
      · rw [hstarted, ht]
        exact State.trayOffer_refused hlisten hnext hroom
      · rw [ht, State.trayOffer_accepted hlisten hnext hroom, hshipped]
        obtain ⟨more, hmore⟩ := State.trayOffer_tx (s := State.shipLoan
          { r.started with
            line :=
              { r.started.line with
                tx := r.started.line.tx ++ [⟨⟨0, r.started.start.own.getD 0, r.started.shippedFrame l⟩, false, false⟩]
                pacing := r.started.line.pacing.filter fun y => y != .tray } } q x l) 16
        refine ⟨more, hmore.trans ?_⟩
        rw [State.shipLoan_line, List.append_assoc]
        rfl
      · have hempty : (r.started.tables.dispatchLine.filter fun p => p != q) = [] := by
          rw [show r.started.tables.dispatchLine = [q] from hline ▸ hq]
          simp
        rw [hstarted, ht, State.trayOffer_accepted hlisten hnext hroom, State.shipLoan_last (e := e) hnumber (hrest ▸ hn) hx',
          State.trayOffer_nil, hempty, hshipped]
        · have hdue : due = dueDayOf r.tables.day r.cfg.loanPeriod := by
            rw [hday, hcfg]
            rfl
          rw [hdue, show day = r.tables.day from hday.symm]
          rfl
        · exact State.nextToShip_nil hempty
        · exact he

end Sys2Proof.Machine
end

section
/-! PROOFS. The completion of a BID: a win, and a BID that completes with a withdrawal pending (R26, R50 to R56): O26, O27. -/

namespace Sys2Proof.Machine

/-! ### The state after a frame that succeeded -/

/-- The station once its frame has left the transmit queue. -/
def State.sentOff (s : State) (tx : List TxEntry) : State :=
  { s with line := { s.line with tx := tx, failCount := 0, driving := [] } }

/-- No owner waits for room, or there is none for an owner. -/
def State.NoRoomEvent (s : State) : Prop := s.line.pacing = [] ∨ 12 < s.line.tx.length

section
variable {a s u : State}

theorem State.NoRoomEvent.roomEvent (h : s.NoRoomEvent) (k : Nat) : s.roomEvent k = s :=
  h.elim (State.roomEvent_of_empty · k) (State.roomEvent_of_full · k)

theorem State.NoRoomEvent.congr {t : State} (h : s.NoRoomEvent) (hline : t.line = s.line) : t.NoRoomEvent := by
  rw [State.NoRoomEvent, hline]
  exact h

/-- An own release that meets no owner waiting, or no room, leaves it so. -/
theorem OwnReleased.noRoomEvent {e : Entry} {why : Reason} (h : OwnReleased a e why u) (ha : a.NoRoomEvent) :
    u.NoRoomEvent := by
  rcases h with ⟨-, rfl⟩ | ⟨-, hroom, rfl⟩ | ⟨-, hroom, rfl⟩
  · exact ha
  · refine .inl ?_
    rcases ha with hpacing | hfull
    · exact congrArg (List.filter fun o => o != .book) hpacing
    · exact absurd hroom.1 (Nat.not_le.mpr hfull)
  · refine .inr ?_
    rcases ha with hpacing | hfull
    · exact Nat.not_le.mp fun hlen => hroom ⟨hlen, .inl hpacing⟩
    · exact hfull

end

section
variable {s : State} {pre post : List TxEntry} {x : TxEntry} {wave : List Bool} {w : RecordWrite} {o : OrderNo} {path : Path}

/-- The completion of a BID after which no room event follows. -/
theorem ends_of_bidCompleted {u : State} (htx : s.line.tx = pre ++ x :: post) (hpre : ∀ y ∈ pre, y.inTransmission = false)
    (hx : x.inTransmission = true) (hout : s.sendOutcome wave = some .success) (hbid : x.frame.payload = .bid o path)
    (hu : (s.sentOff (pre ++ post)).bidCompleted o = u) (hroom : u.NoRoomEvent) :
    Ends (exec (.transmitSuccess ⟨wave, w⟩) s) w u := by
  refine .of_eq ?_
  rw [exec_transmitSuccess htx hpre hx hout, hbid]
  refine congrArg (fun t : State => Host.Outcome.next (finish w t)) ?_
  exact (congrArg (State.roomEvent · 5) hu).trans (hroom.roomEvent 5)

end

/-- Settles O26. -/
theorem completedBidNotWon : Obligations.CompletedBidNotWon := by
  intro s pre post x wave w o path e p cause htx hpre hx hout hbid hpacing he hq t
  have hundo : (s.sentOff (pre ++ post)).undoPledges o e.work p = t := State.undoPledges_eq _ _ _ _
  have hroom : t.NoRoomEvent := hpacing
  have hcompleted {u : State} (hu : u.NoRoomEvent) (h : (s.sentOff (pre ++ post)).bidCompleted o = u) :
      Ends (exec (.transmitSuccess ⟨wave, w⟩) s) w u := ends_of_bidCompleted htx hpre hx hout hbid h hu
  have hentry : (s.sentOff (pre ++ post)).entry? o = some e := he
  have horder := State.entry?_order he
  refine ⟨fun y hy => hcompleted ?_ ?_, fun hr => hcompleted ?_ ?_, fun hv => ?_⟩
  · exact hroom
  · rw [State.bidCompleted, hentry]
    dsimp only
    rw [hq, hy]
    exact congrArg (State.setEntryState · o (.takenOther y)) hundo
  · exact hroom
  · rw [State.bidCompleted, hentry]
    dsimp only
    rw [hq, hr]
    exact congrArg (State.dropEntry · o) hundo
  · have hreleased : OwnReleased t e .titleVoid (t.ownRelease e .titleVoid) :=
      State.ownRelease_released .titleVoid (by rw [horder]; exact he)
    refine ⟨_, hreleased, hcompleted (hreleased.noRoomEvent hroom) ?_⟩
    rw [State.bidCompleted, hentry]
    dsimp only
    rw [hq, hv]
    exact congrArg (State.ownRelease · e .titleVoid) hundo

/-! ### The record of a win (R53, R55) -/

section
variable {l : Loan} {ls : List Loan}

theorem find?_insertLoan (h : ∀ x ∈ ls, x.number ≠ l.number) :
    (insertLoan l ls).find? (fun x => x.number == l.number) = some l := by
  induction ls with
  | nil => simp [insertLoan]
  | cons x xs ih =>
    have hx := h x List.mem_cons_self
    rw [insertLoan]
    split
    · simp
    · rw [List.find?_cons_of_neg (by simpa using hx)]
      exact ih fun y hy => h y (List.mem_cons_of_mem _ hy)

theorem filter_insertLoan (h : ∀ x ∈ ls, x.number ≠ l.number) :
    (insertLoan l ls).filter (fun x => x.number != l.number) = ls := by
  induction ls with
  | nil => simp [insertLoan]
  | cons x xs ih =>
    have hx := h x List.mem_cons_self
    have hxs : ∀ y ∈ xs, y.number ≠ l.number := fun y hy => h y (List.mem_cons_of_mem _ hy)
    rw [insertLoan]
    split
    · rw [List.filter_cons_of_neg (by simp), List.filter_eq_self]
      intro y hy
      exact bne_iff_ne.mpr (h y hy)
    · rw [List.filter_cons_of_pos (by simpa using hx), ih hxs]

end

section
variable {s : State} {e : Entry} {p : Pledge}

/-- The number that a win takes (R53). -/
def State.wonNumber (s : State) : LoanNo := makeNumber s.station (s.freeSeq 32769 s.tables.loanSeq)

/-- The station once a won loan has its record and its entry names it (R26, R55). -/
def State.claims (s : State) (e : Entry) (p : Pledge) : State :=
  { s with
    tables :=
      { s.tables with
        loans := insertLoan (s.wonLoan e p s.wonNumber) s.tables.loans
        loanSeq := seqAfter (s.freeSeq 32769 s.tables.loanSeq) }
    book := (s.setEntryState e.order (.takenSelf s.wonNumber)).book }

theorem State.freeSeq_congr {t : State} (hloans : t.tables.loans = s.tables.loans) (hstart : t.start = s.start) (k : Nat)
    (q : LoanSeq) : t.freeSeq k q = s.freeSeq k q := by
  have hstation : t.station = s.station := congrArg (fun x => x.own.getD 0) hstart
  have hloan (n : LoanNo) : t.loan? n = s.loan? n := congrArg (List.find? _) hloans
  induction k generalizing q with
  | zero => rfl
  | succ k ih => rw [State.freeSeq, State.freeSeq, hstation, hloan, ih]

theorem State.win_eq : s.win e p = ((s.claims e p).startCart e p s.wonNumber).startBraille e s.wonNumber := rfl

theorem State.number_ne (h : s.loan? n = none) : ∀ x ∈ s.tables.loans, x.number ≠ n := by
  intro x hx
  simpa using List.find?_eq_none.mp h x hx

theorem State.loan?_claims (h : s.loan? s.wonNumber = none) :
    (s.claims e p).loan? s.wonNumber = some (s.wonLoan e p s.wonNumber) :=
  find?_insertLoan (l := s.wonLoan e p s.wonNumber) (State.number_ne h)

/-- The braille part of a won loan starts with its PICK-SET notice (R56). -/
theorem State.startBraille_of_both {n : LoanNo} {l : Loan} (h : s.loan? n = some l) :
    s.startBraille e n =
      if e.format.hasBraille then s.raise (.pickSet n e.work (((s.set? e.work).map (·.volumes)).getD 0)) else s := by
  rw [State.startBraille, h]
  simp

/-- A release that finds the entry already changed by its win is a release of the entry as it was (R33). -/
theorem OwnReleased.of_setEntryState {a u : State} {st : EntryState} {why : Reason}
    (h : OwnReleased (a.setEntryState e.order st) { e with state := st } why u) : OwnReleased a e why u := by
  have hchanged (owed : Option Reason) := changed_twice (o := e.order) (f := fun y => { y with state := st })
    (g := fun y =>
      { y with
        state := .unbid, excluded := true, owed := owed
        releaseCount := if y.releaseCount = 3 then 3 else y.releaseCount + 1 }) (fun _ => rfl) a.book.entries
  have hfilter := filter_changed (o := e.order) (f := fun y => { y with state := st }) (fun _ => rfl) a.book.entries
  rcases h with ⟨howed, rfl⟩ | ⟨howed, hroom, rfl⟩ | ⟨howed, hroom, rfl⟩
  · exact .inl ⟨howed, congrArg (fun es : List Entry => { a with book := ⟨es, (a.book.owed.filter fun o => o != e.order) ++ [e.order]⟩ }) (hchanged (some why))⟩
  · refine .inr (.inl ⟨howed, hroom, ?_⟩)
    exact congrArg₂ (fun kept es : List Entry =>
      ({ a with
        line :=
          { a.line with
            tx := a.line.tx ++
              [(⟨⟨0, a.start.own.getD 0,
                .release e.order (if e.releaseCount = 3 then 3 else e.releaseCount + 1) why⟩, false, false⟩ : TxEntry)]
            pacing := a.line.pacing.filter fun o => o != PacedOwner.book }
        book := ⟨if (if e.releaseCount = 3 then 3 else e.releaseCount + 1) = 3 then kept else es, []⟩ } : State))
      hfilter (hchanged none)
  · refine .inr (.inr ⟨howed, hroom, ?_⟩)
    exact congrArg (fun es : List Entry =>
      ({ a with
        line :=
          { a.line with
            pacing := if PacedOwner.book ∈ a.line.pacing then a.line.pacing else a.line.pacing ++ [PacedOwner.book] }
        book := ⟨es, [e.order]⟩ } : State)) (hchanged (some why))

/-- The book's entry for the loan of a win. -/
theorem State.bookHolds_claims (he : s.entry? e.order = some e) (hnew : ∀ y ∈ s.book.entries, y.state ≠ .takenSelf s.wonNumber) :
    (s.claims e p).BookHolds s.wonNumber { e with state := .takenSelf s.wonNumber } := by
  constructor
  · have hfind : s.book.entries.find? ((fun y : Entry => y.state == .takenSelf s.wonNumber) ∘ fun y : Entry =>
        if y.order = e.order then { y with state := .takenSelf s.wonNumber } else y) = some e := by
      rw [← he]
      refine List.find?_congr fun y hy => ?_
      by_cases ho : y.order = e.order
      · simp [ho]
      · simp [ho, hnew y hy]
    exact (List.find?_map ..).trans (by rw [hfind]; simp)
  · exact State.entry?_modEntry (f := fun y => { y with state := .takenSelf s.wonNumber }) he fun _ => rfl

end

/-- Settles O27. -/
theorem winCreatesLoan : Obligations.WinCreatesLoan := by
  intro s pre post x wave w o path e p q htx hpre hx hout hbid hpacing he hq hnone seq n hn hnew volumes loan won braille
    units picks
  obtain ⟨t, ht⟩ : ∃ t, t = s.sentOff (pre ++ post) := ⟨_, rfl⟩
  have hseq : t.freeSeq 32769 t.tables.loanSeq = seq := by
    rw [ht]
    exact State.freeSeq_congr (s := s) (t := s.sentOff (pre ++ post)) rfl rfl 32769 s.tables.loanSeq
  have hnumber : t.wonNumber = n := by
    rw [State.wonNumber, hseq, ht]
    rfl
  have hroom : (t.claims e p).NoRoomEvent := by
    rw [ht]
    exact hpacing
  have hentry : t.entry? o = some e := by
    rw [ht]
    exact he
  have hwin : t.bidCompleted o = ((t.claims e p).startCart e p n).startBraille e n := by
    rw [State.bidCompleted, hentry]
    dsimp only
    rw [hq, ← hnumber]
    rcases hnone with rfl | rfl
    · exact State.win_eq
    · exact State.win_eq
  have hwins {u : State} (h : ((t.claims e p).startCart e p n).startBraille e n = u) (hu : u.NoRoomEvent) :
      Ends (exec (.transmitSuccess ⟨wave, w⟩) s) w u :=
    ends_of_bidCompleted htx hpre hx hout hbid (ht ▸ hwin.trans h) hu
  have hloan : (t.claims e p).loan? n = some (t.wonLoan e p n) := by
    rw [← hnumber]
    refine State.loan?_claims ?_
    rw [hnumber, ht]
    exact hn
  have hclaims {cart : Option CartPart} {part : Option BraillePart} {size : Nat}
      (hcart : (if e.format.hasCartridge then some ⟨p.path.cartPath, .queued, 0⟩ else none) = cart)
      (hpart : (if e.format.hasBraille then some ⟨e.work, .pledged⟩ else none) = part)
      (hsize : s.mailUnitsOf e.work e.format = size) : t.claims e p = won (loan cart part size) := by
    subst ht hcart hpart hsize
    rw [State.claims, hnumber, hseq]
    rfl
  have hpicks {u : State} (hf : e.format ≠ .braille) (hu : u.loan? n = some (t.wonLoan e p n)) (hset : u.set? e.work = s.set? e.work) :
      u.startBraille e n = picks u := by
    rw [State.startBraille_of_both hu, hset]
    exact if_congr (by cases hfmt : e.format <;> simp_all [Format.hasBraille]) rfl rfl
  have hpicked {u : State} (hu : u.NoRoomEvent) : (picks u).NoRoomEvent := by
    by_cases hf : e.format = .both
    · have : picks u = _ := if_pos hf
      rw [this, State.raise_eq]
      exact hu
    · have : picks u = u := if_neg hf
      rw [this]
      exact hu
  have hcartridge {path : CartPath} (hf : e.format ≠ .braille) (hp : p.path.cartPath = path) :
      t.claims e p = won (loan (some ⟨path, .queued, 0⟩) braille units) := by
    refine hclaims ?_ ?_ ?_
    · rw [hp]
      exact if_pos (by cases hfmt : e.format <;> simp_all [Format.hasCartridge])
    · exact if_congr (by cases hfmt : e.format <;> simp_all [Format.hasBraille]) rfl rfl
    · cases hfmt : e.format <;> simp_all [State.mailUnitsOf, Format.hasCartridge, Format.hasBraille, units, volumes]
  refine ⟨fun d hf hp hd hv => ?_, fun k hf hp hk => ?_, fun hf hp => ?_, fun hf hp hd => ?_⟩
  · intro t'
    have hjob : (t.claims e p).startCart e p n =
        { t.claims e p with
          copy :=
            { s.copy with queue := s.copy.queue ++ [⟨n, e.work, d.start, d.len, p.blockMs, p.baseTime, false⟩] } } := by
      rw [State.startCart, hp]
      dsimp only
      rw [State.createJob_of_valid (d := d), ht]
      · rfl
      · rw [ht]
        exact hd
      · exact hv
    have hend := hpicks (u := { t.claims e p with
      copy := { s.copy with queue := s.copy.queue ++ [⟨n, e.work, d.start, d.len, p.blockMs, p.baseTime, false⟩] } }) hf hloan
        (by rw [ht]; rfl)
    refine hwins ?_ (hpicked ?_)
    · rw [hjob, hend, hcartridge hf (path := .copy) (by rw [hp]; rfl)]
    · exact hpacing
  · have hissued : (t.claims e p).startCart e p n =
        ((t.claims e p).modStock k fun r => { r with state := .issuing n }).raise (.fetch n k ((s.stock? k).bind (·.shelf))) := by
      rw [State.startCart, hp]
      dsimp only
      rw [hk, ht]
      rfl
    have hend := hpicks (u := ((t.claims e p).modStock k fun r => { r with state := .issuing n }).raise
      (.fetch n k ((s.stock? k).bind (·.shelf)))) hf (by rw [State.raise_eq]; exact hloan) (by rw [State.raise_eq, ht]; rfl)
    refine hwins ?_ (hpicked ?_)
    · rw [hissued, hend, hcartridge hf (path := .reissue) (by rw [hp]; rfl)]
    · rw [State.raise_eq]
      exact hpacing
  · have hpart : t.claims e p = won (loan none (some ⟨e.work, .pledged⟩) (2 * volumes)) := by
      refine hclaims ?_ ?_ ?_
      · rw [hf]; rfl
      · rw [hf]; rfl
      · rw [State.mailUnitsOf, hf]
        exact Nat.zero_add _
    have hset : (t.claims e p).set? e.work = s.set? e.work := by rw [ht]; rfl
    refine hwins ?_ ?_
    · rw [State.startCart, hp]
      dsimp only
      rw [State.startBraille_of_both hloan, hset, hf, hpart]
      rfl
    · rw [State.raise_eq]
      exact hpacing
  · intro t'
    have hbook : (t.claims e p).BookHolds t.wonNumber { e with state := .takenSelf t.wonNumber } := by
      refine State.bookHolds_claims ?_ ?_
      · rw [State.entry?_order he]
        exact hentry
      · rw [hnumber, ht]
        exact hnew
    rw [hnumber] at hbook
    have hlost : (t.claims e p).startCart e p n = (t.claims e p).release n .titleVoid ⟨true, false⟩ := by
      rw [State.startCart, hp]
      dsimp only
      rw [State.createJob_of_not_valid, State.titleVoidFailure_queued (a := 0) hloan]
      · rw [State.wonLoan, hf, hp]
        rfl
      · rw [ht]
        exact hd
    have hreleased : OwnReleased ((t.claims e p).dropLoan n) { e with state := .takenSelf n } .titleVoid
        ((t.claims e p).release n .titleVoid ⟨true, false⟩) := by
      refine State.release_braille .titleVoid hloan rfl ?_ hbook
      rw [BrailleRow, State.wonLoan, hf]
      rfl
    have hdropped : (t.claims e p).dropLoan n = t'.setEntryState e.order (.takenSelf n) := by
      have hfilter : (insertLoan (t.wonLoan e p n) t.tables.loans).filter (fun y => y.number != n) = t.tables.loans :=
        filter_insertLoan (l := t.wonLoan e p n) (State.number_ne (by rw [ht]; exact hn))
      rw [State.dropLoan, State.claims, hnumber, hseq]
      dsimp only
      rw [hfilter, ht]
      rfl
    rw [hdropped] at hreleased
    refine ⟨_, hreleased.of_setEntryState, hwins ?_ (hreleased.of_setEntryState.noRoomEvent ?_)⟩
    · rw [hlost, State.startBraille, hf]
      rfl
    · exact hpacing

end Sys2Proof.Machine
end

section
/-! PROOFS. A visit of the day scan (R62, R63, R67): O42. -/

namespace Sys2Proof.Machine

/-! ### The notices that a record owes (R63) -/

/-- What a record owes, in the order of its offers. -/
def Loan.owedNotices (l : Loan) : List LoanStatus := [LoanStatus.overdue, .lost, .recovered].filter l.owes

/-- A record with a part that is not BACK. -/
def Loan.partOut (l : Loan) : Prop :=
  (∃ c, l.cart = some c ∧ c.status ≠ .back) ∨ ∃ b, l.braille = some b ∧ b.status ≠ .back

section
variable {l : Loan} {st : LoanStatus} {sts : List LoanStatus}

theorem Loan.firstOwed_eq : l.firstOwed = l.owedNotices.head? := (List.head?_filter ..).symm

theorem Loan.owedNotices_eq (l : Loan) : l.owedNotices =
    (if (l.state = .overdue ∨ l.state = .lost) ∧ l.overdueSent = false then [.overdue] else []) ++
      (if l.state = .lost ∧ l.lostSent = false ∧ l.recovery = .none then [.lost] else []) ++
      (if l.recovery = .owed then [.recovered] else []) := by
  have hone (t : LoanStatus) : [t].filter l.owes = if l.owes t = true then [t] else [] := by
    rw [List.filter_cons, List.filter_nil]
  have hsplit : l.owedNotices = [LoanStatus.overdue].filter l.owes ++ [LoanStatus.lost].filter l.owes ++
      [LoanStatus.recovered].filter l.owes := by
    rw [← List.filter_append, ← List.filter_append]
    rfl
  have hoverdue : l.owes .overdue = true ↔ (l.state = .overdue ∨ l.state = .lost) ∧ l.overdueSent = false := by
    simp [Loan.owes]
  have hlost : l.owes .lost = true ↔ l.state = .lost ∧ l.lostSent = false ∧ l.recovery = .none := by
    simp [Loan.owes, and_assoc]
  have hrecovered : l.owes .recovered = true ↔ l.recovery = .owed := beq_iff_eq
  rw [hsplit, hone, hone, hone]
  simp only [hoverdue, hlost, hrecovered]

/-- LOST and RECOVERED are not owed together. -/
theorem Loan.length_owedNotices (l : Loan) : l.owedNotices.length ≤ 2 := by
  rw [Loan.owedNotices_eq]
  by_cases h : l.recovery = .owed
  · simp only [h, reduceCtorEq, and_false, if_false, if_true, List.append_nil]
    split <;> decide
  · rw [if_neg h]
    split <;> split <;> decide

theorem Loan.noticeSent_parts (l : Loan) (st : LoanStatus) :
    (l.noticeSent st).cart = l.cart ∧ (l.noticeSent st).braille = l.braille ∧ (l.noticeSent st).patron = l.patron ∧
      (l.noticeSent st).dueDay = l.dueDay := by
  cases st <;> exact ⟨rfl, rfl, rfl, rfl⟩

theorem Loan.owes_noticeSent (st t : LoanStatus) (h : l.owes st = true) :
    (l.noticeSent st).owes t = (l.owes t && decide (t ≠ st)) := by
  cases st with
  | overdue => cases t <;> simp_all [Loan.noticeSent, Loan.owes]
  | lost => cases t <;> simp_all [Loan.noticeSent, Loan.owes]
  | recovered =>
    have hrecovery : l.recovery = .owed := beq_iff_eq.mp h
    cases t <;> simp [Loan.noticeSent, Loan.owes, hrecovery, show (RecoveryNotice.done == .none) = false from rfl,
      show (RecoveryNotice.owed == .none) = false from rfl]

/-- An accepted notice is owed no longer, and the others are. -/
theorem Loan.owedNotices_noticeSent (h : l.owedNotices = st :: sts) : (l.noticeSent st).owedNotices = sts := by
  have howes : l.owes st = true := (List.mem_filter.mp (h ▸ List.mem_cons_self : st ∈ l.owedNotices)).2
  have hnd : l.owedNotices.Nodup := List.Nodup.filter _ (by decide)
  have heq : (l.noticeSent st).owedNotices = l.owedNotices.filter fun t => decide (t ≠ st) := by
    rw [Loan.owedNotices, Loan.owedNotices, List.filter_filter]
    exact List.filter_congr fun t _ => by rw [Loan.owes_noticeSent st t howes, Bool.and_comm]
  rw [h, List.nodup_cons] at hnd
  rw [heq, h, List.filter_cons_of_neg (by simp), List.filter_eq_self]
  intro t ht
  exact decide_eq_true fun heq => hnd.1 (heq ▸ ht)

theorem Loan.partOut.noticeSent (h : l.partOut) (st : LoanStatus) : (l.noticeSent st).partOut := by
  obtain ⟨hcart, hbraille, -, -⟩ := l.noticeSent_parts st
  rw [Loan.partOut, hcart, hbraille]
  exact h

theorem Loan.partOut.closes (h : l.partOut) : l.closes = false := by
  rcases h with ⟨c, hc, hs⟩ | ⟨b, hb, hs⟩
  · simp [Loan.closes, hc, hs]
  · simp [Loan.closes, hb, hs]

/-- What the notices accepted leave of a record. -/
def Loan.noticesSent (l : Loan) (sts : List LoanStatus) : Loan := sts.foldl Loan.noticeSent l

theorem Loan.noticesSent_number (l : Loan) (sts : List LoanStatus) : (l.noticesSent sts).number = l.number := by
  induction sts generalizing l with
  | nil => rfl
  | cons st sts ih => exact (ih (l.noticeSent st)).trans (State.noticeSent_number l st)

theorem Loan.noticesSent_eq (l : Loan) (sts : List LoanStatus) :
    l.noticesSent sts =
      { l with
        overdueSent := l.overdueSent || decide (LoanStatus.overdue ∈ sts)
        lostSent := l.lostSent || decide (LoanStatus.lost ∈ sts)
        recovery := if LoanStatus.recovered ∈ sts then .done else l.recovery } := by
  induction sts generalizing l with
  | nil => simp [Loan.noticesSent]
  | cons st sts ih =>
    rw [show l.noticesSent (st :: sts) = (l.noticeSent st).noticesSent sts from rfl, ih]
    cases st <;> simp [Loan.noticeSent]

end

/-! ### The end of a visit (R62) -/

section
variable {s : State} {n : LoanNo} {l : Loan} {st : LoanStatus} {sts : List LoanStatus}

/-- The scan after the end of a visit. -/
def DayScan.visited (d : DayScan) (above : Bool) : DayScan :=
  if above then { d with owed := none }
  else if d.rescan then { d with last := none, rescan := false, owed := none }
  else { d with last := none, running := false, owed := none }

theorem State.visitEnd_eq :
    s.visitEnd = { s with scan := s.scan.visited (s.tables.loans.any fun y => aboveLast s.scan.last y.number) } := by
  have hnext : ({ s with scan := { s.scan with owed := none } } : State).nextVisit.isSome =
      s.tables.loans.any fun y => aboveLast s.scan.last y.number := by
    rw [Bool.eq_iff_iff, List.any_eq_true]
    exact List.find?_isSome
  rw [State.visitEnd, DayScan.visited]
  dsimp only
  rw [hnext]
  split
  · rfl
  · split <;> rfl

/-- What the register's offers leave of the scan: whether a record remains above does not hang on this one's notices. -/
theorem any_aboveLast_map {f : Loan → Loan} (hf : ∀ y, (f y).number = y.number) (last : Option LoanNo) (ls : List Loan) :
    ((ls.map fun y => if y.number = n then f y else y).any fun y => aboveLast last y.number) =
      ls.any fun y => aboveLast last y.number := by
  rw [List.any_map]
  refine congrArg (List.any ls) (funext fun y => ?_)
  by_cases hy : y.number = n <;> simp [hy, hf]

theorem any_aboveLast_filter (ls : List Loan) :
    ((ls.filter fun y => y.number != n).any fun y => aboveLast (some n) y.number) =
      ls.any fun y => aboveLast (some n) y.number := by
  rw [List.any_filter]
  refine congrArg (List.any ls) (funext fun y => ?_)
  by_cases hy : y.number = n
  · simp [hy, aboveLast]
  · simp [hy]

/-! ### The register's offers at a record (R63) -/

/-- The frame that tells a notice of a record (R63). -/
def State.loanStateFrame (s : State) (l : Loan) (st : LoanStatus) : TxEntry :=
  ⟨⟨0, s.start.own.getD 0, .loanState l.number l.patron st (l.dueDay.getD 0)⟩, false, false⟩

/-- The transmit queue once the notices have joined it. -/
def State.told (s : State) (l : Loan) (sts : List LoanStatus) : State :=
  { s with line := { s.line with tx := s.line.tx ++ sts.map (s.loanStateFrame l) } }

theorem State.scanOffer_none {k : Nat} (h : s.loan? n = none) : s.scanOffer n (k + 1) = s.visitEnd := by
  rw [State.scanOffer, h]

theorem State.scanOffer_done {k : Nat} (h : s.loan? n = some l) (howed : l.owedNotices = []) :
    s.scanOffer n (k + 1) = s.visitEnd := by
  rw [State.scanOffer, h]
  dsimp only
  rw [Loan.firstOwed_eq, howed]
  rfl

theorem State.scanOffer_refused {k : Nat} (h : s.loan? n = some l) (howed : l.owedNotices = st :: sts)
    (hroom : ¬ s.Room .register) :
    s.scanOffer n (k + 1) =
      { s with
        line :=
          { s.line with
            pacing := if .register ∈ s.line.pacing then s.line.pacing else s.line.pacing ++ [.register] }
        scan := { s.scan with owed := some (n, st) } } := by
  rw [State.scanOffer, h]
  dsimp only
  rw [Loan.firstOwed_eq, howed, List.head?_cons]
  dsimp only
  rw [State.offerPaced_of_no_room _ hroom]

theorem State.scanOffer_accepted {k : Nat} (h : s.loan? n = some l) (howed : l.owedNotices = st :: sts)
    (hpacing : s.line.pacing = []) (htx : s.line.tx.length ≤ 12) :
    s.scanOffer n (k + 1) = (((s.told l [st]).modLoan n (·.noticeSent st)).closeTest n).scanOffer n k := by
  have hkept : s.line.pacing.filter (fun o => o != .register) = s.line.pacing := by rw [hpacing]; rfl
  rw [State.scanOffer, h]
  dsimp only
  rw [Loan.firstOwed_eq, howed, List.head?_cons]
  dsimp only
  rw [State.offerPaced_of_room _ ⟨htx, .inl hpacing⟩, hkept, ← State.loan?_number h]
  rfl

/-- The notices of a record that has them told one after another. -/
theorem State.told_told : ((s.told l [st]).modLoan n (·.noticeSent st)).told (l.noticeSent st) sts =
    (s.told l (st :: sts)).modLoan n (·.noticeSent st) := by
  obtain ⟨-, -, hpatron, hdue⟩ := l.noticeSent_parts st
  have hframe : ((s.told l [st]).modLoan n (·.noticeSent st)).loanStateFrame (l.noticeSent st) = s.loanStateFrame l := by
    funext t
    rw [State.loanStateFrame, State.loanStateFrame, State.noticeSent_number, hpatron, hdue]
    rfl
  rw [State.told, hframe]
  simp only [State.told, State.modLoan, List.map_cons, List.map_nil, List.append_assoc, List.singleton_append]

/-- All that a record with a part out owes is told in turn. -/
theorem State.scanOffer_all {k : Nat} (h : s.loan? n = some l) (howed : l.owedNotices = sts) (hk : sts.length < k)
    (hpacing : s.line.pacing = []) (htx : s.line.tx.length + sts.length ≤ 13) (hout : l.partOut) :
    s.scanOffer n k = ((s.told l sts).modLoan n (·.noticesSent sts)).visitEnd := by
  induction sts generalizing s l k with
  | nil =>
    obtain ⟨k, rfl⟩ : ∃ j, k = j + 1 := ⟨k - 1, by simp at hk; omega⟩
    have hsame : (s.told l []).modLoan n (·.noticesSent []) = s := by
      simp [State.told, State.modLoan, Loan.noticesSent]
    rw [State.scanOffer_done h howed, hsame]
  | cons st sts ih =>
    obtain ⟨k, rfl⟩ : ∃ j, k = j + 1 := ⟨k - 1, by simp at hk; omega⟩
    rw [List.length_cons] at hk htx
    have hsent : ((s.told l [st]).modLoan n (·.noticeSent st)).loan? n = some (l.noticeSent st) :=
      State.loan?_modLoan (s := s.told l [st]) h fun y => State.noticeSent_number y st
    have htx' : ((s.told l [st]).modLoan n (·.noticeSent st)).line.tx.length + sts.length ≤ 13 := by
      have : ((s.told l [st]).modLoan n (·.noticeSent st)).line.tx.length = s.line.tx.length + 1 := List.length_append
      omega
    rw [State.scanOffer_accepted h howed hpacing (by omega), State.closeTest_of_open hsent (hout.noticeSent st).closes,
      ih hsent (Loan.owedNotices_noticeSent howed) (by omega) hpacing htx' (hout.noticeSent st), State.told_told,
      State.modLoan_modLoan fun y => State.noticeSent_number y st]
    rfl

theorem State.loan?_dropLoan : (s.dropLoan n).loan? n = none := by
  rw [State.loan?, List.find?_eq_none]
  intro y hy
  have := (List.mem_filter.mp hy).2
  simpa using this

/-- A record whose parts are all BACK goes as its RECOVERED is accepted (R67). -/
theorem State.scanOffer_closes {k : Nat} (h : s.loan? n = some l) (howed : l.owedNotices = sts) (hk : sts.length < k)
    (hpacing : s.line.pacing = []) (htx : s.line.tx.length + sts.length ≤ 13)
    (hcart : ∀ c, l.cart = some c → c.status = .back) (hbraille : ∀ b, l.braille = some b → b.status = .back)
    (hrecovery : l.recovery = .owed) :
    s.scanOffer n k = ((s.told l sts).dropLoan n).visitEnd := by
  have hback : ((l.cart.map (·.status == .back)).getD true && (l.braille.map (·.status == .back)).getD true) = true := by
    cases hc : l.cart <;> cases hb : l.braille <;> simp_all
  induction sts generalizing s l k with
  | nil =>
    have hmem : LoanStatus.recovered ∈ l.owedNotices :=
      List.mem_filter.mpr ⟨by decide, by rw [Loan.owes, hrecovery]; rfl⟩
    rw [howed] at hmem
    cases hmem
  | cons st sts ih =>
    obtain ⟨k, rfl⟩ : ∃ j, k = j + 1 := ⟨k - 1, by simp at hk; omega⟩
    rw [List.length_cons] at hk htx
    have hsent : ((s.told l [st]).modLoan n (·.noticeSent st)).loan? n = some (l.noticeSent st) :=
      State.loan?_modLoan (s := s.told l [st]) h fun y => State.noticeSent_number y st
    obtain ⟨hcart', hbraille', -, -⟩ := l.noticeSent_parts st
    rw [State.scanOffer_accepted h howed hpacing (by omega)]
    by_cases hst : st = .recovered
    · subst hst
      obtain rfl : sts = [] := by
        have hrecovered : l.owes .recovered = true := by rw [Loan.owes, hrecovery]; rfl
        rw [Loan.owedNotices] at howed
        cases ho : l.owes .overdue <;> cases hl : l.owes .lost <;> simp_all
      obtain ⟨k, rfl⟩ : ∃ j, k = j + 1 := ⟨k - 1, by simp at hk; omega⟩
      have hcloses : (l.noticeSent .recovered).closes = true := by
        rw [Loan.closes, hcart', hbraille', hback]
        rfl
      rw [State.closeTest_of_closes hsent hcloses, State.modLoan_dropLoan fun y => State.noticeSent_number y .recovered,
        State.scanOffer_none State.loan?_dropLoan]
    · have hrecovery' : (l.noticeSent st).recovery = .owed := by cases st <;> simp_all [Loan.noticeSent]
      have hopen : (l.noticeSent st).closes = false := by simp [Loan.closes, hrecovery']
      have htx' : ((s.told l [st]).modLoan n (·.noticeSent st)).line.tx.length + sts.length ≤ 13 := by
        have : ((s.told l [st]).modLoan n (·.noticeSent st)).line.tx.length = s.line.tx.length + 1 := List.length_append
        omega
      rw [State.closeTest_of_open hsent hopen,
        ih hsent (Loan.owedNotices_noticeSent howed) (by omega) hpacing htx' (hcart' ▸ hcart) (hbraille' ▸ hbraille)
          hrecovery' (by rw [hcart', hbraille']; exact hback), State.told_told,
        State.modLoan_dropLoan fun y => State.noticeSent_number y st]

end

/-! ### The visit -/

section
variable {s : State} {l : Loan} {pre post : List Loan}

/-- The record that a visit looks at is the first above the last visited. -/
theorem State.nextVisit_of_append (hloans : s.tables.loans = pre ++ l :: post)
    (hl : aboveLast s.scan.last l.number = true) (hpre : ∀ y ∈ pre, aboveLast s.scan.last y.number = false) :
    s.nextVisit = some l ∧ s.loan? l.number = some l := by
  constructor
  · rw [State.nextVisit, hloans]
    exact find?_append_cons (fun y hy => by simp [hpre y hy]) hl
  · rw [State.loan?, hloans]
    refine find?_append_cons (fun y hy => ?_) (by simp)
    have hne : y.number ≠ l.number := fun heq => by
      have := hpre y hy
      rw [heq, hl] at this
      cases this
    simpa using hne

theorem Loan.updated_number (l : Loan) (today : Day) (k : Nat) : (l.updated today k).number = l.number := by
  unfold Loan.updated
  split
  · rfl
  · dsimp only
    split <;> split <;> rfl

end

/-- A SHIPPED loan past its due day (R62). -/
def Loan.lateOn (l : Loan) (today : Day) : Bool := l.state == .shipped && l.dueDay.any fun u => decide (u < today)

/-- An overdue loan past its lost interval (R62). -/
def Loan.lostOn (l : Loan) (today : Day) (k : Nat) : Bool :=
  (l.state == .overdue || l.lateOn today) && l.dueDay.any fun u =>
    decide (u.toNat + k ≤ 65535) && decide (u.toNat + k ≤ today.toNat)

theorem Loan.updated_eq (l : Loan) (today : Day) (k : Nat) : l.updated today k =
    { l with state := if l.lostOn today k then .lost else if l.lateOn today then .overdue else l.state } := by
  obtain ⟨number, order, patron, work, format, zone, urgent, claimDay, state, cart, braille, units, container, tray,
    dispatchDay, dueDay, overdueSent, lostSent, recovery⟩ := l
  cases dueDay with
  | none => simp [Loan.updated, Loan.lostOn, Loan.lateOn]
  | some u =>
    simp only [Loan.updated, Loan.lostOn, Loan.lateOn, Option.any_some]
    by_cases hlate : state = .shipped ∧ u < today
    · obtain ⟨rfl, hu⟩ := hlate
      by_cases hk : u.toNat + k ≤ 65535 ∧ u.toNat + k ≤ today.toNat <;> simp [hu, hk]
    · have hnot : (state == .shipped && decide (u < today)) = false := by simpa using hlate
      simp only [if_neg hlate, hnot, Bool.or_false]
      by_cases hk : state = .overdue ∧ u.toNat + k ≤ 65535 ∧ u.toNat + k ≤ today.toNat <;> simp [hk]

/-- Settles O42. -/
theorem dayScanVisitsNext : Obligations.DayScanVisitsNext := by
  intro s w r rest
  have hend {u : State} {last : Option LoanNo} (hscan : u.scan = { s.scan with last := last })
      (hany : (u.tables.loans.any fun y => aboveLast last y.number) = s.tables.loans.any fun y => aboveLast last y.number) :
      u.visitEnd = rest u last := by
    rw [State.visitEnd_eq, hscan]
    dsimp only
    rw [hany]
    rfl
  refine ⟨fun hno => ?_, fun hrun howed => ⟨fun hnone => .of_eq ?_, fun pre l post hloans hl hpre => ?_⟩⟩
  · refine congrArg Host.Outcome.next (if_neg fun ⟨hr, ho⟩ => ?_)
    rcases hno with h | h
    · rw [hr] at h
      cases h
    · exact h ho
  · have hnext : s.nextVisit = none := List.find?_eq_none.mpr fun y hy => by simp [hnone y hy]
    refine congrArg Host.Outcome.next ((if_pos ⟨hrun, howed⟩).trans ?_)
    rw [hnext]
    exact congrArg (finish w) (hend rfl rfl)
  · intro late lost stepped seen state due owes
    obtain ⟨hnext, hloan⟩ := State.nextVisit_of_append hloans hl hpre
    have hstep : (fun y : Loan => y.updated s.tables.day s.cfg.lostInterval) = stepped := by
      exact funext fun y => y.updated_eq s.tables.day s.cfg.lostInterval
    let v : State := { seen with scan := { s.scan with last := some l.number } }
    have hvisit : r = .next (finish w (v.scanOffer l.number 4)) := by
      refine congrArg Host.Outcome.next ((if_pos ⟨hrun, howed⟩).trans ?_)
      rw [hnext]
      dsimp only
      rw [State.visit, hstep]
      rfl
    have hv : v.loan? l.number = some (stepped l) := State.loan?_modLoan (s := s) (f := stepped) hloan fun _ => rfl
    have hany {f : Loan → Loan} (hf : ∀ y, (f y).number = y.number) :=
      any_aboveLast_map (n := l.number) hf (some l.number) s.tables.loans
    have hhead : (stepped l).owedNotices.head? = owes := by
      rw [Loan.owedNotices_eq]
      dsimp only [owes]
      split
      · rfl
      · split
        · rfl
        · split <;> rfl
    let told (sts : List LoanStatus) (loans : List Loan) : State :=
      { seen with
        line :=
          { s.line with
            tx := s.line.tx ++ sts.map fun st => ⟨⟨0, s.start.own.getD 0, .loanState l.number l.patron st due⟩, false, false⟩ }
        tables := { s.tables with loans := loans } }
    have hkept {sts : List LoanStatus} (howed : (stepped l).owedNotices = sts) (hpacing : s.line.pacing = [])
        (htx : s.line.tx.length + sts.length ≤ 13) (hout : l.partOut) :
        r = .next (finish w (rest (told sts (s.tables.loans.map fun y =>
          if y.number = l.number then (stepped y).noticesSent sts else y)) (some l.number))) := by
      have hlen : sts.length < 4 := Nat.lt_succ_of_le (Nat.le_succ_of_le (howed ▸ (stepped l).length_owedNotices))
      have hloans : ((s.modLoan l.number stepped).modLoan l.number (·.noticesSent sts)).tables.loans = _ :=
        congrArg (fun t : State => t.tables.loans) (State.modLoan_modLoan fun _ => rfl)
      rw [hvisit, State.scanOffer_all (s := v) hv howed hlen hpacing htx hout,
        hend (u := (v.told (stepped l) sts).modLoan l.number (·.noticesSent sts)) rfl]
      · exact congrArg (fun ls => Host.Outcome.next (finish w (rest (told sts ls) (some l.number)))) hloans
      · exact (any_aboveLast_map (fun y => y.noticesSent_number sts) _ _).trans (hany (f := stepped) fun _ => rfl)
    have hgone {sts : List LoanStatus} (howed : (stepped l).owedNotices = sts) (hpacing : s.line.pacing = [])
        (htx : s.line.tx.length + sts.length ≤ 13) (hcart : ∀ c, l.cart = some c → c.status = .back)
        (hbraille : ∀ b, l.braille = some b → b.status = .back) (hrecovery : l.recovery = .owed) :
        r = .next (finish w (rest (told sts (s.tables.loans.filter fun y => y.number != l.number)) (some l.number))) := by
      have hlen : sts.length < 4 := Nat.lt_succ_of_le (Nat.le_succ_of_le (howed ▸ (stepped l).length_owedNotices))
      have hloans : ((s.modLoan l.number stepped).dropLoan l.number).tables.loans = _ :=
        congrArg (fun t : State => t.tables.loans) (State.modLoan_dropLoan fun _ => rfl)
      rw [hvisit, State.scanOffer_closes (s := v) hv howed hlen hpacing htx hcart hbraille hrecovery,
        hend (u := (v.told (stepped l) sts).dropLoan l.number) rfl]
      · exact congrArg (fun ls => Host.Outcome.next (finish w (rest (told sts ls) (some l.number)))) hloans
      · exact (any_aboveLast_filter _).trans (hany (f := stepped) fun _ => rfl)
    refine ⟨fun hnone => ?_, ?_, fun st hst => ⟨fun hfull hno => ?_, fun hover hs htx hpacing hrec hout => ?_⟩⟩
    · have howed : (stepped l).owedNotices = [] := List.head?_eq_none_iff.mp (hhead.trans hnone)
      refine .of_eq (hvisit.trans ?_)
      rw [State.scanOffer_done hv howed, hend (u := v) rfl (hany (f := stepped) fun _ => rfl)]
    · intro owedNow queued hne htx hpacing
      have howed : (stepped l).owedNotices = owedNow := Loan.owedNotices_eq _
      have hlen : s.line.tx.length + owedNow.length ≤ 13 := by
        have := howed ▸ (stepped l).length_owedNotices
        omega
      refine ⟨fun hout => .of_eq ((hkept howed hpacing hlen hout).trans ?_), fun hcart hbraille hrec =>
        .of_eq (hgone howed hpacing hlen hcart hbraille hrec)⟩
      simp only [Loan.noticesSent_eq]
      rfl
    · obtain ⟨rest', howed⟩ : ∃ sts, (stepped l).owedNotices = st :: sts :=
        List.head?_eq_some_iff.mp (hhead.trans hst)
      refine .of_eq (hvisit.trans ?_)
      rw [State.scanOffer_refused hv howed fun h => absurd h.1 (Nat.not_le.mpr hfull)]
      exact congrArg (fun pacing => Host.Outcome.next (finish w
        ({ seen with
          scan := { s.scan with last := some l.number, owed := some (l.number, st) }
          line := { s.line with pacing := pacing } } : State))) (if_neg hno)
    · subst hs
      have howed : (stepped l).owedNotices = [.overdue] := by
        have howes := (List.mem_filter.mp (List.mem_of_mem_head? (hhead.trans hst))).2
        have hsent : l.overdueSent = false := by
          simp only [Loan.owes, Bool.and_eq_true, Bool.not_eq_true'] at howes
          exact howes.2
        have hnot : ¬ ((stepped l).state = .lost ∧ (stepped l).lostSent = false ∧ (stepped l).recovery = .none) := by
          rintro ⟨h, -⟩
          exact absurd (hover.symm.trans h) (by decide)
        rw [Loan.owedNotices_eq, if_pos ⟨.inl hover, hsent⟩, if_neg hnot, if_neg hrec]
        rfl
      have hnotice (y : Loan) : (if y.number = l.number then (stepped y).noticesSent [.overdue] else y) =
          if y.number = l.number then { stepped y with overdueSent := true } else y := rfl
      refine .of_eq ((hkept howed hpacing (Nat.succ_le_succ htx) hout).trans ?_)
      rw [show (fun y : Loan => if y.number = l.number then (stepped y).noticesSent [.overdue] else y) = _ from
        funext hnotice]
      rfl

end Sys2Proof.Machine
end

section
/-! PROOFS. The room event (R15, R34, R63, R148, R162): O30. -/

namespace Sys2Proof.Machine

variable {s : State} {o : PacedOwner} {p : Payload} {idle rest : List PacedOwner}

/-! ### An owner at the head of the pacing list -/

/-- The station once a frame has been accepted and the pacing list is as given. -/
def State.offered (s : State) (p : Payload) (pacing : List PacedOwner) : State :=
  { s with line := { s.line with tx := s.line.tx ++ [⟨⟨0, s.start.own.getD 0, p⟩, false, false⟩], pacing := pacing } }

def State.paced (s : State) (pacing : List PacedOwner) : State := { s with line := { s.line with pacing := pacing } }

theorem State.offerPaced_head (hpacing : s.line.pacing = o :: rest) (ho : o ∉ rest) (htx : s.line.tx.length ≤ 12) :
    s.offerPaced o p = (s.offered p rest, true) := by
  rw [State.offerPaced_of_room p ⟨htx, .inr (by rw [hpacing]; rfl)⟩, hpacing, filter_ne_head ho]
  rfl

/-- An owner that offers again where others wait or fewer than 4 entries are free joins the tail of the list. -/
theorem State.offerPaced_again (ho : o ∉ s.line.pacing) (hfull : s.line.pacing ≠ [] ∨ 12 < s.line.tx.length) :
    s.offerPaced o p = (s.paced (s.line.pacing ++ [o]), false) := by
  rw [State.offerPaced_of_no_room p, if_neg ho]
  · rfl
  · rintro ⟨htx, hhead⟩
    rcases hfull with hne | hfull
    · rcases hhead with h | h
      · exact hne h
      · exact ho (List.mem_of_mem_head? h)
    · exact absurd htx (Nat.not_le.mpr hfull)

/-! ### Owners with nothing to offer (R15) -/

/-- An owner with nothing to offer, nor a notice owed. -/
def State.idles (s : State) : PacedOwner → Prop
  | .book => s.book.owed = []
  | .returns => ∀ z ∈ s.returns.outbox, z.condition = none ∨ z.held = true
  | .tray => s.tables.dispatchLine = []
  | .register => s.scan.owed = none

theorem OutEntry.not_offerable_iff {z : OutEntry} : z.offerable = false ↔ z.condition = none ∨ z.held = true := by
  rw [OutEntry.offerable]
  cases z.condition <;> cases z.held <;> simp

theorem State.hasOffer_of_idles (h : s.idles o) : s.hasOffer o = false := by
  cases o with
  | book =>
    have : s.book.owed = [] := h
    rw [State.hasOffer, State.headRelease, this]
    rfl
  | returns =>
    rw [State.hasOffer, List.any_eq_false]
    intro z hz
    rw [OutEntry.not_offerable_iff.mpr (h z hz)]
    exact Bool.false_ne_true
  | tray => rw [State.hasOffer, State.nextToShip_nil h, Option.isSome_none, Bool.and_false]
  | register =>
    have : s.scan.owed = none := h
    rw [State.hasOffer, State.stillOwed, this]
    rfl

theorem State.nothingToOffer_of_idles (h : s.idles o) : s.nothingToOffer o = s.leavePacing o := by
  refine if_neg fun ⟨ho, hscan⟩ => ?_
  subst ho
  have : (s.leavePacing .register).scan.owed = none := h
  rw [this] at hscan
  cases hscan

theorem State.roomEvent_nothing {k : Nat} (hpacing : s.line.pacing = o :: rest) (htx : s.line.tx.length ≤ 12)
    (h : s.hasOffer o = false) : s.roomEvent (k + 1) = (s.nothingToOffer o).roomEvent k := by
  have hfree : ¬ s.freeTx < 4 := by unfold State.freeTx; omega
  rw [State.roomEvent, hpacing]
  dsimp only
  rw [if_neg hfree, if_neg (by rw [h]; exact Bool.false_ne_true)]

theorem State.roomEvent_offer {k : Nat} (hpacing : s.line.pacing = o :: rest) (htx : s.line.tx.length ≤ 12)
    (h : s.hasOffer o = true) : s.roomEvent (k + 1) = s.ownerOffer o := by
  have hfree : ¬ s.freeTx < 4 := by unfold State.freeTx; omega
  rw [State.roomEvent, hpacing]
  dsimp only
  rw [if_neg hfree, if_pos h]

/-- The owners with nothing to offer leave the list one after another. -/
theorem State.roomEvent_idle (k : Nat) (hpacing : s.line.pacing = idle ++ rest) (hnd : (idle ++ rest).Nodup)
    (htx : s.line.tx.length ≤ 12) (h : ∀ o ∈ idle, s.idles o) :
    s.roomEvent (k + idle.length) = (s.paced rest).roomEvent k := by
  induction idle generalizing s with
  | nil =>
    have : s.paced rest = s := by
      rw [State.paced, ← List.nil_append rest, ← hpacing]
    rw [this]
    rfl
  | cons o idle ih =>
    have hidle := h o List.mem_cons_self
    have hne : o ∉ idle ++ rest := (List.nodup_cons.mp hnd).1
    have hleave : s.leavePacing o = s.paced (idle ++ rest) := by
      rw [State.leavePacing, hpacing, List.cons_append, filter_ne_head hne]
      rfl
    have hlen : k + (o :: idle).length = k + idle.length + 1 := rfl
    rw [hlen, State.roomEvent_nothing hpacing htx (State.hasOffer_of_idles hidle), State.nothingToOffer_of_idles hidle,
      hleave, ih (s := s.paced (idle ++ rest)) rfl (List.nodup_cons.mp hnd).2 htx fun q hq => ?_]
    · rfl
    · have := h q (List.mem_cons_of_mem _ hq)
      cases q <;> exact this

theorem length_le_of_nodup {os : List PacedOwner} (h : os.Nodup) : os.length ≤ 4 :=
  (h.subperm (l₂ := [.book, .returns, .tray, .register]) fun o _ => by cases o <;> decide).length_le

/-- The first owner on the list that has a frame offers it. -/
theorem State.roomEvent_first (hpacing : s.line.pacing = idle ++ o :: rest) (hnd : (idle ++ o :: rest).Nodup)
    (htx : s.line.tx.length ≤ 12) (hidle : ∀ o ∈ idle, s.idles o) (h : (s.paced (o :: rest)).hasOffer o = true) :
    s.roomEvent 5 = (s.paced (o :: rest)).ownerOffer o := by
  have hlen := length_le_of_nodup hnd
  rw [List.length_append, List.length_cons] at hlen
  have hfuel : 5 = (4 - idle.length + 1) + idle.length := by omega
  rw [hfuel, State.roomEvent_idle _ hpacing hnd htx hidle]
  exact State.roomEvent_offer (s := s.paced (o :: rest)) rfl htx h

/-! ### The Order Book's RELEASEs (R34) -/

section
variable {e : Entry} {why : Reason} {q : OrderNo} {more : List OrderNo} {k : Nat}

theorem State.headRelease_eq (howed : s.book.owed = q :: more) (he : s.entry? q = some e) (hwhy : e.owed = some why) :
    s.headRelease = some (e, why) := by
  rw [State.headRelease, howed]
  dsimp only
  rw [he, Option.bind_some, hwhy]
  rfl

theorem State.bookOffer_accepted (h : s.headRelease = some (e, why)) (hpacing : s.line.pacing = .book :: rest)
    (ho : .book ∉ rest) (htx : s.line.tx.length ≤ 12) :
    s.bookOffer (k + 1) = ((s.offered (.release e.order e.releaseCount why) rest).releaseSent e).bookOffer k := by
  rw [State.bookOffer, h]
  dsimp only
  rw [State.offerPaced_head hpacing ho htx]

theorem State.bookOffer_refused (h : s.headRelease = some (e, why)) (ho : .book ∉ s.line.pacing)
    (hfull : s.line.pacing ≠ [] ∨ 12 < s.line.tx.length) : s.bookOffer (k + 1) = s.paced (s.line.pacing ++ [.book]) := by
  rw [State.bookOffer, h]
  dsimp only
  rw [State.offerPaced_again ho hfull]

theorem State.entry?_modEntry_other {o : OrderNo} {f : Entry → Entry} (h : s.entry? q = some e) (hne : q ≠ o)
    (hf : ∀ y, (f y).order = y.order) : (s.modEntry o f).entry? q = some e := by
  have hp : ((fun y : Entry => y.order == q) ∘ fun y => if y.order = o then f y else y) = fun y => y.order == q := by
    funext y
    by_cases hy : y.order = o <;> simp [hy, hf]
  rw [State.entry?] at h
  rw [State.entry?, State.modEntry, List.find?_map, hp, h, Option.map_some,
    if_neg (fun heq => hne ((State.entry?_order (s := s) h).symm.trans heq))]

/-- The book once the RELEASE at the head of the owed list has been accepted. -/
theorem State.releaseSent_of_more (hcount : e.releaseCount ≠ 3) (howed : s.book.owed = e.order :: more)
    (hmore : e.order ∉ more) :
    s.releaseSent e = { s with book := ⟨(s.modEntry e.order fun e => { e with owed := none }).book.entries, more⟩ } := by
  have hfilter : s.book.owed.filter (· != e.order) = more := by
    rw [howed, List.filter_cons_of_neg (by simp), List.filter_eq_self]
    exact fun y hy => bne_iff_ne.mpr fun heq => hmore (heq ▸ hy)
  rw [State.releaseSent]
  dsimp only
  rw [if_neg hcount, ← hfilter]
  rfl

theorem State.releaseSent_of_three (hcount : e.releaseCount = 3) (howed : s.book.owed = [e.order]) :
    s.releaseSent e = { s with book := ⟨s.book.entries.filter fun y => y.order != e.order, []⟩ } := by
  have hfilter : s.book.owed.filter (· != e.order) = [] := by
    rw [howed]
    simp
  have hentries := filter_changed (o := e.order) (f := fun y => { y with owed := none }) (fun _ => rfl) s.book.entries
  rw [State.releaseSent]
  dsimp only
  rw [if_pos hcount, ← hentries]
  exact congrArg (fun owed : List OrderNo =>
    ({ s with
      book :=
        ⟨(s.modEntry e.order fun e => { e with owed := none }).book.entries.filter fun y => y.order != e.order,
          owed.filter fun y => y != e.order⟩ } : State)) hfilter

end

/-! ### The Returns Unit's RETURNED (R148) -/

section
variable {y z : OutEntry} {c : Condition} {before after : List OutEntry} {k : Nat}

theorem State.serveWaitList_nil (h : s.returns.wait = []) : s.serveWaitList = s := by rw [State.serveWaitList, h]; rfl

theorem find?_offerable (hbefore : ∀ z ∈ before, z.condition = none ∨ z.held = true) (hc : y.condition = some c)
    (hheld : y.held = false) : (before ++ y :: after).find? (·.offerable) = some y :=
  find?_append_cons (fun z hz => OutEntry.not_offerable_iff.mpr (hbefore z hz))
    (by rw [OutEntry.offerable, hc, hheld]; rfl)

theorem State.returnsOffer_accepted (h : s.returns.outbox.find? (·.offerable) = some y) (hc : y.condition = some c)
    (hwait : s.returns.wait = []) (hpacing : s.line.pacing = .returns :: rest) (ho : .returns ∉ rest)
    (htx : s.line.tx.length ≤ 12) :
    s.returnsOffer (k + 1) =
      ({ s.offered (.returned y.loan y.serial y.day c) rest with
        returns := ⟨s.returns.outbox.filter (·.loan != y.loan), []⟩ } : State).returnsOffer k := by
  rw [State.returnsOffer, h]
  dsimp only
  rw [State.offerPaced_head hpacing ho htx, hc]
  dsimp only
  rw [State.serveWaitList_nil]
  · exact congrArg (fun wait => ({ s.offered (.returned y.loan y.serial y.day c) rest with
      returns := ⟨s.returns.outbox.filter (·.loan != y.loan), wait⟩ } : State).returnsOffer k) hwait
  · exact hwait

theorem State.returnsOffer_refused (h : s.returns.outbox.find? (·.offerable) = some y) (ho : .returns ∉ s.line.pacing)
    (hfull : s.line.pacing ≠ [] ∨ 12 < s.line.tx.length) :
    s.returnsOffer (k + 1) = s.paced (s.line.pacing ++ [.returns]) := by
  rw [State.returnsOffer, h]
  dsimp only
  rw [State.offerPaced_again ho hfull]

theorem State.returnsOffer_nil (h : ∀ z ∈ s.returns.outbox, z.condition = none ∨ z.held = true) :
    s.returnsOffer k = s := by
  cases k with
  | zero => rfl
  | succ k =>
    rw [State.returnsOffer, find?_none fun z hz => OutEntry.not_offerable_iff.mpr (h z hz)]

end

/-! ### The Tray Unit's SHIPPED (R162) -/

section
variable {q : Fin 16} {x : Tray} {l : Loan} {k : Nat}

theorem State.trayOffer_head (hlisten : s.line.state ≠ .listen) (h : s.nextToShip = some (q, x, l))
    (hpacing : s.line.pacing = .tray :: rest) (ho : .tray ∉ rest) (htx : s.line.tx.length ≤ 12) :
    s.trayOffer (k + 1) = ((s.offered (s.shippedFrame l) rest).shipLoan q x l).trayOffer k := by
  rw [State.trayOffer, if_neg hlisten, h]
  dsimp only
  rw [State.offerPaced_head hpacing ho htx]

theorem State.trayOffer_again (hlisten : s.line.state ≠ .listen) (h : s.nextToShip = some (q, x, l))
    (ho : .tray ∉ s.line.pacing) (hfull : s.line.pacing ≠ [] ∨ 12 < s.line.tx.length) :
    s.trayOffer (k + 1) = s.paced (s.line.pacing ++ [.tray]) := by
  rw [State.trayOffer, if_neg hlisten, h]
  dsimp only
  rw [State.offerPaced_again ho hfull]

/-- A loan of a tray that holds more ships: the others stay (R60, R162). -/
theorem State.shipLoan_more {n n' : LoanNo} {more : List LoanNo} {e : Entry} (hl : l.number = n)
    (hx : x.loans = n :: n' :: more) (he : s.entryOfLoan? n = some e) :
    s.shipLoan q x l =
      { s with
        tables :=
          { s.tables with
            loans := s.tables.loans.map fun y =>
              if y.number = n then
                { y with
                  state := .shipped, dispatchDay := some s.tables.day
                  dueDay := some (dueDayOf s.tables.day s.cfg.loanPeriod), tray := none }
              else y
            trays := s.tables.trays.set q.val (some { x with loans := n' :: more, load := x.load - l.mailUnits }) q.isLt }
        book := (s.dropEntry e.order).book } := by
  have he' (f : Loan → Loan) : (s.modLoan n f).entryOfLoan? n = some e := he
  rw [State.shipLoan, hl]
  dsimp only
  rw [he']
  dsimp only
  rw [hx, State.storeTray, if_neg]
  · rfl
  · exact Bool.false_ne_true

/-- The record of a loan stays found as another's changes. -/
theorem State.loan?_modLoan_isSome {m n : LoanNo} {f : Loan → Loan} (h : s.loan? m = some l) (hf : ∀ y, (f y).number = y.number) :
    ∃ y, (s.modLoan n f).loan? m = some y := by
  have hp : ((fun y : Loan => y.number == m) ∘ fun y => if y.number = n then f y else y) = fun y => y.number == m := by
    funext y
    by_cases hy : y.number = n <;> simp [hy, hf]
  rw [State.loan?] at h
  rw [State.loan?, State.modLoan, List.find?_map, hp, h]
  exact ⟨_, rfl⟩

end

/-! ### The register's LOANSTATE (R63) -/

section
variable {n : LoanNo} {l : Loan} {st : LoanStatus} {sts : List LoanStatus} {k : Nat}

theorem State.scanOffer_head (h : s.loan? n = some l) (howed : l.owedNotices = st :: sts) (hout : l.partOut)
    (hpacing : s.line.pacing = .register :: rest) (ho : .register ∉ rest) (htx : s.line.tx.length ≤ 12) :
    s.scanOffer n (k + 1) =
      ((s.offered (.loanState n l.patron st (l.dueDay.getD 0)) rest).modLoan n (·.noticeSent st)).scanOffer n k := by
  rw [State.scanOffer, h]
  dsimp only
  rw [Loan.firstOwed_eq, howed, List.head?_cons]
  dsimp only
  rw [State.offerPaced_head hpacing ho htx]
  dsimp only
  rw [State.closeTest_of_open (State.loan?_modLoan (s := s.offered _ rest) h fun y => State.noticeSent_number y st)
    (hout.noticeSent st).closes]

theorem State.scanOffer_again (h : s.loan? n = some l) (howed : l.owedNotices = st :: sts) (ho : .register ∉ s.line.pacing)
    (hfull : s.line.pacing ≠ [] ∨ 12 < s.line.tx.length) :
    s.scanOffer n (k + 1) =
      { s.paced (s.line.pacing ++ [.register]) with scan := { s.scan with owed := some (n, st) } } := by
  rw [State.scanOffer, h]
  dsimp only
  rw [Loan.firstOwed_eq, howed, List.head?_cons]
  dsimp only
  rw [State.offerPaced_again ho hfull]
  rfl

end

/-- A paced kind's completion changes nothing (R11). -/
theorem State.completion_of_paced {payload : Payload} (h : 2 ≤ payload.kind) : s.completion payload = s := by
  cases payload with
  | held _ | bid _ _ => simp [Payload.kind] at h
  | _ => rfl

/-- Settles O30. -/
theorem roomEventServesFirstOwner : Obligations.RoomEventServesFirstOwner := by
  intro s pre post x wave w htx hpre hx hkind hout r paces offers scanned waits idles
  have hr : r = .next (finish w ((s.sentOff (pre ++ post)).roomEvent 5)) := by
    rw [show r = _ from exec_transmitSuccess htx hpre hx hout, State.completion_of_paced hkind]
    rfl
  have hends {t : State} (h : (s.sentOff (pre ++ post)).roomEvent 5 = t) : Ends r w t := .of_eq (h ▸ hr)
  refine ⟨fun hfull _ => hends (State.roomEvent_of_full hfull 5), fun hfree hnd => ⟨fun hidle => hends ?_, ?_, ?_⟩⟩
  · have hempty := State.roomEvent_idle (s := s.sentOff (pre ++ post)) (idle := s.line.pacing) (rest := [])
      (5 - s.line.pacing.length) (List.append_nil _).symm (by rw [List.append_nil]; exact hnd) hfree fun o ho => by
        cases o <;> exact hidle _ ho
    rw [Nat.sub_add_cancel (Nat.le_succ_of_le (length_le_of_nodup hnd))] at hempty
    exact hempty.trans (State.roomEvent_of_empty rfl _)
  · intro idle n st hpacing hidle howed hn
    have hlen := length_le_of_nodup hnd
    rw [hpacing, List.length_append, List.length_singleton] at hlen
    let b : State := (s.sentOff (pre ++ post)).paced [.register]
    have hoffer : b.hasOffer .register = false := by
      have howed' : b.scan.owed = some (n, st) := howed
      have hn' : b.loan? n = none := hn
      rw [State.hasOffer, State.stillOwed, howed']
      dsimp only
      rw [hn']
      rfl
    have hleaves : b.nothingToOffer .register = { paces [] with scan := scanned } := by
      have hscan : (b.leavePacing .register).scan.owed.isSome = true := by
        rw [show (b.leavePacing .register).scan.owed = some (n, st) from howed]
        rfl
      refine (if_pos ⟨rfl, hscan⟩).trans ?_
      rw [State.visitEnd_eq]
      rfl
    have hroom := State.roomEvent_idle (s := s.sentOff (pre ++ post)) (idle := idle) (rest := [.register])
      (4 - idle.length + 1) hpacing (hpacing ▸ hnd) hfree fun o ho => by
        cases o <;> exact hidle _ ho
    rw [show (4 - idle.length + 1) + idle.length = 5 by omega] at hroom
    refine hends (hroom.trans ?_)
    rw [State.roomEvent_nothing (s := b) rfl hfree hoffer, hleaves]
    exact State.roomEvent_of_empty rfl _
  · intro idle rest first hpacing hidle rejoins
    rw [hpacing] at hnd
    let b : State := (s.sentOff (pre ++ post)).paced (first :: rest)
    have hrest : first ∉ rest := (List.nodup_cons.mp (List.nodup_append.mp hnd).2.1).1
    have hoffers {t : State} (hoffer : b.hasOffer first = true) (ht : b.ownerOffer first = t) : Ends r w t :=
      hends ((State.roomEvent_first (s := s.sentOff (pre ++ post)) hpacing hnd hfree (fun o ho => by
        cases o <;> exact hidle _ ho) hoffer).trans ht)
    have hagain (hrejoins : rejoins) (p : Payload) : rest ≠ [] ∨ 12 < (pre ++ post ++
        [(⟨⟨0, s.start.own.getD 0, p⟩, false, false⟩ : TxEntry)]).length :=
      hrejoins.imp_right fun h => by rw [List.length_append]; exact Nat.lt_succ_of_le h
    refine ⟨fun o e why hfirst howed he hwhy => ?_, ?_, ?_, ?_, ?_⟩
    · subst hfirst
      have horder := State.entry?_order he
      have hhead : b.headRelease = some (e, why) := State.headRelease_eq (s := b) howed he hwhy
      have hoffer : b.hasOffer .book = true := by rw [State.hasOffer, hhead]; rfl
      have hbook := State.bookOffer_accepted (k := 16) hhead rfl hrest hfree
      refine ⟨fun hcount => hoffers hoffer (hbook.trans ?_), fun hcount => hoffers hoffer (hbook.trans ?_)⟩
      · rw [State.releaseSent_of_more (more := []) hcount, State.bookOffer_nil rfl, horder]
        · rfl
        · rw [horder]
          exact howed
        · exact List.not_mem_nil
      · rw [State.releaseSent_of_three hcount, State.bookOffer_nil rfl, horder]
        · rfl
        · rw [horder]
          exact howed
    · intro o o' more e e' why hfirst hrejoins howed hmore he hwhy hcount he' howed'
      subst hfirst
      have horder := State.entry?_order he
      have horder' := State.entry?_order he'
      have hhead : b.headRelease = some (e, why) := State.headRelease_eq (s := b) howed he hwhy
      have hoffer : b.hasOffer .book = true := by rw [State.hasOffer, hhead]; rfl
      obtain ⟨why', hwhy'⟩ := Option.ne_none_iff_exists'.mp howed'
      refine hoffers hoffer ((State.bookOffer_accepted (k := 16) hhead rfl hrest hfree).trans ?_)
      rw [State.releaseSent_of_more (more := o' :: more) hcount, State.bookOffer_refused (e := e') (why := why')]
      · rw [horder]
        rfl
      · refine State.headRelease_eq rfl ?_ hwhy'
        refine State.entry?_modEntry_other (s := s) he' (fun heq => hmore ?_) fun _ => rfl
        rw [heq, horder]
        exact List.mem_cons_self
      · exact hrest
      · exact hagain hrejoins _
      · rw [horder]
        exact howed
      · rw [horder]
        exact hmore
    · intro before y after c hfirst hwait houtbox hbefore hc hheld hothers
      subst hfirst
      have hfind : b.returns.outbox.find? (·.offerable) = some y := by
        rw [show b.returns.outbox = before ++ y :: after from houtbox]
        exact find?_offerable hbefore hc hheld
      have hoffer : b.hasOffer .returns = true := by
        rw [State.hasOffer, List.any_eq_true]
        exact ⟨y, List.mem_of_find?_eq_some hfind, List.find?_some hfind⟩
      have hkept : b.returns.outbox.filter (·.loan != y.loan) = before ++ after := by
        rw [show b.returns.outbox = before ++ y :: after from houtbox, List.filter_append, List.filter_cons_of_neg (by simp),
          List.filter_eq_self.mpr, List.filter_eq_self.mpr]
        · exact fun z hz => bne_iff_ne.mpr (hothers z (List.mem_append_right _ hz))
        · exact fun z hz => bne_iff_ne.mpr (hothers z (List.mem_append_left _ hz))
      have hreturned := State.returnsOffer_accepted (k := 16) hfind hc hwait rfl hrest hfree
      rw [hkept] at hreturned
      refine ⟨fun hafter => hoffers hoffer (hreturned.trans ?_), fun z hz hrejoins hoffers' =>
        hoffers hoffer (hreturned.trans ?_)⟩
      · rw [State.returnsOffer_nil]
        · rfl
        · intro z hz
          rcases List.mem_append.mp hz with hz | hz
          · exact hbefore z hz
          · exact hafter z hz
      · obtain ⟨z', hz'⟩ : ∃ z', (before ++ after).find? (·.offerable) = some z' := by
          rw [← Option.isSome_iff_exists, List.find?_isSome]
          refine ⟨z, List.mem_append_right _ hz, ?_⟩
          rw [← Bool.not_eq_false, OutEntry.not_offerable_iff]
          exact hoffers'
        rw [State.returnsOffer_refused]
        · rfl
        · exact hz'
        · exact hrest
        · exact hagain hrejoins _
    · intro q line t n more l e hfirst hlisten hline ht hstate hloans hl he day due serial ships
      subst hfirst
      have hnumber := State.loan?_number hl
      have hnext : b.nextToShip = some (q, t, l) := State.nextToShip_eq (s := b) hline ht hloans hl
      have hoffer : b.hasOffer .tray = true := by
        rw [State.hasOffer, hnext, show (b.line.state != .listen) = true from bne_iff_ne.mpr hlisten]
        rfl
      have hhead := State.trayOffer_head (s := b) (k := 16) hlisten hnext rfl hrest hfree
      have hship {u : State} (h : ((b.offered (b.shippedFrame l) rest).shipLoan q t l).trayOffer 16 = u) : Ends r w u :=
        hoffers hoffer (hhead.trans h)
      have hframe : b.offered (b.shippedFrame l) rest = offers rest (.shipped l.order n serial day due) := by
        rw [State.shippedFrame, hnumber]
        rfl
      rw [hframe] at hship
      have he' : (offers rest (.shipped l.order n serial day due)).entryOfLoan? n = some e := he
      refine ⟨fun hmore hempty => hship ?_, fun n' more' l' hmore hl' hrejoins => hship ?_,
        fun q' line' t' n' more' l' hmore hnext' hq ht' hloans' hl' hrejoins => hship ?_⟩
      · have hline' : (s.tables.dispatchLine.filter fun p => p != q) = [] := by rw [hline, hempty]; simp
        rw [State.shipLoan_last (e := e) hnumber (hmore ▸ hloans) (by rw [hstate]; exact nofun) he',
          State.trayOffer_nil 16 (State.nextToShip_nil hline')]
        exact congrArg (ships rest none) hline'
      · subst hmore
        obtain ⟨y, hy⟩ := State.loan?_modLoan_isSome (n := n) (f := fun y =>
          { y with state := .shipped, dispatchDay := some day, dueDay := some due, tray := none }) hl' fun _ => rfl
        have hnext' : (ships rest (some { t with loans := n' :: more', load := t.load - l.mailUnits }) (q :: line)).nextToShip =
            some (q, { t with loans := n' :: more', load := t.load - l.mailUnits }, y) :=
          State.nextToShip_eq rfl ((State.tray_setTray (s := s) _ q).trans (if_pos rfl)) rfl hy
        have hstays : (offers rest (.shipped l.order n serial day due)).shipLoan q t l =
            ships rest (some { t with loans := n' :: more', load := t.load - l.mailUnits }) (q :: line) := by
          rw [State.shipLoan_more (e := e) hnumber hloans he']
          exact congrArg (ships rest (some { t with loans := n' :: more', load := t.load - l.mailUnits })) hline
        rw [hstays, State.trayOffer_again
          (s := ships rest (some { t with loans := n' :: more', load := t.load - l.mailUnits }) (q :: line)) hlisten hnext' hrest (hagain hrejoins _)]
        rfl
      · obtain ⟨y, hy⟩ := State.loan?_modLoan_isSome (n := n) (f := fun y =>
          { y with state := .shipped, dispatchDay := some day, dueDay := some due, tray := none }) hl' fun _ => rfl
        have hq' : q' ≠ q := fun heq => hq (by rw [hnext', heq]; exact List.mem_cons_self)
        have hline' : (s.tables.dispatchLine.filter fun p => p != q) = line := by
          rw [hline, List.filter_cons_of_neg (by simp), List.filter_eq_self]
          exact fun p hp => bne_iff_ne.mpr fun heq => hq (heq ▸ hp)
        have hnextTray : (ships rest none line).nextToShip = some (q', t', y) :=
          State.nextToShip_eq hnext' ((State.tray_setTray (s := s) _ q').trans ((if_neg hq').trans ht')) hloans' hy
        have hfreed : (offers rest (.shipped l.order n serial day due)).shipLoan q t l = ships rest none line := by
          rw [State.shipLoan_last (e := e) hnumber (hmore ▸ hloans) (by rw [hstate]; exact nofun) he']
          exact congrArg (ships rest none) hline'
        rw [hfreed, State.trayOffer_again (s := ships rest none line) hlisten hnextTray hrest (hagain hrejoins _)]
        rfl
    · intro n l hfirst howed hl hsent hrecovery hout notice
      subst hfirst
      have howes : l.owes .overdue = (l.state == .overdue || l.state == .lost) := by rw [Loan.owes, hsent]; simp
      have hgoes {sts : List LoanStatus} (hlate : l.state = .overdue ∨ l.state = .lost)
          (hnotices : l.owedNotices = .overdue :: sts) {u : State}
          (h : (notice rest).scanOffer n 3 = u) : Ends r w u := by
        have hstill : b.stillOwed = some n := by
          rw [State.stillOwed, show b.scan.owed = some (n, .overdue) from howed]
          dsimp only
          rw [show b.loan? n = some l from hl]
          dsimp only
          rw [howes, if_pos (by simpa using hlate)]
        refine hoffers (by rw [State.hasOffer, hstill]; rfl) ?_
        rw [State.ownerOffer, hstill]
        exact (State.scanOffer_head (s := b) (k := 3) hl hnotices hout rfl hrest hfree).trans h
      have hsaid : (notice rest).loan? n = some (l.noticeSent .overdue) :=
        State.loan?_modLoan (s := s) (f := fun y => { y with overdueSent := true }) hl fun _ => rfl
      refine ⟨fun hstate => ?_, fun hstate hunsent hnone hrejoins => ?_⟩
      · have hnotices : l.owedNotices = [.overdue] := by
          rw [Loan.owedNotices_eq, if_pos ⟨.inl hstate, hsent⟩, if_neg (by rw [hstate]; simp), if_neg hrecovery]
          rfl
        refine hgoes (.inl hstate) hnotices ?_
        rw [State.scanOffer_done hsaid (Loan.owedNotices_noticeSent hnotices), State.visitEnd_eq]
        have hany := any_aboveLast_map (n := n) (f := fun y : Loan => { y with overdueSent := true }) (fun _ => rfl) s.scan.last
          s.tables.loans
        exact congrArg (fun above => ({ notice rest with scan := s.scan.visited above } : State)) hany
      · have hnotices : l.owedNotices = [.overdue, .lost] := by
          rw [Loan.owedNotices_eq, if_pos ⟨.inr hstate, hsent⟩, if_pos ⟨hstate, hunsent, hnone⟩, if_neg hrecovery]
          rfl
        refine hgoes (.inr hstate) hnotices ?_
        rw [State.scanOffer_again hsaid (Loan.owedNotices_noticeSent hnotices) hrest (hagain hrejoins _)]
        rfl

end Sys2Proof.Machine
end

section
/-! PROOFS. The tests that end an event (R78, R80, R83, R97, R99, R111): O7. -/

namespace Sys2Proof.Machine

variable {s t : State} {n : Idx8}

/-! ### One round of the tests -/

/-- The state once the refused requests have been taken. -/
def State.drained (s : State) : State := if s.anyRefused then s.drainRefused else s

theorem State.anyRefused_eq_false : s.anyRefused = false ↔ ∀ n, (s.socket n).op ≠ some .refused := by
  rw [State.anyRefused, List.any_eq_false]
  exact ⟨fun h n hn => h n (List.mem_finRange n) (beq_iff_eq.mpr hn), fun h n _ hn => h n (beq_iff_eq.mp hn)⟩

theorem State.drained_of_accepted (h : ∀ n, (s.socket n).op ≠ some .refused) : s.drained = s :=
  if_neg (by rw [State.anyRefused_eq_false.mpr h]; exact Bool.false_ne_true)

/-- What an event ends as hangs on the round of tests after the refusals. -/
theorem finish_congr (w : RecordWrite) (h : s.drained.tests = t.drained.tests) : finish w s = finish w t := by
  have hround (u : State) : u.settle 40 = if u.drained.tests.anyRefused then u.drained.tests.settle 39 else u.drained.tests :=
    rfl
  rw [finish, finish, hround, hround, h]

/-! ### The refused requests (R78, R80, R83) -/

/-- One socket's turn as the refusals are taken. -/
def State.takeRefusal (s : State) (n : Idx8) : State :=
  if (s.socket n).op = some .refused then (s.clearOp n).opFailed n else s

theorem State.drainRefused_eq : s.drainRefused = allSockets.foldl State.takeRefusal s := rfl

theorem State.takeRefusal_of_accepted (h : (s.socket n).op ≠ some .refused) : s.takeRefusal n = s := if_neg h

theorem foldl_takeRefusal_of_accepted {ns : List Idx8} (h : ∀ n ∈ ns, (s.socket n).op ≠ some .refused) :
    ns.foldl State.takeRefusal s = s := by
  induction ns with
  | nil => rfl
  | cons n ns ih =>
    rw [List.foldl_cons, State.takeRefusal_of_accepted (h n List.mem_cons_self)]
    exact ih fun q hq => h q (List.mem_cons_of_mem _ hq)

theorem State.drained_eq : s.drained = allSockets.foldl State.takeRefusal s := by
  unfold State.drained
  split
  · rfl
  next h =>
    rw [Bool.not_eq_true, State.anyRefused_eq_false] at h
    exact (foldl_takeRefusal_of_accepted fun n _ => h n).symm

/-- The first refusal taken, the others follow as for the state it leaves. -/
theorem State.drained_first (hn : (s.socket n).op = some .refused) (hlow : ∀ q < n, (s.socket q).op ≠ some .refused)
    (ht : (s.clearOp n).opFailed n = t) (hdone : ∀ q ≤ n, (t.socket q).op ≠ some .refused) : s.drained = t.drained := by
  obtain ⟨below, above, hsplit, hbelow⟩ : ∃ below above, allSockets = below ++ n :: above ∧ ∀ q ∈ below, q < n := by
    obtain ⟨below, above, hsplit⟩ := List.append_of_mem (List.mem_finRange n)
    have hpair := List.pairwise_lt_finRange 8
    rw [hsplit, List.pairwise_append] at hpair
    exact ⟨below, above, hsplit, fun q hq => hpair.2.2 q hq n List.mem_cons_self⟩
  have htaken : s.takeRefusal n = t := (if_pos hn).trans ht
  rw [State.drained_eq, State.drained_eq, hsplit, List.foldl_append, List.foldl_append, List.foldl_cons, List.foldl_cons,
    foldl_takeRefusal_of_accepted fun q hq => hlow q (hbelow q hq), htaken,
    foldl_takeRefusal_of_accepted fun q hq => hdone q (Fin.le_of_lt (hbelow q hq)),
    State.takeRefusal_of_accepted (hdone n (Fin.le_refl n))]

/-! ### The dispatch test (R97) -/

theorem State.dispatchAll_none {k : Nat} (h : s.dispatchHead = none) : s.dispatchAll k = s := by
  cases k with
  | zero => rfl
  | succ k => rw [State.dispatchAll, h]

theorem State.dispatchHead_nil (h : s.copy.queue = []) : s.dispatchHead = none := by rw [State.dispatchHead, h]

theorem State.dispatchHead_eq_none {j : Job} {rest : List Job} (h : s.copy.queue = j :: rest) :
    s.dispatchHead = none ↔ s.chooseBlank j.len allSockets = none ∨ s.freeBuffer? = none := by
  rw [State.dispatchHead, h]
  dsimp only
  cases s.chooseBlank j.len allSockets <;> cases s.freeBuffer? <;> simp

theorem State.freeBuffer?_eq_none : s.freeBuffer? = none ↔ ∀ b, (s.buffer b).owner ≠ .free := by
  rw [State.freeBuffer?, List.find?_eq_none]
  exact ⟨fun h b hb => h b (List.mem_finRange b) (beq_iff_eq.mpr hb), fun h b _ hb => h b (beq_iff_eq.mp hb)⟩

theorem State.freeBuffer?_eq_some {b : Fin 4} (h : (s.buffer b).owner = .free) (hlow : ∀ q < b, (s.buffer q).owner ≠ .free) :
    s.freeBuffer? = some b :=
  find?_finRange_eq_some_iff.mpr ⟨beq_iff_eq.mpr h, fun q hq => by simpa using hlow q hq⟩

theorem State.role_eq_copy_iff : s.role n = .copy ↔ s.line.state ≠ .listen ∧ s.cfg.roles[n] = .copy := by
  unfold State.role
  split
  next h => simp [h]
  next h => simp [h]

/-! ### The cleaning test (R111) -/

/-- Whether a socket holds a dirty blank that may clean. -/
def State.cleans (s : State) (n : Idx8) : Prop :=
  s.line.state ≠ .listen ∧ s.cfg.roles[n] = .copy ∧ (s.socket n).state = .blank false


/-- A socket's record as its cleaning begins. -/
def Socket.cleaning (k : Socket) : Socket := { k with state := .cleaning .sector }.startGuarded (.sectorClear 1)

theorem State.startCleaning_eq : s.startCleaning n = s.setSocket n (s.socket n).cleaning := by
  rw [State.startCleaning, State.putSock, State.modSocket, State.startGuarded, State.modSocket_setSocket]
  rfl

theorem State.setSocket_socket : s.setSocket n (s.socket n) = s := by
  simp only [State.setSocket, State.socket, Fin.getElem_fin, Vector.set_getElem_self]

theorem foldl_sockets {step : State → Idx8 → State} {f : Idx8 → Socket → Socket}
    (hstep : ∀ v n, step (s.withSockets v) n = (s.withSockets v).setSocket n (f n ((s.withSockets v).socket n))) :
    allSockets.foldl step s = s.withSockets (Vector.ofFn fun q => f q (s.socket q)) := by
  suffices hgen : ∀ (ns : List Idx8) (v : Vector Socket 8), ns.Nodup →
      ns.foldl step (s.withSockets v) = s.withSockets (Vector.ofFn fun q => if q ∈ ns then f q v[q] else v[q]) by
    have hmem (q : Idx8) : q ∈ allSockets := List.mem_finRange q
    have hfold := hgen allSockets s.sockets (List.nodup_finRange 8)
    simp only [hmem, if_true] at hfold
    exact hfold
  intro ns
  induction ns with
  | nil =>
    intro v _
    have : (Vector.ofFn fun q : Idx8 => if q ∈ ([] : List Idx8) then f q v[q] else v[q]) = v := by
      ext i hi
      simp
    rw [this]
    rfl
  | cons n ns ih =>
    intro v hnd
    rw [List.nodup_cons] at hnd
    have hset : (s.withSockets v).setSocket n (f n ((s.withSockets v).socket n)) =
        s.withSockets (v.set n.val (f n v[n]) n.isLt) := rfl
    rw [List.foldl_cons, hstep, hset, ih _ hnd.2]
    refine congrArg s.withSockets (congrArg Vector.ofFn (funext fun q => ?_))
    by_cases hq : q = n
    · subst hq
      simp [hnd.1]
    · have hval : n.val ≠ q.val := fun h => hq (Fin.ext h.symm)
      simp [hq, hval]

theorem State.cleanTest_eq (h : s.copy.queue = []) : s.cleanTest =
    s.withSockets (Vector.ofFn fun q =>
      if s.role q == .copy && (s.socket q).state == .blank false then (s.socket q).cleaning else s.socket q) := by
  rw [State.cleanTest, h, List.isEmpty_nil, if_pos rfl]
  refine foldl_sockets (f := fun q k => if s.role q == .copy && k.state == .blank false then k.cleaning else k) fun v n => ?_
  have hrole : (s.withSockets v).role n = s.role n := rfl
  rw [hrole]
  split
  · exact State.startCleaning_eq
  · exact State.setSocket_socket.symm

theorem State.cleans_iff : (s.role n == .copy && (s.socket n).state == .blank false) = true ↔ s.cleans n := by
  rw [Bool.and_eq_true, beq_iff_eq, beq_iff_eq, State.role_eq_copy_iff, State.cleans, and_assoc]

theorem State.cleanTest_of_none (h : s.copy.queue = [] → ∀ n, ¬ s.cleans n) : s.cleanTest = s := by
  by_cases hq : s.copy.queue = []
  · have hsame : (Vector.ofFn fun q : Idx8 =>
        if s.role q == .copy && (s.socket q).state == .blank false then (s.socket q).cleaning else s.socket q) = s.sockets := by
      ext i hi
      rw [Vector.getElem_ofFn, if_neg (mt State.cleans_iff.mp (h hq ⟨i, hi⟩))]
      rfl
    rw [State.cleanTest_eq hq, hsame]
    rfl
  · exact if_neg (mt List.isEmpty_iff.mp hq)

theorem Socket.cleaning_of_stock {k : Socket} {v : View} (hv : k.view = some v) (hk : v.kind = .stock) :
    k.cleaning =
      { k with
        state := .cleaning .sector, op := some (.guarded (.sectorClear 1) (.beforeCommand (some k.link))), hold := none
        link := k.link.unlock } := by
  refine Socket.startGuarded_of_ok (k := { k with state := .cleaning .sector }) hv ?_
  exact guardOk_sectorClear_iff.mpr ⟨by rw [hk]; decide, by decide, by have := v.capacity.blocks_pos; omega⟩

/-! ### The free buffers (R99) -/

theorem State.serveIngest_nil {k : Nat} (h : s.copy.ingestWait = [] ∨ s.freeBuffer? = none) : s.serveIngest k = s := by
  cases k with
  | zero => rfl
  | succ k =>
    rw [State.serveIngest]
    rcases h with h | h
    · rw [h]
    · cases s.copy.ingestWait <;> simp [h]

/-- The first ingest that waits takes a free buffer, and reads its block. -/
theorem State.serveIngest_cons {k : Nat} {ns : List Idx8} {b : Fin 4} {i : Ingest} (hwait : s.copy.ingestWait = n :: ns)
    (hb : s.freeBuffer? = some b) (hi : (s.socket n).state = .ingesting i) :
    s.serveIngest (k + 1) =
      (State.ingestTakes { s with copy := { s.copy with ingestWait := ns } } n i b).serveIngest k := by
  rw [State.serveIngest, hwait, hb]
  dsimp only
  have hi' : (State.socket { s with copy := { s.copy with ingestWait := ns } } n).state = .ingesting i := hi
  rw [hi']

theorem State.ingestTakes_wait {i : Ingest} {b : Fin 4} :
    (s.ingestTakes n i b).copy.ingestWait = s.copy.ingestWait := rfl

/-- More turns than ingests that wait change nothing. -/
theorem State.serveIngest_enough {k : Nat} (h : s.copy.ingestWait.length ≤ k) : s.serveIngest (k + 1) = s.serveIngest k := by
  induction k generalizing s with
  | zero =>
    have hnil : s.copy.ingestWait = [] := List.length_eq_zero_iff.mp (Nat.le_zero.mp h)
    rw [State.serveIngest_nil (.inl hnil), State.serveIngest_nil (.inl hnil)]
  | succ k ih =>
    cases hwait : s.copy.ingestWait with
    | nil => rw [State.serveIngest_nil (.inl hwait), State.serveIngest_nil (.inl hwait)]
    | cons n ns =>
      cases hb : s.freeBuffer? with
      | none => rw [State.serveIngest_nil (.inr hb), State.serveIngest_nil (.inr hb)]
      | some b =>
        rw [hwait, List.length_cons] at h
        rw [State.serveIngest.eq_2 s (k + 1), State.serveIngest.eq_2 s k, hwait, hb]
        dsimp only
        split
        · exact ih (Nat.le_of_succ_le_succ h)
        · exact ih (Nat.le_of_succ_le_succ h)

/-! ### The event's end -/

/-- An event whose end has no test to act on is left with its record memory write. -/
theorem State.quiet_of_none (haccepted : ∀ n, (s.socket n).op ≠ some .refused) (hhead : s.dispatchHead = none)
    (hclean : s.copy.queue = [] → ∀ n, ¬ s.cleans n) (hwait : s.copy.ingestWait = [] ∨ s.freeBuffer? = none) :
    s.quiet = true := by
  rw [State.quiet, State.anyRefused_eq_false.mpr haccepted, Bool.and_eq_true, Bool.and_eq_true]
  refine ⟨⟨rfl, ?_⟩, ?_⟩
  · split
    next hq =>
      refine List.all_eq_true.mpr fun n _ => ?_
      rw [Bool.not_eq_true']
      exact Bool.eq_false_iff.mpr (mt State.cleans_iff.mp (hclean hq n))
    next j js hq => rcases (State.dispatchHead_eq_none hq).mp hhead with h | h <;> simp [h]
  · rcases hwait with h | h <;> simp [h]

theorem Socket.startRead_of_ok {k : Socket} {v : View} {a c : Nat} (hv : k.view = some v)
    (h : a + c ≤ v.capacity.blocks * 65536) : k.startRead a c = { k with op := some (.read a c), hold := none } := by
  rw [Socket.startRead, hv, if_pos]
  exact decide_eq_true h

/-- A socket's record as its ingest takes a buffer and reads its block (R122). -/
def Socket.ingestReads (k : Socket) (i : Ingest) (b : Fin 4) : Socket :=
  { k with state := .ingesting { i with buffer := some b }, op := some (.read (i.index * 65536) 65536), hold := none }

theorem State.ingestTakes_eq {i : Ingest} {b : Fin 4} {v : View} (hv : (s.socket n).view = some v)
    (hindex : i.index < v.capacity.blocks) :
    s.ingestTakes n i b =
      (s.setBuffer b ⟨.ingest n, [], none⟩).setSocket n ((s.socket n).ingestReads i b) := by
  rw [State.ingestTakes, State.putSock, State.modSocket, State.startBlockRead, State.modSocket_setSocket]
  refine congrArg _ (Socket.startRead_of_ok hv ?_)
  omega

theorem State.fittingBlank_congr (len : Nat) (hrole : t.role n = s.role n) (hsocket : t.socket n = s.socket n) :
    t.fittingBlank len n = s.fittingBlank len n := by
  rw [State.fittingBlank, State.fittingBlank, hrole, hsocket]

theorem State.fittingBlank_of_not_blank (len : Nat) (h : ∀ c, (s.socket n).state ≠ .blank c) : s.fittingBlank len n = none := by
  unfold State.fittingBlank
  split
  next c v _ hs _ => exact absurd hs (h c)
  next => rfl

/-- Settles O7. -/
theorem endOfEventFrame : Obligations.EndOfEventFrame := by
  intro w s accepted cleans
  refine ⟨fun n hn hlow => ?_, fun hacc hqueue hviews => ?_, fun hacc hhead hclean => ⟨fun hwait => ?_, ?_⟩, ?_⟩
  · intro t hdone
    refine finish_congr w (congrArg State.tests (State.drained_first hn hlow ?_ hdone))
    rfl
  · obtain ⟨v, hv⟩ : ∃ v : Vector Socket 8, v = Vector.ofFn fun q : Idx8 =>
        if s.role q == .copy && (s.socket q).state == .blank false then (s.socket q).cleaning else s.socket q := ⟨_, rfl⟩
    have hcleaned : s.cleanTest = s.withSockets v := hv ▸ State.cleanTest_eq hqueue
    have hcleans {n : Idx8} (hn : cleans n) : v[n] =
        { s.socket n with
          state := .cleaning .sector, op := some (.guarded (.sectorClear 1) (.beforeCommand (some (s.socket n).link)))
          hold := none, link := (s.socket n).link.unlock } := by
      obtain ⟨u, hu, hk⟩ := hviews n hn
      rw [hv, Fin.getElem_fin, Vector.getElem_ofFn, if_pos (State.cleans_iff.mpr hn), Socket.cleaning_of_stock hu hk]
    have hstays {n : Idx8} (hn : ¬ cleans n) : v[n] = s.socket n := by
      rw [hv, Fin.getElem_fin, Vector.getElem_ofFn, if_neg (mt State.cleans_iff.mp hn)]
    refine ⟨v, fun n => ⟨hcleans, hstays⟩, finish_congr (t := s.withSockets v) w ?_⟩
    have hacc' : ∀ n, ((s.withSockets v).socket n).op ≠ some .refused := fun n => by
      rw [show (s.withSockets v).socket n = v[n] from rfl]
      by_cases hn : cleans n
      · rw [hcleans hn]; exact nofun
      · rw [hstays hn]; exact hacc n
    have hclean' : (s.withSockets v).cleanTest = s.withSockets v := State.cleanTest_of_none fun _ n hn => by
      obtain ⟨hline, hrole, hstate⟩ := hn
      rw [show (s.withSockets v).socket n = v[n] from rfl] at hstate
      by_cases hn : cleans n
      · rw [hcleans hn] at hstate
        cases hstate
      · rw [hstays hn] at hstate
        exact hn ⟨hline, hrole, hstate⟩
    have hqueue' : (s.withSockets v).copy.queue = [] := hqueue
    rw [State.drained_of_accepted hacc, State.drained_of_accepted hacc', State.tests, State.tests,
      State.dispatchAll_none (State.dispatchHead_nil hqueue), State.dispatchAll_none (State.dispatchHead_nil hqueue'), hcleaned,
      hclean']
  · refine finish_of_quiet (State.quiet_of_none hacc hhead hclean (hwait.imp_right State.freeBuffer?_eq_none.mpr)) w
  · intro n ns b i v hwait hlen hb hlow hi hv hindex
    obtain ⟨t, ht⟩ : ∃ t, t = State.ingestTakes { s with copy := { s.copy with ingestWait := ns } } n i b := ⟨_, rfl⟩
    have hserved : t = State.setSocket
        { s.setBuffer b ⟨.ingest n, [], none⟩ with
          copy := { (s.setBuffer b ⟨.ingest n, [], none⟩).copy with ingestWait := ns } } n ((s.socket n).ingestReads i b) :=
      ht.trans (State.ingestTakes_eq (s := { s with copy := { s.copy with ingestWait := ns } }) hv hindex)
    have hsocket (q : Idx8) : t.socket q = if q = n then (s.socket n).ingestReads i b else s.socket q := by
      rw [hserved]
      exact State.socket_setSocket _ q
    have hqueue : t.copy.queue = s.copy.queue := by rw [ht]; rfl
    have hdone : t.copy.ingestWait = ns := by rw [ht]; rfl
    have hrole (q : Idx8) : t.role q = s.role q := by rw [ht]; rfl
    have hreads : (t.socket n).state = .ingesting { i with buffer := some b } := by rw [hsocket, if_pos rfl]; rfl
    have hblank : t.fittingBlank = s.fittingBlank := by
      funext len q
      by_cases hq : q = n
      · subst hq
        rw [State.fittingBlank_of_not_blank len, State.fittingBlank_of_not_blank len]
        · rw [hi]; exact fun c => nofun
        · rw [hreads]; exact fun c => nofun
      · exact State.fittingBlank_congr len (hrole q) ((hsocket q).trans (if_neg hq))
    have hhead' : t.dispatchHead = none := by
      cases hjobs : s.copy.queue with
      | nil => exact State.dispatchHead_nil (hqueue.trans hjobs)
      | cons j js =>
        refine (State.dispatchHead_eq_none (hqueue.trans hjobs)).mpr (.inl ?_)
        rw [State.chooseBlank, hblank]
        refine ((State.dispatchHead_eq_none hjobs).mp hhead).resolve_right fun hnone => ?_
        exact State.freeBuffer?_eq_none.mp hnone b hb
    have hclean' : t.cleanTest = t := State.cleanTest_of_none fun hq q hc => by
      obtain ⟨hline, hcopy, hstate⟩ := hc
      by_cases hqn : q = n
      · rw [hqn, hreads] at hstate
        cases hstate
      · rw [hsocket, if_neg hqn] at hstate
        refine hclean (hqueue.symm.trans hq) q ⟨?_, ?_, hstate⟩
        · rw [hserved] at hline
          exact hline
        · rw [hserved] at hcopy
          exact hcopy
    have hacc' : ∀ q, (t.socket q).op ≠ some .refused := fun q => by
      rw [hsocket]
      split
      · exact nofun
      · exact hacc q
    refine (finish_congr w ?_).trans (congrArg (finish w) hserved)
    rw [State.drained_of_accepted hacc, State.drained_of_accepted hacc', State.tests, State.tests,
      State.dispatchAll_none hhead, State.dispatchAll_none hhead', State.cleanTest_of_none hclean, hclean',
      State.serveIngest_cons hwait (State.freeBuffer?_eq_some hb hlow) hi, ← ht]
    exact (State.serveIngest_enough (by rw [hdone]; omega)).symm
  · obtain ⟨hpending, htime, hstart, hcfg, hnv, hline, hbench, -⟩ : Within s (s.settle 40) := (Within.refl s).settle 40
    rw [finish]
    generalize s.settle 40 = u at hpending htime hstart hcfg hnv hline hbench
    rcases commit_cases w u with ⟨-, h⟩ | ⟨hwritable, -, h⟩ | ⟨-, -, -, h⟩ | ⟨hwritable, -, -, h⟩
    · rw [h]
      exact ⟨hpending, htime, hcfg, hline, hbench, hstart ▸ rfl, hnv ▸ rfl, fun _ => ⟨hstart, hnv⟩⟩
    · rw [h]
      exact ⟨hpending, htime, hcfg, hline, hbench, hstart ▸ rfl, hnv ▸ rfl, fun hno => by
        rw [hstart, hno] at hwritable
        cases hwritable⟩
    · rw [h]
      exact ⟨hpending, htime, hcfg, hline, hbench, hstart ▸ rfl, hnv ▸ rfl, fun _ => ⟨hstart, hnv⟩⟩
    · rw [h, State.raise_eq]
      refine ⟨hpending, htime, hcfg, hline, ?_, hstart ▸ rfl, hnv ▸ rfl, fun hno => ?_⟩
      · rw [hbench]
        unfold Bench.raised
        dsimp only
        split <;> rfl
      · rw [hstart, hno] at hwritable
        cases hwritable

end Sys2Proof.Machine
end

section
/-! PROOFS. The dispatch test and the gang it forms (R97, R98, R100, R102, R103): O53. -/

namespace Sys2Proof.Machine

variable {s t : State} {n : Idx8} {j : Job} {b : Fin 4}

/-! ### The choice of a blank (R97) -/

/-- The blank given to a job among those not yet taken: the lowest clean one, or else the lowest dirty one. -/
def State.chosen (s : State) (taken : List Idx8) (len : Nat) (n : Idx8) : Prop :=
  n ∉ taken ∧ ∃ clean, s.fittingBlank len n = some clean ∧
    ∀ q c, q ∉ taken → s.fittingBlank len q = some c → (c = clean → n ≤ q) ∧ (c = true → clean = true)

def remaining (taken : List Idx8) : List Idx8 := allSockets.filter fun q => decide (q ∉ taken)

theorem remaining_nil : remaining [] = allSockets := List.filter_eq_self.mpr fun q _ => by simp

theorem remaining_filter (taken : List Idx8) (n : Idx8) :
    (remaining taken).filter (fun q => q != n) = remaining (taken ++ [n]) := by
  rw [remaining, remaining, List.filter_filter]
  refine congrArg (List.filter · allSockets) (funext fun q => ?_)
  by_cases h : q = n <;> simp [h]

theorem find?_remaining {taken : List Idx8} {p : Idx8 → Bool} :
    (remaining taken).find? p = some n ↔ (n ∉ taken ∧ p n = true) ∧ ∀ q < n, q ∉ taken → p q = false := by
  rw [remaining, List.find?_filter]
  refine find?_finRange_eq_some_iff.trans ?_
  simp

theorem State.chooseBlank_of_chosen {len : Nat} {taken : List Idx8} (h : s.chosen taken len n) :
    s.chooseBlank len (remaining taken) = some n := by
  obtain ⟨hn, clean, hfit, hbest⟩ := h
  rw [State.chooseBlank]
  have hlow {c : Bool} (hc : c = clean) : (remaining taken).find? (fun q => s.fittingBlank len q == some c) = some n := by
    refine find?_remaining.mpr ⟨⟨hn, beq_iff_eq.mpr (hc ▸ hfit)⟩, fun q hq htaken => ?_⟩
    refine beq_eq_false_iff_ne.mpr fun hq' => ?_
    exact absurd ((hbest q c htaken hq').1 hc) (Fin.not_le.mpr hq)
  cases clean with
  | true => rw [hlow rfl, Option.some_or]
  | false =>
    have hnone : (remaining taken).find? (fun q => s.fittingBlank len q == some true) = none := by
      refine List.find?_eq_none.mpr fun q hq hq' => ?_
      have htaken : q ∉ taken := of_decide_eq_true (List.mem_filter.mp hq).2
      exact Bool.false_ne_true ((hbest q true htaken (beq_iff_eq.mp hq')).2 rfl)
    rw [hnone, hlow rfl, Option.none_or]

theorem State.chooseBlank_of_none {len : Nat} {taken : List Idx8} (h : ∀ q, q ∉ taken → s.fittingBlank len q = none) :
    s.chooseBlank len (remaining taken) = none := by
  have hnone (c : Bool) : (remaining taken).find? (fun q => s.fittingBlank len q == some c) = none :=
    List.find?_eq_none.mpr fun q hq => by
      rw [h q (of_decide_eq_true (List.mem_filter.mp hq).2)]
      exact Bool.false_ne_true
  rw [State.chooseBlank, hnone, hnone]
  rfl

/-! ### The jobs that join the gang (R98) -/

theorem State.gather_stops {w : Work} {rest : List Job} {taken : List Idx8} {k : Nat}
    (h : ∀ j, rest.head? = some j → j.work ≠ w ∨ 8 ≤ k ∨ ∀ q, q ∉ taken → s.fittingBlank j.len q = none) :
    s.gather w rest (remaining taken) k = ([], rest) := by
  cases rest with
  | nil => rfl
  | cons j rest =>
    rw [State.gather]
    split
    next hjoin =>
      have hnone := ((h j rfl).resolve_left (not_not.mpr hjoin.1)).resolve_left (Nat.not_le.mpr hjoin.2)
      rw [State.chooseBlank_of_none hnone]
    next => rfl

theorem State.gather_eq {w : Work} {js rest : List Job} {ns taken : List Idx8} {k : Nat} (hlen : ns.length = js.length)
    (hk : k + js.length ≤ 8) (hwork : ∀ j ∈ js, j.work = w)
    (hchosen : ∀ i j n, js[i]? = some j → ns[i]? = some n → s.chosen (taken ++ ns.take i) j.len n)
    (hrest : ∀ j, rest.head? = some j →
      j.work ≠ w ∨ 8 ≤ k + js.length ∨ ∀ q, q ∉ taken ++ ns → s.fittingBlank j.len q = none) :
    s.gather w (js ++ rest) (remaining taken) k = (ns.zip js, rest) := by
  induction js generalizing ns taken k with
  | nil =>
    obtain rfl : ns = [] := List.length_eq_zero_iff.mp hlen
    rw [List.append_nil] at hrest
    exact State.gather_stops hrest
  | cons j js ih =>
    obtain ⟨n, ns, rfl⟩ : ∃ n ns', ns = n :: ns' := List.exists_cons_of_length_eq_add_one hlen
    rw [List.length_cons] at hk hrest
    have hfirst : s.chosen taken j.len n := by
      have := hchosen 0 j n rfl rfl
      rwa [List.take_zero, List.append_nil] at this
    have htail : s.gather w (js ++ rest) (remaining (taken ++ [n])) (k + 1) = (ns.zip js, rest) := by
      refine ih (Nat.succ.inj hlen) (by omega) (fun y hy => hwork y (List.mem_cons_of_mem _ hy)) (fun i y m hy hm => ?_)
        fun y hy => ?_
      · have := hchosen (i + 1) y m hy hm
        rwa [List.take_succ_cons, List.append_cons] at this
      · have := hrest y hy
        rwa [List.append_cons, ← Nat.add_assoc, Nat.add_right_comm] at this
    rw [List.cons_append, State.gather, if_pos ⟨hwork j List.mem_cons_self, by omega⟩, State.chooseBlank_of_chosen hfirst]
    dsimp only
    rw [remaining_filter, htail]
    rfl

/-! ### A socket takes its job (R103) -/

/-- A socket's record as it takes a job. -/
def Socket.takes (k : Socket) (id : Nat) (j : Job) (clean : Bool) : Socket :=
  { k with
    state := .copying ⟨id, { j with cleanNeeded := !clean }, .preparing⟩, hold := none
    op := some (.guarded (if clean then markerWrite 0 else .sectorClear 1) (.beforeCommand (some k.link)))
    link := k.link.unlock }

/-- A loan's record once the jobs of these loans have started (R57). -/
def Loan.started (l : Loan) (ns : List LoanNo) : Loan :=
  if l.number ∈ ns ∧ l.cart.any (fun c => c.path == .copy && c.status == .queued) then
    { l with cart := l.cart.map fun c => { c with status := .copying } }
  else l

theorem State.state_of_fittingBlank {len : Nat} {clean : Bool} (h : s.fittingBlank len n = some clean) :
    (s.socket n).state = .blank clean := by
  unfold State.fittingBlank at h
  split at h
  next c v _ hs _ =>
    split at h
    · rw [hs, Option.some.inj h]
    · cases h
  next => cases h

def State.withLoans (s : State) (f : Loan → Loan) : State :=
  { s with tables := { s.tables with loans := s.tables.loans.map f } }

theorem State.cartReport_started {m : LoanNo} : s.cartReport m .copy .queued .copying = s.withLoans (·.started [m]) := by
  rw [State.cartReport_eq, State.modLoan, State.withLoans]
  refine congrArg (fun f : Loan → Loan => ({ s with tables := { s.tables with loans := s.tables.loans.map f } } : State))
    (funext fun l => ?_)
  rw [Loan.started]
  by_cases hn : l.number = m
  · rw [if_pos hn]
    exact if_congr (by simp [hn]) rfl rfl
  · rw [if_neg hn, if_neg]
    simp [hn]

theorem State.takeJob_eq {id : Nat} {clean : Bool} {v : View} (hs : (s.socket n).state = .blank clean)
    (hv : (s.socket n).view = some v) (hk : v.kind = .stock) :
    s.takeJob id n j = (s.withLoans (·.started [j.loan])).setSocket n ((s.socket n).takes id j clean) := by
  have hdirty : ((s.socket n).state == .blank false) = !clean := by
    rw [hs]
    cases clean <;> rfl
  have hok : guardOk v (if clean then markerWrite 0 else .sectorClear 1) = true := by
    cases clean with
    | true => exact guardOk_other_page hk _ (by decide) (by decide) (by decide)
    | false => exact guardOk_sectorClear_iff.mpr ⟨by rw [hk]; decide, by decide, by have := v.capacity.blocks_pos; omega⟩
  have hop : (if !clean then Guarded.sectorClear 1 else markerWrite 0) = if clean then markerWrite 0 else .sectorClear 1 := by
    cases clean <;> rfl
  rw [State.takeJob, hdirty, hop, State.cartReport_started]
  exact (State.modSocket_setSocket (s := s.withLoans (·.started [j.loan])) _ _).trans
    (congrArg _ (Socket.startGuarded_of_ok
      (k := { s.socket n with state := .copying ⟨id, { j with cleanNeeded := !clean }, .preparing⟩ }) hv hok))

theorem Loan.started_started (l : Loan) (ms ns : List LoanNo) : (l.started ms).started ns = l.started (ms ++ ns) := by
  have hcart : ({ l with cart := l.cart.map fun c => { c with status := .copying } } : Loan).cart.any
      (fun c => c.path == .copy && c.status == .queued) = false := by
    cases l.cart <;> simp
  by_cases hm : l.number ∈ ms ∧ l.cart.any (fun c => c.path == .copy && c.status == .queued)
  · have hms : l.started ms = { l with cart := l.cart.map fun c => { c with status := .copying } } := if_pos hm
    rw [hms, Loan.started, if_neg (by rw [hcart]; simp), Loan.started, if_pos ⟨List.mem_append_left _ hm.1, hm.2⟩]
  · have hms : l.started ms = l := if_neg hm
    rw [hms, Loan.started, Loan.started]
    refine if_congr ?_ rfl rfl
    rw [List.mem_append]
    tauto

/-- The jobs that join, each at its socket. -/
theorem foldl_takeJob {id : Nat} (js : List Job) (ns : List Idx8) (s : State) (hlen : ns.length = js.length) (hnd : ns.Nodup)
    (hview : ∀ n ∈ ns, ∃ v, (s.socket n).view = some v ∧ v.kind = .stock)
    (hblank : ∀ n ∈ ns, ∃ clean, (s.socket n).state = .blank clean) :
    ∃ sockets : Vector Socket 8,
      (∀ q : Idx8, q ∉ ns → sockets[q] = s.socket q) ∧
      (∀ (i : Nat) (j : Job) (n : Idx8) (clean : Bool), js[i]? = some j → ns[i]? = some n →
        (s.socket n).state = .blank clean → sockets[n] = (s.socket n).takes id j clean) ∧
      (ns.zip js).foldl (fun s p => s.takeJob id p.1 p.2) s =
        (s.withLoans (·.started (js.map (·.loan)))).withSockets sockets := by
  induction js generalizing ns s with
  | nil =>
    obtain rfl : ns = [] := List.length_eq_zero_iff.mp hlen
    have hsame : s.withLoans (·.started []) = s := by
      have : (fun l : Loan => l.started []) = fun l => l := funext fun l => if_neg fun h => absurd h.1 List.not_mem_nil
      rw [State.withLoans, this, List.map_id']
    exact ⟨s.sockets, fun q _ => rfl, fun i j n clean hj => by simp at hj, by rw [List.map_nil, hsame]; rfl⟩
  | cons j js ih =>
    obtain ⟨n, ns, rfl⟩ : ∃ n ns', ns = n :: ns' := List.exists_cons_of_length_eq_add_one hlen
    obtain ⟨hn, hnd⟩ := List.nodup_cons.mp hnd
    obtain ⟨v, hv, hk⟩ := hview n List.mem_cons_self
    obtain ⟨clean, hs⟩ := hblank n List.mem_cons_self
    obtain ⟨u, hu⟩ : ∃ u, u = (s.withLoans (·.started [j.loan])).setSocket n ((s.socket n).takes id j clean) := ⟨_, rfl⟩
    have hsocket (q : Idx8) : u.socket q = if q = n then (s.socket n).takes id j clean else s.socket q := by
      rw [hu]
      exact State.socket_setSocket _ q
    have hother {q : Idx8} (hq : q ∈ ns) : u.socket q = s.socket q := by
      rw [hsocket, if_neg (fun heq : q = n => hn (heq ▸ hq))]
    obtain ⟨sockets, hout, hin, hfold⟩ := ih ns u (Nat.succ.inj hlen) hnd
      (fun q hq => by rw [hother hq]; exact hview q (List.mem_cons_of_mem _ hq))
      (fun q hq => by rw [hother hq]; exact hblank q (List.mem_cons_of_mem _ hq))
    refine ⟨sockets, fun q hq => ?_, fun i y m c hy hm hc => ?_, ?_⟩
    · rw [List.mem_cons, not_or] at hq
      rw [hout q hq.2, hsocket, if_neg hq.1]
    · cases i with
      | zero =>
        obtain rfl : j = y := Option.some.inj hy
        obtain rfl : n = m := Option.some.inj hm
        obtain rfl : clean = c := SockState.blank.inj (hs.symm.trans hc)
        rw [hout n hn, hsocket, if_pos rfl]
      | succ i =>
        have hmem : m ∈ ns := List.mem_of_getElem? hm
        rw [hin i y m c hy hm ((hother hmem).symm ▸ hc), hother hmem]
    · rw [List.zip_cons_cons, List.foldl_cons, State.takeJob_eq hs hv hk, ← hu, hfold, hu]
      have hloans : (s.tables.loans.map (·.started [j.loan])).map (·.started (js.map (·.loan))) =
          s.tables.loans.map (·.started ((j :: js).map (·.loan))) := by
        rw [List.map_map]
        exact List.map_congr_left fun l _ => l.started_started _ _
      exact congrArg (fun ls => ({ s with tables := { s.tables with loans := ls }, sockets := sockets } : State)) hloans

/-! ### The gang's first read (R100, R102) -/

/-- The gang that a dispatch forms. -/
def State.newGang (s : State) (j : Job) (b : Fin 4) : Gang := ⟨s.copy.nextGang, j.work, j.start, j.len, some b, 1, false, 0⟩

/-- The Copy Engine once a gang has formed, with the jobs that stay in the queue. -/
def State.dispatched (s : State) (j : Job) (b : Fin 4) (rest : List Job) : CopyEngine :=
  { s.copy with
    queue := rest, gangs := s.copy.gangs ++ [s.newGang j b], nextGang := s.copy.nextGang + 1
    buffers := (s.setBuffer b ⟨.gang s.copy.nextGang, [], none⟩).copy.buffers }

/-- The gang that forms around the head job asks for its first block, which the free store reads at once. -/
theorem State.dispatchHead_eq {js rest : List Job} {ns : List Idx8} (hqueue : s.copy.queue = j :: js ++ rest)
    (hgather : s.gather j.work s.copy.queue allSockets 0 = (ns.zip (j :: js), rest)) (hlen : ns.length = (j :: js).length)
    (hnd : ns.Nodup) (hview : ∀ n ∈ ns, ∃ v, (s.socket n).view = some v ∧ v.kind = .stock)
    (hblank : ∀ n ∈ ns, ∃ clean, (s.socket n).state = .blank clean) (hchoose : (s.chooseBlank j.len allSockets).isSome)
    (hb : s.freeBuffer? = some b) (hcurrent : s.copy.current = none) (hidle : ∀ q, (s.buffer q).request = none) :
    ∃ sockets : Vector Socket 8,
      (∀ q : Idx8, q ∉ ns → sockets[q] = s.socket q) ∧
      (∀ (i : Nat) (y : Job) (n : Idx8) (clean : Bool), (j :: js)[i]? = some y → ns[i]? = some n →
        (s.socket n).state = .blank clean → sockets[n] = (s.socket n).takes s.copy.nextGang y clean) ∧
      s.dispatchHead = some
        { ((s.withLoans (·.started ((j :: js).map (·.loan)))).withSockets sockets) with
          copy := { s.dispatched j b rest with current := some (b, .read j.work j.start j.start), pointer := b } } := by
  obtain ⟨i, hi⟩ := Option.isSome_iff_exists.mp hchoose
  obtain ⟨u, hu⟩ : ∃ u : State, u = { s with copy := s.dispatched j b rest } := ⟨_, rfl⟩
  obtain ⟨sockets, hout, hin, hfold⟩ := foldl_takeJob (id := s.copy.nextGang) (j :: js) ns u hlen hnd
    (by rw [hu]; exact hview) (by rw [hu]; exact hblank)
  refine ⟨sockets, by rw [hu] at hout; exact hout, by rw [hu] at hin; exact hin, ?_⟩
  have hjobs : s.copy.queue = j :: (js ++ rest) := hqueue
  rw [State.dispatchHead, hjobs]
  dsimp only
  rw [hi, hb]
  dsimp only
  rw [← hjobs, hgather]
  rw [hu] at hfold
  refine congrArg some ((congrArg (fun t : State => t.requestRead (s.newGang j b) b) hfold).trans ?_)
  rw [State.requestRead, State.requestBlock_of_free]
  · rfl
  · exact hcurrent
  · intro q
    refine (congrArg Buffer.request (State.buffer_setBuffer (s := s) ⟨.gang s.copy.nextGang, [], none⟩ q)).trans ?_
    split
    · rfl
    · exact hidle q

/-- A gang forms around the head job, with the jobs behind it that join (R97, R98). -/
theorem State.dispatchHead_of_chosen {js rest : List Job} {ns : List Idx8} (hqueue : s.copy.queue = j :: js ++ rest)
    (hlen : ns.length = (j :: js).length) (h8 : (j :: js).length ≤ 8) (hwork : ∀ y ∈ j :: js, y.work = j.work)
    (hchosen : ∀ i y n, (j :: js)[i]? = some y → ns[i]? = some n → s.chosen (ns.take i) y.len n)
    (hrest : ∀ y, rest.head? = some y →
      y.work ≠ j.work ∨ 8 ≤ (j :: js).length ∨ ∀ q, q ∉ ns → s.fittingBlank y.len q = none)
    (hview : ∀ n ∈ ns, ∃ v, (s.socket n).view = some v ∧ v.kind = .stock)
    (hb : s.freeBuffer? = some b) (hcurrent : s.copy.current = none) (hidle : ∀ q, (s.buffer q).request = none) :
    ∃ sockets : Vector Socket 8,
      (∀ q : Idx8, q ∉ ns → sockets[q] = s.socket q) ∧
      (∀ (i : Nat) (y : Job) (n : Idx8) (clean : Bool), (j :: js)[i]? = some y → ns[i]? = some n →
        (s.socket n).state = .blank clean → sockets[n] = (s.socket n).takes s.copy.nextGang y clean) ∧
      s.dispatchHead = some
        { ((s.withLoans (·.started ((j :: js).map (·.loan)))).withSockets sockets) with
          copy := { s.dispatched j b rest with current := some (b, .read j.work j.start j.start), pointer := b } } := by
  have hjob {i : Nat} (hi : i < ns.length) : (j :: js)[i]? = some (j :: js)[i] := List.getElem?_eq_getElem (hlen ▸ hi)
  have hnd : ns.Nodup := List.pairwise_iff_getElem.mpr fun i k hi hk hik heq => by
    obtain ⟨hnot, -⟩ := hchosen k _ ns[k] (hjob hk) (List.getElem?_eq_getElem hk)
    exact hnot (heq ▸ List.mem_take_iff_getElem.mpr ⟨i, by omega, rfl⟩)
  have hblank : ∀ n ∈ ns, ∃ clean, (s.socket n).state = .blank clean := fun n hn => by
    obtain ⟨i, hi, rfl⟩ := List.mem_iff_getElem.mp hn
    obtain ⟨-, clean, hfit, -⟩ := hchosen i _ ns[i] (hjob hi) (List.getElem?_eq_getElem hi)
    exact ⟨clean, State.state_of_fittingBlank hfit⟩
  have hgather : s.gather j.work s.copy.queue allSockets 0 = (ns.zip (j :: js), rest) := by
    rw [hqueue, ← remaining_nil]
    refine State.gather_eq hlen (by omega) hwork (fun i y n hy hn => ?_) fun y hy => ?_
    · rw [List.nil_append]
      exact hchosen i y n hy hn
    · rw [List.nil_append, Nat.zero_add]
      exact hrest y hy
  have hpos : 0 < ns.length := by rw [hlen]; exact Nat.zero_lt_succ _
  have hchoose : (s.chooseBlank j.len allSockets).isSome := by
    have hfirst : s.chosen [] j.len ns[0] := hchosen 0 j ns[0] rfl (List.getElem?_eq_getElem hpos)
    rw [← remaining_nil, State.chooseBlank_of_chosen hfirst]
    rfl
  exact State.dispatchHead_eq hqueue hgather hlen hnd hview hblank hchoose hb hcurrent hidle

/-! ### The dispatch test after a dispatch (R97) -/

/-- The buffers that are free. -/
def State.freeBuffers (s : State) : Finset (Fin 4) := Finset.univ.filter fun b => (s.buffer b).owner = .free

theorem State.owner_grant (q : Fin 4) : (s.grant.buffer q).owner = (s.buffer q).owner := by
  unfold State.grant
  split
  · rfl
  · split
    · rfl
    next r _ =>
      refine (congrArg Buffer.owner (State.buffer_setBuffer (s := s) _ q)).trans ?_
      split
      next h => rw [h]
      next => rfl

theorem State.owner_requestBlock (r : StoreReq) (q : Fin 4) :
    ((s.requestBlock b r).buffer q).owner = (s.buffer q).owner := by
  rw [State.requestBlock, State.owner_grant, State.buffer_setBuffer]
  split
  next h => rw [h]
  next => rfl

theorem foldl_takeJob_copy {id : Nat} (ps : List (Idx8 × Job)) (s : State) :
    (ps.foldl (fun s p => s.takeJob id p.1 p.2) s).copy = s.copy := by
  induction ps generalizing s with
  | nil => rfl
  | cons p ps ih => exact (ih (s.takeJob id p.1 p.2)).trans rfl

/-- A dispatch gives its gang a buffer that was free. -/
theorem State.owner_dispatchHead (h : s.dispatchHead = some t) : ∃ b, s.freeBuffer? = some b ∧
    ∀ q, (t.buffer q).owner = if q = b then .gang s.copy.nextGang else (s.buffer q).owner := by
  unfold State.dispatchHead at h
  split at h
  · cases h
  · split at h
    next b _ hb =>
      refine ⟨b, hb, fun q => ?_⟩
      rw [← Option.some.inj h, State.requestRead, State.owner_requestBlock, State.buffer, foldl_takeJob_copy]
      refine (congrArg Buffer.owner (State.buffer_setBuffer (s := s) _ q)).trans ?_
      split <;> rfl
    · cases h

theorem State.dispatchHead_freeBuffers (h : s.dispatchHead = some t) : t.freeBuffers ⊂ s.freeBuffers := by
  obtain ⟨b, hb, howner⟩ := State.owner_dispatchHead h
  have hfree : (s.buffer b).owner = .free := 
    beq_iff_eq.mp (List.find?_some (p := fun b => (s.buffer b).owner == .free) hb)
  have hmem (u : State) (q : Fin 4) : q ∈ u.freeBuffers ↔ (u.buffer q).owner = .free := by simp [State.freeBuffers]
  rw [Finset.ssubset_iff_of_subset fun q hq => ?_]
  · refine ⟨b, (hmem s b).mpr hfree, fun hb' => ?_⟩
    rw [hmem, howner, if_pos rfl] at hb'
    cases hb'
  · rw [hmem, howner] at hq
    split at hq
    · cases hq
    · exact (hmem s q).mpr hq

/-- Each dispatch takes a free buffer: there are no more than four in a row. -/
theorem State.dispatchAll_enough {k : Nat} (h : s.freeBuffers.card ≤ k) : s.dispatchAll (k + 1) = s.dispatchAll k := by
  induction k generalizing s with
  | zero =>
    cases hhead : s.dispatchHead with
    | none => rw [State.dispatchAll_none hhead, State.dispatchAll_none hhead]
    | some t => exact absurd (Finset.card_lt_card (State.dispatchHead_freeBuffers hhead)) (by omega)
  | succ k ih =>
    cases hhead : s.dispatchHead with
    | none => rw [State.dispatchAll_none hhead, State.dispatchAll_none hhead]
    | some t =>
      have hless := Finset.card_lt_card (State.dispatchHead_freeBuffers hhead)
      rw [State.dispatchAll, hhead, State.dispatchAll, hhead]
      exact ih (by omega)

/-- Settles O53. -/
theorem gangFormsAroundHead : Obligations.GangFormsAroundHead := by
  intro s
  refine ⟨State.dispatchHead_nil, fun j rest hqueue hno => (State.dispatchHead_eq_none hqueue).mpr ?_,
    fun j n b v clean hqueue hfit hbest hv hk hb hlow hcurrent hidle => ?_,
    fun js rest ns b hqueue hne h8 hlen => ?_, fun w t hacc hhead hacc' => ?_⟩
  · refine hno.imp (fun h => ?_) State.freeBuffer?_eq_none.mpr
    rw [← remaining_nil]
    exact State.chooseBlank_of_none fun q _ => h q
  · have hchosen : ∀ i y m, [j][i]? = some y → [n][i]? = some m → s.chosen ([n].take i) y.len m := by
      intro i y m hy hm
      obtain ⟨rfl, rfl⟩ : i = 0 ∧ j = y := by
        cases i with
        | zero => exact ⟨rfl, Option.some.inj hy⟩
        | succ i => simp at hy
      obtain rfl : n = m := Option.some.inj hm
      exact ⟨List.not_mem_nil, clean, hfit, fun q c _ => hbest q c⟩
    obtain ⟨sockets, hout, hin, hhead⟩ := State.dispatchHead_of_chosen (js := []) (rest := []) (ns := [n]) (b := b)
      (hqueue.trans rfl) rfl (by simp) (by simp) hchosen (by simp)
      (fun m hm => by rw [List.mem_singleton.mp hm]; exact ⟨v, hv, hk⟩) (State.freeBuffer?_eq_some hb hlow) hcurrent hidle
    have hsockets : sockets = (s.setSocket n ((s.socket n).takes s.copy.nextGang j clean)).sockets := by
      have hat (q : Idx8) : sockets[q] = (s.setSocket n ((s.socket n).takes s.copy.nextGang j clean)).socket q := by
        rw [State.socket_setSocket]
        split
        next h => rw [h, hin 0 j n clean rfl rfl (State.state_of_fittingBlank hfit)]
        next h => exact hout q fun hq => h (List.mem_singleton.mp hq)
      ext i hi
      exact hat ⟨i, hi⟩
    have hloans : (fun l : Loan => l.started [j.loan]) = fun l =>
        if l.number = j.loan ∧ l.cart.any (fun c => c.path == .copy && c.status == .queued) then
          { l with cart := l.cart.map fun c => { c with status := .copying } }
        else l := funext fun l => if_congr (by rw [List.mem_singleton]) rfl rfl
    rw [hhead, hsockets, List.map_cons, List.map_nil, hloans]
    rfl
  · intro first hwork hchosen hrest hview hb hlow hcurrent hidle id
    obtain ⟨j, js, rfl⟩ : ∃ j js', js = j :: js' := List.exists_cons_of_ne_nil hne
    obtain ⟨sockets, hout, hin, hhead⟩ := State.dispatchHead_of_chosen (b := b) hqueue hlen h8 hwork hchosen hrest hview
      (State.freeBuffer?_eq_some hb hlow) hcurrent hidle
    refine ⟨sockets, hout, fun i y n hy hn => ?_, hhead⟩
    obtain ⟨-, clean, hfit, -⟩ := hchosen i y n hy hn
    rw [hin i y n clean hy hn (State.state_of_fittingBlank hfit), hfit]
    cases clean <;> rfl
  · refine finish_congr w ?_
    have hall : s.dispatchAll 33 = t.dispatchAll 33 := by
      rw [State.dispatchAll, hhead]
      exact (State.dispatchAll_enough (Nat.le_trans (Finset.card_le_univ _) (by decide))).symm
    rw [State.drained_of_accepted hacc, State.drained_of_accepted hacc', State.tests, State.tests, hall]

end Sys2Proof.Machine
end

section
/-! PROOFS. The Store Arbiter, and the ends of a good read and of a write (R100 to R102, R104, R122, R123). -/

namespace Sys2Proof.Machine

variable {s t u : State} {b : Fin 4} {x : StoreReq}

/-! ### The grant (R100) -/

/-- No buffer asks for the store. -/
def State.storeIdle (s : State) : Prop := ∀ q, (s.buffer q).request = none

theorem State.storeIdle.congr (h : s.storeIdle) (hb : t.copy.buffers = s.copy.buffers) : t.storeIdle := fun q => by
  rw [State.buffer, hb]
  exact h q

theorem State.storeIdle.setBuffer (h : s.storeIdle) {y : Buffer} (hy : y.request = none) : (s.setBuffer b y).storeIdle :=
  fun q => by
    rw [State.buffer_setBuffer]
    split
    · exact hy
    · exact h q

theorem State.grant_of_idle (h : s.copy.current ≠ none ∨ s.storeIdle) : s.grant = s := by
  rcases h with h | h
  · exact if_pos (Option.isSome_iff_ne_none.mpr h)
  · have hnone : (rotation s.copy.pointer).findSome? (fun b => (s.buffer b).request.map (b, ·)) = none :=
      List.findSome?_eq_none_iff.mpr fun q _ => by rw [h q]; rfl
    rw [State.grant, hnone]
    split <;> rfl

/-- The buffers before one in the rotation come sooner after the pointer. -/
theorem rotation_split : ∀ p b : Fin 4, ∃ pre post, rotation p = pre ++ b :: post ∧
    ∀ q ∈ pre, q ≠ b ∧ q - p - 1 < b - p - 1 := by
  have hbefore : ∀ p b : Fin 4, ∀ q ∈ (rotation p).takeWhile (· != b), q ≠ b ∧ q - p - 1 < b - p - 1 := by decide
  have hat : ∀ p b : Fin 4, ((rotation p).dropWhile (· != b)).head? = some b := by decide
  intro p b
  obtain ⟨post, hpost⟩ := List.head?_eq_some_iff.mp (hat p b)
  exact ⟨_, post, by rw [← hpost, List.takeWhile_append_dropWhile], hbefore p b⟩

/-- The first request in rotation after the pointer is granted. -/
theorem State.grant_of_first (hcurrent : s.copy.current = none) (hx : (s.buffer b).request = some x)
    (hfirst : ∀ q, q ≠ b → (s.buffer q).request ≠ none → b - s.copy.pointer - 1 < q - s.copy.pointer - 1) :
    s.grant =
      { s with
        copy :=
          { s.copy with
            buffers := (s.setBuffer b { s.buffer b with request := none }).copy.buffers, current := some (b, x)
            pointer := b } } := by
  obtain ⟨pre, post, hrotation, hpre⟩ := rotation_split s.copy.pointer b
  have hfind : (rotation s.copy.pointer).findSome? (fun b => (s.buffer b).request.map (b, ·)) = some (b, x) := by
    have hnone : pre.findSome? (fun b => (s.buffer b).request.map (b, ·)) = none :=
      List.findSome?_eq_none_iff.mpr fun q hq => by
        obtain ⟨hne, hlt⟩ := hpre q hq
        by_contra hsome
        have hpending : (s.buffer q).request ≠ none := fun h => hsome (by rw [h]; rfl)
        exact absurd (hfirst q hne hpending) (by omega)
    rw [hrotation, List.findSome?_append, hnone, List.findSome?_cons, hx]
    rfl
  rw [State.grant, hcurrent, if_neg (by decide), hfind]
  rfl

/-! ### The end of an operation -/

/-- The buffers once the one whose operation has ended is freed where its owner has gone (R101). -/
def State.drainedBuffers (s : State) (b : Fin 4) : Vector Buffer 4 :=
  if (s.buffer b).owner = .draining then (s.setBuffer b ⟨.free, [], none⟩).copy.buffers else s.copy.buffers

theorem State.drain_grant (h : s.storeIdle) :
    (s.drainBuffer b).grant = { s with copy := { s.copy with buffers := s.drainedBuffers b } } := by
  unfold State.drainBuffer State.drainedBuffers
  split
  · exact State.grant_of_idle (.inr (h.setBuffer rfl))
  · exact State.grant_of_idle (.inr h)

theorem State.drain_grant_of_owner (h : s.storeIdle) (ho : (s.buffer b).owner ≠ .draining) : (s.drainBuffer b).grant = s := by
  rw [State.drain_grant h, State.drainedBuffers, if_neg ho]

section
variable {block : List Byte} {good written : Bool} {w : RecordWrite} {k : Work} {a y : Nat}

theorem exec_storeBlockReadEnd (h : s.copy.current = some (b, .read k a y)) :
    exec (.storeBlockReadEnd block good w) s =
      .next (finish w (((if good then s.storeFree.blockLoaded b block else s.storeFree.voidTitle k a).drainBuffer b).grant)) := by
  change execStoreBlockReadEnd block good w s = _
  rw [execStoreBlockReadEnd, h]

theorem ends_of_read (h : s.copy.current = some (b, .read k a y))
    (ht : ((if good then s.storeFree.blockLoaded b block else s.storeFree.voidTitle k a).drainBuffer b).grant = t) :
    Ends (exec (.storeBlockReadEnd block good w) s) w t :=
  .of_eq (by rw [exec_storeBlockReadEnd h, ht])

theorem exec_storeBlockReadEnd_none (h : ∀ q k a x, s.copy.current ≠ some (q, .read k a x)) :
    exec (.storeBlockReadEnd block good w) s = .next s := by
  change execStoreBlockReadEnd block good w s = _
  unfold execStoreBlockReadEnd
  split
  next hc => exact absurd hc (h _ _ _ _)
  next => rfl

theorem exec_storeBlockWriteEnd (h : s.copy.current = some (b, .write y)) :
    exec (.storeBlockWriteEnd written w) s =
      .next (finish w ((s.storeFree.blockWritten b written).drainBuffer b).grant) := by
  change execStoreBlockWriteEnd written w s = _
  rw [execStoreBlockWriteEnd, h]

theorem ends_of_write (h : s.copy.current = some (b, .write y))
    (ht : ((s.storeFree.blockWritten b written).drainBuffer b).grant = t) :
    Ends (exec (.storeBlockWriteEnd written w) s) w t :=
  .of_eq (by rw [exec_storeBlockWriteEnd h, ht])

theorem exec_storeBlockWriteEnd_none (h : ∀ q x, s.copy.current ≠ some (q, .write x)) :
    exec (.storeBlockWriteEnd written w) s = .next s := by
  change execStoreBlockWriteEnd written w s = _
  unfold execStoreBlockWriteEnd
  split
  next hc => exact absurd hc (h _ _)
  next => rfl

end

/-! ### A good read (R102, R104) -/

section
variable {id : Nat} {g : Gang} {block : List Byte} {n : Idx8} {m : Member} {v : View}

/-- The station once a gang's block stands in its buffer. -/
def State.loadedWith (s : State) (b : Fin 4) (id : Nat) (block : List Byte) : State :=
  (s.setBuffer b { s.buffer b with data := block }).modGang id fun g => { g with loaded := true }

/-- A member that waits starts its work on the block; one that does not goes on. -/
def State.wakes (g : Gang) (s : State) (p : Idx8 × Member) : State :=
  if p.2.progress = .waiting then s.startWork p.1 p.2 g false else s

theorem State.blockLoaded_of_gang (howner : (s.buffer b).owner = .gang id) (hg : s.gang? id = some g) :
    s.blockLoaded b block =
      ((s.loadedWith b id block).membersOf id).foldl (State.wakes { g with loaded := true }) (s.loadedWith b id block) := by
  rw [State.blockLoaded, howner]
  dsimp only
  rw [hg]
  rfl

theorem State.blockLoaded_of_draining (howner : (s.buffer b).owner = .draining) : s.blockLoaded b block = s := by
  rw [State.blockLoaded, howner]

theorem pageOf_zero (data : List Byte) : pageOf data 0 = data.take 256 := by
  rw [pageOf, slice, Nat.mul_zero, List.drop_zero]

/-- The work of a member that waits: a clear where its clean-needed flag is set, or else the first page. -/
def Member.firstWork (m : Member) (g : Gang) (block : List Byte) : Guarded :=
  if m.job.cleanNeeded then .blockClear g.index else .page (g.index * 65536) (block.take 256) .other

/-- A socket's record as its member starts its work on the block. -/
def Socket.works (k : Socket) (m : Member) (g : Gang) (block : List Byte) : Socket :=
  { k with
    state := .copying { m with progress := .working (if m.job.cleanNeeded then .clearing else .page 0) false }
    op := some (.guarded (m.firstWork g block) (.beforeCommand (some k.link))), hold := none, link := k.link.unlock }

theorem guardOk_firstWork (hk : v.kind = .stock) (hone : 1 ≤ g.index) (hindex : g.index < v.capacity.blocks) :
    guardOk v (m.firstWork g block) = true := by
  have hmaster : v.kind ≠ .master := by rw [hk]; decide
  unfold Member.firstWork
  split
  · exact guardOk_blockClear_iff.mpr ⟨hmaster, by omega, hindex⟩
  · exact guardOk_page_iff.mpr ⟨hmaster, by omega, by omega, .inl (by omega)⟩

theorem State.startWork_eq (hdata : s.gangData g = block) (hv : (s.socket n).view = some v) (hk : v.kind = .stock)
    (hone : 1 ≤ g.index) (hindex : g.index < v.capacity.blocks) :
    s.startWork n m g false = s.setSocket n ((s.socket n).works m g block) := by
  have hok := guardOk_firstWork (m := m) (block := block) hk hone hindex
  have hstart := State.startGuarded_putSock
    (.copying { m with progress := .working (if m.job.cleanNeeded then .clearing else .page 0) false }) hv hok
  refine Eq.trans ?_ hstart
  rw [State.startWork, Member.firstWork, Bool.or_false]
  split
  · rfl
  · rw [State.startPage, pageOf_zero, hdata, Nat.mul_zero, Nat.add_zero]
    rfl

theorem State.gangData_congr (g : Gang) (h : t.copy = s.copy) : t.gangData g = s.gangData g := by
  unfold State.gangData State.buffer
  rw [h]

/-- Every member that waits starts its work on the block. -/
theorem foldl_wakes (ms : List (Idx8 × Member)) (h : ms.Pairwise fun p q => p.1 ≠ q.1) (hdata : s.gangData g = block)
    (hview : ∀ p ∈ ms, p.2.progress = .waiting →
      ∃ v, (s.socket p.1).view = some v ∧ v.kind = .stock ∧ 1 ≤ g.index ∧ g.index < v.capacity.blocks) :
    ms.foldl (State.wakes g) s =
      { s with
        sockets := socketsAfter s ms fun k m => if m.progress = .waiting then k.works m g block else k } := by
  rw [← foldl_setSocket (fun k m => if m.progress = .waiting then k.works m g block else k) ms s h]
  suffices hgen : ∀ t : State, t.copy = s.copy →
      (∀ p ∈ ms, p.2.progress = .waiting →
        ∃ v, (t.socket p.1).view = some v ∧ v.kind = .stock ∧ 1 ≤ g.index ∧ g.index < v.capacity.blocks) →
      ms.foldl (State.wakes g) t =
        ms.foldl (fun t p => t.setSocket p.1
          (if p.2.progress = .waiting then (t.socket p.1).works p.2 g block else t.socket p.1)) t from hgen s rfl hview
  clear hview
  induction ms with
  | nil => exact fun _ _ _ => rfl
  | cons p ms ih =>
    intro t hcopy hview
    rw [List.pairwise_cons] at h
    rw [List.forall_mem_cons] at hview
    obtain ⟨hp, hview⟩ := hview
    have hdata' : t.gangData g = block := by
      rw [← hdata]
      exact State.gangData_congr g hcopy
    have hwake : State.wakes g t p = t.setSocket p.1
        (if p.2.progress = .waiting then (t.socket p.1).works p.2 g block else t.socket p.1) := by
      unfold State.wakes
      by_cases hw : p.2.progress = .waiting
      · obtain ⟨v, hv, hk, hone, hindex⟩ := hp hw
        rw [if_pos hw, if_pos hw, State.startWork_eq hdata' hv hk hone hindex]
      · rw [if_neg hw, if_neg hw, State.setSocket_socket]
    rw [List.foldl_cons, List.foldl_cons, hwake]
    refine ih h.2 _ hcopy fun q hq => ?_
    rw [State.socket_setSocket, if_neg (h.1 q hq).symm]
    exact hview q hq

/-- A socket that copies is changed where its member waits for the gang's block. -/
theorem socketsAfter_copying (f : Socket → Member → Socket) {q : Idx8} (hm : (s.socket q).state = .copying m) :
    (socketsAfter s (s.membersOf id) fun k m => if m.progress = .waiting then f k m else k)[q] =
      if m.gang = id ∧ m.progress = .waiting then f (s.socket q) m else s.socket q := by
  rw [socketsAfter, Fin.getElem_fin, Vector.getElem_ofFn, State.find?_membersOf, hm]
  by_cases hg : m.gang = id <;> simp [SockState.member, Option.filter, hg]

/-- A socket that copies nothing is left alone: no member that finishes waits. -/
theorem socketsAfter_not_copying (f : Socket → Member → Socket) {q : Idx8} (hno : ∀ m, (s.socket q).state ≠ .copying m)
    (hfinishing : ∀ m, (s.socket q).state = .finishing m → m.gang = id → m.progress ≠ .waiting) :
    (socketsAfter s (s.membersOf id) fun k m => if m.progress = .waiting then f k m else k)[q] = s.socket q := by
  rw [socketsAfter, Fin.getElem_fin, Vector.getElem_ofFn, State.find?_membersOf]
  cases hm : (s.socket q).state.member.filter fun m => m.gang == id with
  | none => simp
  | some m =>
    obtain ⟨hmember, hg⟩ := Option.filter_eq_some_iff.mp hm
    have hstate : (s.socket q).state = .finishing m := by
      cases hs : (s.socket q).state <;> rw [hs] at hmember <;> cases hmember
      · exact absurd hs (hno _)
      · rfl
    simp [hfinishing m hstate (beq_iff_eq.mp hg)]

theorem State.gangData_loadedWith (hb : g.buffer = some b) :
    (s.loadedWith b id block).gangData { g with loaded := true } = block := by
  unfold State.gangData
  have hbuffer : (s.loadedWith b id block).buffer b = { s.buffer b with data := block } :=
    State.buffer_setBuffer_self _ _ _
  dsimp only
  rw [hb]
  exact congrArg Buffer.data hbuffer

theorem State.storeIdle.loadedWith (h : s.storeIdle) : (s.loadedWith b id block).storeIdle :=
  (h.setBuffer (b := b) (y := { s.buffer b with data := block }) (h b)).congr rfl

variable {k : Work} {a y : Nat} {w : RecordWrite}

/-- The end of a good read for a gang, once its members that wait have started their work. -/
theorem ends_of_blockLoaded (hcurrent : s.copy.current = some (b, .read k a y)) (hidle : s.storeIdle)
    (howner : (s.buffer b).owner = .gang id) (hg : s.gang? id = some g)
    (ht : (s.membersOf id).foldl (State.wakes { g with loaded := true }) (s.storeFree.loadedWith b id block) = t)
    (hcopy : t.copy = (s.storeFree.loadedWith b id block).copy) : Ends (exec (.storeBlockReadEnd block true w) s) w t := by
  have hloaded : s.storeFree.blockLoaded b block = t := by
    rw [State.blockLoaded_of_gang (s := s.storeFree) howner hg]
    exact ht
  have hfree : s.storeFree.storeIdle := hidle.congr rfl
  refine ends_of_read hcurrent ?_
  rw [if_pos rfl, hloaded]
  refine State.drain_grant_of_owner (hfree.loadedWith.congr (congrArg CopyEngine.buffers hcopy)) ?_
  have hbuffer : t.buffer b = { s.buffer b with data := block } := by
    rw [State.buffer, hcopy]
    exact State.buffer_setBuffer_self s.storeFree _ _
  rw [hbuffer]
  exact howner ▸ nofun

theorem ends_of_none_waiting (hcurrent : s.copy.current = some (b, .read k a y)) (hidle : s.storeIdle)
    (howner : (s.buffer b).owner = .gang id) (hg : s.gang? id = some g)
    (hnone : ∀ p ∈ s.membersOf id, p.2.progress ≠ .waiting) :
    Ends (exec (.storeBlockReadEnd block true w) s) w (s.storeFree.loadedWith b id block) := by
  refine ends_of_blockLoaded hcurrent hidle howner hg ?_ rfl
  generalize s.storeFree.loadedWith b id block = t
  generalize s.membersOf id = ms at hnone
  induction ms with
  | nil => rfl
  | cons p ms ih =>
    rw [List.forall_mem_cons] at hnone
    rw [List.foldl_cons, State.wakes, if_neg hnone.1]
    exact ih hnone.2

/-- One member that waits starts its work on the block. -/
theorem ends_of_one_waiting (hcurrent : s.copy.current = some (b, .read k a y)) (hidle : s.storeIdle)
    (howner : (s.buffer b).owner = .gang id) (hg : s.gang? id = some g) (hone : s.membersOf id = [(n, m)])
    (hwaiting : m.progress = .waiting) (hb : g.buffer = some b) (hv : (s.socket n).view = some v) (hk : v.kind = .stock)
    (hindex : 1 ≤ g.index) (hcapacity : g.index < v.capacity.blocks) :
    Ends (exec (.storeBlockReadEnd block true w) s) w
      ((s.storeFree.loadedWith b id block).setSocket n ((s.socket n).works m g block)) := by
  refine ends_of_blockLoaded hcurrent hidle howner hg ?_ rfl
  rw [hone, List.foldl_cons, List.foldl_nil, State.wakes, if_pos hwaiting]
  exact State.startWork_eq (g := { g with loaded := true }) (State.gangData_loadedWith hb) hv hk hindex hcapacity

/-- Every member that waits starts its work on the block. -/
theorem ends_of_waiting (hcurrent : s.copy.current = some (b, .read k a y)) (hidle : s.storeIdle)
    (howner : (s.buffer b).owner = .gang id) (hg : s.gang? id = some g) (hb : g.buffer = some b) (hindex : 1 ≤ g.index)
    (hview : ∀ n m, (n, m) ∈ s.membersOf id → m.progress = .waiting →
      ∃ v, (s.socket n).view = some v ∧ v.kind = .stock ∧ g.index < v.capacity.blocks) :
    Ends (exec (.storeBlockReadEnd block true w) s) w
      { s.storeFree.loadedWith b id block with
        sockets := socketsAfter s (s.membersOf id) fun k m => if m.progress = .waiting then k.works m g block else k } := by
  refine ends_of_blockLoaded hcurrent hidle howner hg ?_ rfl
  refine (foldl_wakes (g := { g with loaded := true }) _ State.membersOf_pairwise (State.gangData_loadedWith hb)
    fun p hp hw => ?_).trans rfl
  obtain ⟨v, hv, hk, hcapacity⟩ := hview p.1 p.2 hp hw
  exact ⟨v, hv, hk, hindex, hcapacity⟩

/-- A good read for a buffer whose owner has gone frees it (R101). -/
theorem ends_of_drained_read (hcurrent : s.copy.current = some (b, .read k a y)) (hidle : s.storeIdle)
    (howner : (s.buffer b).owner = .draining) :
    Ends (exec (.storeBlockReadEnd block true w) s) w
      { s with
        copy :=
          { s.copy with
            current := none, buffers := (s.setBuffer b ⟨.free, [], none⟩).copy.buffers } } := by
  refine ends_of_read hcurrent ?_
  rw [if_pos rfl, State.blockLoaded_of_draining (s := s.storeFree) howner,
    State.drain_grant (s := s.storeFree) (hidle.congr rfl), State.drainedBuffers,
    if_pos (show (s.storeFree.buffer b).owner = .draining from howner)]
  rfl

end

/-! ### The end of an ingest's write (R122, R123) -/

section
variable {n : Idx8} {i : Ingest} {d : DirEntry} {v : View} {y : Nat} {written : Bool} {w : RecordWrite}

/-- An ingest has given up its buffer and its place on the wait list (R99). -/
def State.ingestLeft (s : State) (n : Idx8) (b : Fin 4) : State :=
  { s with
    copy :=
      { s.copy with
        buffers := (s.setBuffer b ⟨.free, [], none⟩).copy.buffers
        ingestWait := s.copy.ingestWait.filter fun q => q != n } }

theorem State.leaveIngest_eq (hb : i.buffer = some b) (hcurrent : s.copy.current = none) :
    s.leaveIngest n i = s.ingestLeft n b := by
  rw [State.leaveIngest, hb]
  exact State.freeBuffer_of_not_current fun q hq => by rw [hcurrent] at hq; cases hq

/-- A socket rejected, with its notice (R90). -/
def State.rejected (s : State) (n : Idx8) (k : Socket) (x : Serial) (why : RejectReason) : State :=
  (s.setSocket n { k with state := .rejected why, op := none, hold := none }).raise (.rejected n x why)

@[simp] theorem State.rejected_copy {k : Socket} {x : Serial} {why : RejectReason} :
    (s.rejected n k x why).copy = s.copy := by
  rw [State.rejected, State.raise_copy]
  rfl

theorem State.rejectSocket_eq {k : Socket} (why : RejectReason) (hk : s.socket n = k) (hv : k.view = some v) :
    s.rejectSocket n why = s.rejected n k v.serial why := by
  have hserial : s.serialAt n = v.serial := by
    rw [State.serialAt_eq, hk, hv]
    rfl
  rw [State.rejectSocket, hserial, State.modSocket, hk]
  rfl

/-- The end of a write that the ingest's own operations follow with the buffer kept. -/
theorem ends_of_ingest (hcurrent : s.copy.current = some (b, .write y)) (howner : (s.buffer b).owner = .ingest n)
    (hstate : (s.socket n).state = .ingesting i) (ht : s.storeFree.ingestWritten n i written = t) (hidle : t.storeIdle)
    (hkept : (t.buffer b).owner ≠ .draining) : Ends (exec (.storeBlockWriteEnd written w) s) w t := by
  refine ends_of_write hcurrent ?_
  have hwritten : s.storeFree.blockWritten b written = t := by
    rw [State.blockWritten, show (s.storeFree.buffer b).owner = .ingest n from howner]
    dsimp only
    rw [show (s.storeFree.socket n).state = .ingesting i from hstate]
    exact ht
  rw [hwritten]
  exact State.drain_grant_of_owner hidle hkept

theorem State.ingestWritten_of_entry (hd : s.dir? i.work = some d) :
    s.ingestWritten n i true =
      if i.index < d.len then
        (s.putSock n (.ingesting { i with index := i.index + 1 })).startBlockRead n (i.index + 1)
      else s.ingestEnd n i d := by
  unfold State.ingestWritten
  rw [hd]

/-- A block written that is not the last: the ingest reads the next. -/
theorem State.ingestWritten_next (hd : s.dir? i.work = some d) (hlt : i.index < d.len) (hv : (s.socket n).view = some v)
    (hcapacity : i.index + 1 < v.capacity.blocks) :
    s.ingestWritten n i true =
      s.setSocket n
        { s.socket n with
          state := .ingesting { i with index := i.index + 1 }, op := some (.read ((i.index + 1) * 65536) 65536)
          hold := none } := by
  rw [State.ingestWritten_of_entry hd, if_pos hlt, State.putSock, State.modSocket, State.startBlockRead,
    State.modSocket_setSocket]
  refine congrArg _ (Socket.startRead_of_ok hv ?_)
  omega

/-- The last block written, and the image whole. -/
theorem State.ingestWritten_whole (hd : s.dir? i.work = some d) (hlast : d.len ≤ i.index)
    (hcheck : imageFinish i.acc = d.check) (hb : i.buffer = some b) (hcurrent : s.copy.current = none)
    (hv : (s.socket n).view = some v) :
    s.ingestWritten n i true =
      ((((s.modDir i.work fun d => { d with state := .valid }).ingestLeft n b).raise (.ingested i.work d.len)).cartridgeGain
        i.work).rejected n (s.socket n) v.serial .masterNotNeeded := by
  rw [State.ingestWritten_of_entry hd, if_neg (by omega), State.ingestEnd, if_pos hcheck]
  dsimp only
  rw [State.leaveIngest_eq (s := s.modDir _ _) hb hcurrent]
  refine State.rejectSocket_eq _ ?_ hv
  rw [State.socket, State.cartridgeGain_sockets, State.raise_sockets]
  rfl

/-- An ingest that fails: its entry is removed. -/
theorem State.ingestFailed_eq (hb : i.buffer = some b) (hcurrent : s.copy.current = none)
    (hv : (s.socket n).view = some v) :
    (s.abandonIngest n i).rejectSocket n .badMaster =
      ((s.dropDir i.work).ingestLeft n b).rejected n (s.socket n) v.serial .badMaster := by
  rw [State.abandonIngest, State.leaveIngest_eq (s := s.dropDir _) hb hcurrent]
  exact State.rejectSocket_eq _ rfl hv

theorem State.ingestWritten_bad (hd : s.dir? i.work = some d) (hlast : d.len ≤ i.index)
    (hcheck : imageFinish i.acc ≠ d.check) :
    s.ingestWritten n i true = (s.abandonIngest n i).rejectSocket n .badMaster := by
  rw [State.ingestWritten_of_entry hd, if_neg (by omega), State.ingestEnd, if_neg hcheck]

theorem State.ingestWritten_failed : s.ingestWritten n i false = (s.abandonIngest n i).rejectSocket n .badMaster := by
  unfold State.ingestWritten
  split
  next h _ => cases h
  next => rfl

/-- Whatever else changes, the buffer given up is free and asks for nothing. -/
theorem State.storeIdle.ingestLeft (h : s.storeIdle) : (s.ingestLeft n b).storeIdle :=
  (h.setBuffer (b := b) rfl).congr rfl

theorem State.buffer_ingestLeft (hbuffers : t.copy.buffers = (s.ingestLeft n b).copy.buffers) :
    (t.buffer b).owner ≠ .draining := by
  have hbuffer : t.buffer b = ⟨.free, [], none⟩ := by
    rw [State.buffer, hbuffers]
    exact State.buffer_setBuffer_self s b _
  rw [hbuffer]
  decide

/-- An end of an ingest's write with the buffer given up. -/
theorem ends_of_ingestLeft {f : State} (hcurrent : s.copy.current = some (b, .write y)) (hidle : s.storeIdle)
    (howner : (s.buffer b).owner = .ingest n) (hstate : (s.socket n).state = .ingesting i)
    (ht : s.storeFree.ingestWritten n i written = t) (hf : f.copy.buffers = s.copy.buffers)
    (hbuffers : t.copy.buffers = (f.ingestLeft n b).copy.buffers) : Ends (exec (.storeBlockWriteEnd written w) s) w t :=
  ends_of_ingest hcurrent howner hstate ht ((hidle.congr hf).ingestLeft.congr hbuffers) (State.buffer_ingestLeft hbuffers)

/-- The last block written, and the image whole (R123). -/
theorem ends_of_ingest_whole (hcurrent : s.copy.current = some (b, .write y)) (hidle : s.storeIdle)
    (howner : (s.buffer b).owner = .ingest n) (hstate : (s.socket n).state = .ingesting i) (hb : i.buffer = some b)
    (hd : s.dir? i.work = some d) (hv : (s.socket n).view = some v) (hlast : d.len ≤ i.index)
    (hcheck : imageFinish i.acc = d.check) :
    Ends (exec (.storeBlockWriteEnd true w) s) w
      (((((s.storeFree.modDir i.work fun d => { d with state := .valid }).ingestLeft n b).raise
        (.ingested i.work d.len)).cartridgeGain i.work).rejected n (s.socket n) v.serial .masterNotNeeded) := by
  refine ends_of_ingestLeft (f := s.storeFree) hcurrent hidle howner hstate
    (State.ingestWritten_whole (s := s.storeFree) hd hlast hcheck hb rfl hv) rfl ?_
  rw [State.rejected_copy, State.cartridgeGain_copy, State.raise_copy]
  rfl

/-- The last block written of an image that is not whole, and a write that fails (R123). -/
theorem ends_of_ingest_failed (hcurrent : s.copy.current = some (b, .write y)) (hidle : s.storeIdle)
    (howner : (s.buffer b).owner = .ingest n) (hstate : (s.socket n).state = .ingesting i) (hb : i.buffer = some b)
    (hv : (s.socket n).view = some v)
    (hfailed : s.storeFree.ingestWritten n i written = (s.storeFree.abandonIngest n i).rejectSocket n .badMaster) :
    Ends (exec (.storeBlockWriteEnd written w) s) w
      (((s.storeFree.dropDir i.work).ingestLeft n b).rejected n (s.socket n) v.serial .badMaster) := by
  refine ends_of_ingestLeft (f := s.storeFree) hcurrent hidle howner hstate
    (hfailed.trans (State.ingestFailed_eq (s := s.storeFree) hb rfl hv)) rfl ?_
  rw [State.rejected_copy]
  rfl

/-- The end of a write for a buffer whose owner has gone frees it (R101). -/
theorem ends_of_drained_write (hcurrent : s.copy.current = some (b, .write y)) (hidle : s.storeIdle)
    (howner : (s.buffer b).owner = .draining) :
    Ends (exec (.storeBlockWriteEnd written w) s) w
      { s with
        copy :=
          { s.copy with
            current := none, buffers := (s.setBuffer b ⟨.free, [], none⟩).copy.buffers } } := by
  refine ends_of_write hcurrent ?_
  have hwritten : s.storeFree.blockWritten b written = s.storeFree := by
    rw [State.blockWritten, show (s.storeFree.buffer b).owner = .draining from howner]
  rw [hwritten, State.drain_grant (s := s.storeFree) (hidle.congr rfl), State.drainedBuffers,
    if_pos (show (s.storeFree.buffer b).owner = .draining from howner)]
  rfl

end

end Sys2Proof.Machine
end

section
/-! PROOFS. A block read whose store check failed (R38, R68, R106, R109, R125): O52. -/

namespace Sys2Proof.Machine

variable {s t u z : State} {b : Fin 4} {k : Work} {e e' : Entry} {n : LoanNo}

/-! ### The entry of a loan, through changes to other entries -/

/-- A search's find stands through a change that leaves it alone and brings no new match. -/
theorem find?_map_of_kept {α : Type} {p : α → Bool} {f : α → α} {l : List α} {x : α} (h : l.find? p = some x)
    (hx : f x = x) (hnew : ∀ y, p (f y) = true → p y = true) : (l.map f).find? p = some x := by
  obtain ⟨hp, pre, post, rfl, hpre⟩ := List.find?_eq_some_iff_append.mp h
  rw [List.map_append, List.map_cons, hx]
  refine find?_append_cons (fun y hy => ?_) hp
  obtain ⟨a, ha, rfl⟩ := List.mem_map.mp hy
  have hno : p a = false := by simpa using hpre a ha
  exact Bool.eq_false_iff.mpr fun hfa => by rw [hnew a hfa] at hno; cases hno

theorem find?_filter_of_kept {α : Type} {p q : α → Bool} {l : List α} {x : α} (h : l.find? p = some x) (hx : q x = true) :
    (l.filter q).find? p = some x := by
  obtain ⟨hp, pre, post, rfl, hpre⟩ := List.find?_eq_some_iff_append.mp h
  rw [List.filter_append, List.filter_cons_of_pos hx]
  refine find?_append_cons (fun y hy => ?_) hp
  simpa using hpre y (List.mem_filter.mp hy).1

/-- A change of another entry, to a state that names no loan, leaves a loan's entry. -/
theorem State.BookHolds.of_changed {f : Entry → Entry} (h : s.BookHolds n e) (hne : e.order ≠ e'.order)
    (hf : ∀ y, (f y).order = y.order) (hstate : ∀ y, (f y).state = .unbid)
    (hbook : t.book.entries = s.book.entries.map fun y => if y.order = e'.order then f y else y) : t.BookHolds n e := by
  obtain ⟨hloan, horder⟩ := h
  rw [State.BookHolds, State.entryOfLoan?, State.entry?, hbook]
  refine ⟨find?_map_of_kept hloan (if_neg hne) fun y hy => ?_, find?_map_of_kept horder (if_neg hne) fun y hy => ?_⟩
  · split at hy
    · rw [hstate] at hy
      exact absurd hy (by simp)
    · exact hy
  · split at hy
    · rwa [hf] at hy
    · exact hy

theorem OwnReleased.bookHolds {why : Reason} (h : OwnReleased s e' why u) (hne : e.order ≠ e'.order)
    (hbook : s.BookHolds n e) : u.BookHolds n e := by
  have hchanged (owed : Option Reason) {t : State}
      (ht : t.book.entries = s.book.entries.map fun y =>
        if y.order = e'.order then
          { y with state := .unbid, excluded := true, owed := owed, releaseCount := countUp y.releaseCount }
        else y) : t.BookHolds n e :=
    hbook.of_changed (f := fun y =>
      { y with state := .unbid, excluded := true, owed := owed, releaseCount := countUp y.releaseCount }) hne
      (fun _ => rfl) (fun _ => rfl) ht
  rcases h with ⟨-, rfl⟩ | ⟨-, -, rfl⟩ | ⟨-, -, rfl⟩
  · exact hchanged _ rfl
  · by_cases hthree : (if e'.releaseCount = 3 then 3 else e'.releaseCount + 1) = 3
    · rw [if_pos hthree]
      obtain ⟨hloan, horder⟩ := hbook
      have hkept : (e.order != e'.order) = true := by simpa using hne
      exact ⟨find?_filter_of_kept hloan hkept, find?_filter_of_kept horder hkept⟩
    · rw [if_neg hthree]
      exact hchanged _ rfl
  · exact hchanged _ rfl

/-- An own release leaves the Copy Engine alone, and goes the same way whatever it holds. -/
theorem OwnReleased.withCopy {why : Reason} (h : OwnReleased s e why u) (c : CopyEngine) :
    OwnReleased { s with copy := c } e why { u with copy := c } := by
  rcases h with ⟨ho, rfl⟩ | ⟨ho, hroom, rfl⟩ | ⟨ho, hroom, rfl⟩
  · exact .inl ⟨ho, rfl⟩
  · exact .inr (.inl ⟨ho, hroom, rfl⟩)
  · exact .inr (.inr ⟨ho, hroom, rfl⟩)

theorem OwnReleased.copy_eq {why : Reason} (h : OwnReleased s e why u) : u.copy = s.copy := by
  rcases h with ⟨-, rfl⟩ | ⟨-, -, rfl⟩ | ⟨-, -, rfl⟩ <;> rfl

theorem OwnReleased.tables_eq {why : Reason} (h : OwnReleased s e why u) : u.tables = s.tables := by
  rcases h with ⟨-, rfl⟩ | ⟨-, -, rfl⟩ | ⟨-, -, rfl⟩ <;> rfl

/-! ### A title-void failure (R68) -/

/-- The loan is CLAIMED with no braille part, its cartridge part copies or waits to, and the entry is its own. -/
def State.copyLoan (s : State) (n : LoanNo) (e : Entry) : Prop :=
  (∃ l st t, s.loan? n = some l ∧ l.state = .claimed ∧ l.braille = none ∧ l.cart = some ⟨.copy, st, t⟩ ∧
    (st = .queued ∨ st = .copying)) ∧ s.BookHolds n e

theorem State.copyLoan.congr (h : s.copyLoan n e) (hloans : t.tables.loans = s.tables.loans)
    (hbook : t.book.entries = s.book.entries) : t.copyLoan n e := by
  rw [State.copyLoan, State.loan?, State.BookHolds, State.entryOfLoan?, State.entry?, hloans, hbook]
  exact h

theorem State.titleVoidFailure_released (h : s.copyLoan n e) :
    OwnReleased (s.dropLoan n) e .titleVoid (s.titleVoidFailure n) := by
  obtain ⟨⟨l, st, t, hl, hs, hb, hc, hst⟩, hbook⟩ := h
  have hbraille : BrailleRow s l s := by
    rw [BrailleRow, hb]
  have hrelease : s.titleVoidFailure n = s.release n .titleVoid ⟨true, false⟩ := by
    rw [State.titleVoidFailure, hl, Option.bind_some, hc]
    rcases hst with rfl | rfl <;> rfl
  rw [hrelease]
  exact State.release_braille .titleVoid hl hs hbraille hbook

/-- The failure of another loan leaves a loan and its entry. -/
theorem State.copyLoan.after {q : LoanNo} (h : s.copyLoan n e) (hreleased : OwnReleased (s.dropLoan q) e' .titleVoid u)
    (hq : n ≠ q) (hne : e.order ≠ e'.order) : u.copyLoan n e := by
  obtain ⟨⟨l, st, t, hl, hloan⟩, hbook⟩ := h
  refine ⟨⟨l, st, t, ?_, hloan⟩, hreleased.bookHolds hne (hbook.congr rfl)⟩
  rw [State.loan?, hreleased.tables_eq]
  refine find?_filter_of_kept hl ?_
  rw [State.loan?_number hl]
  simpa using hq

/-! ### The Order Book takes a title void (R38) -/

/-- The entry has no BID on the COPY path of a title and edition. -/
def Entry.unbidFor (e : Entry) (k : Work) : Prop := e.work = k → e.state.pledge?.map (·.path) ≠ some .copy

theorem State.titleVoid_of_unbid (h : ∀ e ∈ s.book.entries, e.unbidFor k) : s.titleVoid k = s := by
  have hnone : s.voidedBids k = [] := List.filterMap_eq_nil_iff.mpr fun e he => if_neg fun hc => h e he hc.1 hc.2
  rw [State.titleVoid, hnone, List.foldl_nil]

/-- One entry's BID alone is voided. -/
theorem State.voidedBids_one {p : Pledge} {w : PendingWithdrawal} (hk : e.work = k) (hq : e.state = .queued p w)
    (hp : p.path = .copy) (hothers : ∀ z ∈ s.book.entries, z.order ≠ e.order → z.unbidFor k)
    (hone : (s.book.entries.filter fun z => z.order == e.order) = [e]) : s.voidedBids k = [e.order] := by
  have hpath : e.state.pledge?.map (·.path) = some .copy := by
    rw [hq, ← hp]
    rfl
  calc s.voidedBids k
      = (s.book.entries.filter fun z => z.order == e.order).filterMap fun z =>
          if z.work = k ∧ (z.state.pledge?.map (·.path)) = some .copy then some z.order else none := by
        rw [List.filterMap_filter]
        refine List.filterMap_congr fun z hz => ?_
        by_cases hzo : z.order = e.order
        · rw [if_pos (beq_iff_eq.mpr hzo)]
        · rw [if_neg (fun h => hzo (beq_iff_eq.mp h))]
          exact if_neg fun hc => hothers z hz hzo hc.1 hc.2
    _ = [e.order] := by
        rw [hone, List.filterMap_cons, if_pos ⟨hk, hpath⟩]
        rfl

/-- The station once one BID voided has left the queue, its pledges undone. -/
def State.bidVoided (s : State) (e : Entry) (k : Work) (p : Pledge) (tx : List TxEntry) : State :=
  { s with
    line := { s.line with tx := tx }, tables := s.tables.undo e.order k p, book := (s.setEntryState e.order .unbid).book }

theorem State.copyLoan.bidVoided {p : Pledge} {tx : List TxEntry} (h : s.copyLoan n e) (hne : e.order ≠ e'.order) :
    (s.bidVoided e' k p tx).copyLoan n e := by
  obtain ⟨hloan, hbook⟩ := h
  exact ⟨hloan, hbook.of_changed (f := fun y => { y with state := .unbid }) hne (fun _ => rfl) (fun _ => rfl) rfl⟩

/-- One entry's BID alone waits on the COPY path of a title and edition, not in transmission, with no owner waiting. -/
def State.bidWaits (s : State) (e : Entry) (k : Work) (p : Pledge) (pre : List TxEntry) (y : TxEntry)
    (post : List TxEntry) : Prop :=
  s.entry? e.order = some e ∧ e.work = k ∧ e.state = .queued p .none ∧ p.path = .copy ∧
    (∀ z ∈ s.book.entries, z.order ≠ e.order → z.unbidFor k) ∧
    (s.book.entries.filter fun z => z.order == e.order) = [e] ∧ s.line.tx = pre ++ y :: post ∧
    (∀ z ∈ pre, ∀ q, z.frame.payload ≠ .bid e.order q) ∧ (∃ q, y.frame.payload = .bid e.order q) ∧
    y.inTransmission = false ∧ s.line.pacing = []

/-- The one BID voided leaves the queue, and its entry goes to UNBID. -/
theorem State.titleVoid_one {p : Pledge} {pre post : List TxEntry} {y : TxEntry} (he : s.entry? e.order = some e)
    (hk : e.work = k) (hq : e.state = .queued p .none) (hp : p.path = .copy)
    (hothers : ∀ z ∈ s.book.entries, z.order ≠ e.order → z.unbidFor k)
    (hone : (s.book.entries.filter fun z => z.order == e.order) = [e]) (hbid : BidAt s.line.tx pre y post e.order)
    (hsending : y.inTransmission = false) (hpacing : s.line.pacing = []) :
    s.titleVoid k = s.bidVoided e k p (pre ++ post) := by
  rw [State.titleVoid, State.voidedBids_one hk hq hp hothers hone, List.foldl_cons, List.foldl_nil,
    State.withdrawBid_queued .void he hq hbid hsending hpacing, hk]
  rfl

/-! ### The members and the jobs (R106, R109) -/

theorem State.members_raise (x : Notice) : (s.raise x).members = s.members := by
  rw [State.raise_eq]
  rfl

theorem State.voidMembers_none (h : ∀ p ∈ s.members, p.2.job.work ≠ k) : s.voidMembers k = [] := by
  refine List.filter_eq_nil_iff.mpr fun p hp => ?_
  simp [h p hp]

theorem State.voidMembers_one {n : Idx8} {m : Member} {g : Gang}
    (h : (s.members.filter fun p => p.2.job.work == k) = [(n, m)]) (hg : s.gang? m.gang = some g) (hdone : g.done < g.len) :
    s.voidMembers k = [(n, m)] := by
  have hgang : ((s.gang? m.gang).map fun g => decide (g.done < g.len)).getD false = true := by
    rw [hg]
    exact decide_eq_true hdone
  rw [State.voidMembers, ← List.filter_filter, List.filter_comm, h]
  exact List.filter_eq_self.mpr fun p hp => by
    rw [List.mem_singleton.mp hp]
    exact hgang

theorem State.voidJobs_none (h : ∀ j ∈ s.copy.queue, j.work ≠ k) : s.voidJobs k = s := by
  have hnone : (s.copy.queue.filter fun j => j.work == k) = [] :=
    List.filter_eq_nil_iff.mpr fun j hj => by simp [h j hj]
  have hall : (s.copy.queue.filter fun j => j.work != k) = s.copy.queue :=
    List.filter_eq_self.mpr fun j hj => by simp [h j hj]
  rw [State.voidJobs, hnone, hall]
  rfl

theorem State.voidJobs_one {pre post : List Job} {j : Job} (hqueue : s.copy.queue = pre ++ j :: post) (hj : j.work = k)
    (hothers : ∀ i ∈ pre ++ post, i.work ≠ k) :
    s.voidJobs k = ({ s with copy := { s.copy with queue := pre ++ post } } : State).titleVoidFailure j.loan := by
  have hone : (s.copy.queue.filter fun j => j.work == k) = [j] := by
    rw [hqueue, List.filter_append, List.filter_cons_of_pos (by simp [hj]),
      List.filter_eq_nil_iff.mpr fun i hi => by simp [hothers i (List.mem_append_left _ hi)],
      List.filter_eq_nil_iff.mpr fun i hi => by simp [hothers i (List.mem_append_right _ hi)]]
    rfl
  have hall : (s.copy.queue.filter fun j => j.work != k) = pre ++ post := by
    rw [hqueue, List.filter_append, List.filter_cons_of_neg (by simp [hj]), ← List.filter_append]
    exact List.filter_eq_self.mpr fun i hi => by simp [hothers i hi]
  rw [State.voidJobs, hone, hall]
  rfl

/-- A gang's only member is aborted while its operation runs on: the gang ends, and its buffer is free. -/
def State.abortedGang (s : State) (n : Idx8) (id : Nat) (b : Fin 4) : State :=
  { s.setSocket n { s.socket n with state := .aborting } with
    copy :=
      { s.copy with
        gangs := s.copy.gangs.filter fun y => y.id != id
        buffers := (s.setBuffer b ⟨.free, [], none⟩).copy.buffers } }

theorem State.abortAll_one {n : Idx8} {m : Member} {g : Gang} (hmembers : s.membersOf m.gang = [(n, m)])
    (hg : s.gang? m.gang = some g) (hb : g.buffer = some b) (hcurrent : s.copy.current = none)
    (hop : (s.socket n).op ≠ none) : s.abortAll [(n, m)] = s.abortedGang n m.gang b := by
  have hempty : (s.putSock n .aborting).membersOf m.gang = [] := by
    refine List.eq_nil_iff_forall_not_mem.mpr fun p hp => ?_
    obtain ⟨hm, hgang⟩ := State.mem_membersOf.mp hp
    rw [State.putSock, State.modSocket, State.socket_setSocket] at hm
    split at hm
    · cases hm
    next hne =>
      have hin : p ∈ s.membersOf m.gang := State.mem_membersOf.mpr ⟨hm, hgang⟩
      rw [hmembers, List.mem_singleton] at hin
      exact hne (congrArg Prod.fst hin)
  have hleave : (s.putSock n .aborting).leaveGang m.gang = s.abortedGang n m.gang b := by
    rw [State.leaveGang_of_empty hempty (g := g) hg hb, State.freeBuffer_of_not_current]
    · rfl
    · intro q hq
      rw [show s.copy.current = some q from hq] at hcurrent
      cases hcurrent
  have hrunning : ((s.abortedGang n m.gang b).socket n).op.isSome = true := by
    have hsocket : (s.abortedGang n m.gang b).socket n = { s.socket n with state := .aborting } :=
      State.socket_setSocket_self _ _ _
    rw [hsocket]
    exact Option.isSome_iff_ne_none.mpr hop
  simp only [State.abortAll, List.foldl_cons, List.foldl_nil, hleave]
  exact if_pos hrunning

/-! ### The end of a failed read -/

section
variable {x a : Nat} {w : RecordWrite} {block : List Byte}

/-- The end of a failed read that leaves the buffers to the drain. -/
theorem ends_of_failed {c : CopyEngine} (hcurrent : s.copy.current = some (b, .read k a x)) (hidle : s.storeIdle)
    (hz : s.storeFree.voidTitle k a = z) (hcopy : z.copy = c) (hbuffers : c.buffers = s.copy.buffers) :
    Ends (exec (.storeBlockReadEnd block false w) s) w { z with copy := { c with buffers := s.drainedBuffers b } } := by
  subst hcopy
  have hdrained : z.drainedBuffers b = s.drainedBuffers b := by
    unfold State.drainedBuffers State.setBuffer State.buffer
    rw [hbuffers]
  refine ends_of_read hcurrent ?_
  rw [if_neg (by decide), hz, State.drain_grant (hidle.congr hbuffers), hdrained]

/-- The end of a failed read whose member has freed the buffer. -/
theorem ends_of_failed_freed (hcurrent : s.copy.current = some (b, .read k a x)) (hidle : s.storeIdle)
    (hz : s.storeFree.voidTitle k a = z) (hbuffers : z.copy.buffers = (s.setBuffer b ⟨.free, [], none⟩).copy.buffers) :
    Ends (exec (.storeBlockReadEnd block false w) s) w z := by
  refine ends_of_read hcurrent ?_
  rw [if_neg (by decide), hz]
  refine State.drain_grant_of_owner ((hidle.setBuffer (b := b) rfl).congr hbuffers) ?_
  have hbuffer : z.buffer b = ⟨.free, [], none⟩ := by
    rw [State.buffer, hbuffers]
    exact State.buffer_setBuffer_self s b _
  rw [hbuffer]
  decide

theorem State.voidEntry_valid {d : DirEntry} (hd : s.dir? k = some d) (hvalid : d.state = .valid) (ha : d.start = a) :
    s.voidEntry k a = (s.modDir k fun d => { d with state := .void }).titleVoid k := by
  rw [State.voidEntry, hd]
  exact if_pos ⟨hvalid, ha⟩

theorem State.voidEntry_other (h : ∀ d, s.dir? k = some d → d.state ≠ .valid ∨ d.start ≠ a) : s.voidEntry k a = s := by
  unfold State.voidEntry
  split
  next d hd => exact if_neg fun hc => (h d hd).elim (absurd hc.1) (absurd hc.2)
  next => rfl

/-- What a failed read does with nothing that waits for the title. -/
theorem State.voidTitle_of_none (hu : s.voidEntry k a = u) (hmembers : ∀ p ∈ u.members, p.2.job.work ≠ k)
    (hjobs : ∀ j ∈ u.copy.queue, j.work ≠ k) : s.voidTitle k a = u.raise (.titleVoid k) := by
  have hms : (u.raise (.titleVoid k)).voidMembers k = [] := 
    State.voidMembers_none (by rwa [State.members_raise])
  rw [State.voidTitle, hu]
  simp only [hms]
  exact State.voidJobs_none (s := u.raise _) (by rwa [State.raise_copy])

theorem State.voidTitle_of_job {pre post : List Job} {j : Job} (hu : s.voidEntry k a = u)
    (hmembers : ∀ p ∈ u.members, p.2.job.work ≠ k) (hqueue : u.copy.queue = pre ++ j :: post) (hj : j.work = k)
    (hothers : ∀ i ∈ pre ++ post, i.work ≠ k) :
    s.voidTitle k a =
      ({ u with
        copy := { u.copy with queue := pre ++ post }, bench := u.bench.raised (.titleVoid k) } : State).titleVoidFailure
        j.loan := by
  have hms : (u.raise (.titleVoid k)).voidMembers k = [] :=
    State.voidMembers_none (by rwa [State.members_raise])
  rw [State.voidTitle, hu]
  simp only [hms]
  refine (State.voidJobs_one (s := u.raise _) (by rwa [State.raise_copy]) hj hothers).trans ?_
  rw [State.raise_eq]

theorem State.voidTitle_of_member {n : Idx8} {m : Member} {g : Gang} (hu : s.voidEntry k a = u)
    (hfilter : (u.members.filter fun p => p.2.job.work == k) = [(n, m)]) (hmembers : u.membersOf m.gang = [(n, m)])
    (hg : u.gang? m.gang = some g) (hdone : g.done < g.len) (hb : g.buffer = some b) (hcurrent : u.copy.current = none)
    (hop : (u.socket n).op ≠ none) :
    s.voidTitle k a =
      ((({ u with bench := u.bench.raised (.titleVoid k) } : State).abortedGang n m.gang b).titleVoidFailure
        m.job.loan).voidJobs k := by
  obtain ⟨v, hv⟩ : ∃ v : State, v = { u with bench := u.bench.raised (.titleVoid k) } := ⟨_, rfl⟩
  have hms : v.voidMembers k = [(n, m)] := by
    rw [hv]
    exact State.voidMembers_one (s := { u with bench := _ }) hfilter hg hdone
  have habort : v.abortAll [(n, m)] = v.abortedGang n m.gang b := by
    rw [hv]
    exact State.abortAll_one (s := { u with bench := _ }) hmembers hg hb hcurrent hop
  rw [State.voidTitle, hu, State.raise_eq, ← hv]
  simp only [hms, habort]
  rfl

/-- The title's entry void, and its notice raised, with the store free. -/
def State.voided (s : State) (k : Work) : State :=
  { s.storeFree.modDir k fun d => { d with state := .void } with bench := s.bench.raised (.titleVoid k) }

theorem State.copyLoan.voided (h : s.copyLoan n e) : (s.voided k).copyLoan n e := h.congr rfl rfl

section
variable {d : DirEntry}

theorem State.storeFree_voidEntry_of_unbid (s : State) (hd : s.dir? k = some d) (hvalid : d.state = .valid)
    (ha : d.start = a) (hunbid : ∀ e ∈ s.book.entries, e.unbidFor k) :
    s.storeFree.voidEntry k a = s.storeFree.modDir k fun d => { d with state := .void } :=
  (State.voidEntry_valid (s := s.storeFree) hd hvalid ha).trans
    (State.titleVoid_of_unbid (s := s.storeFree.modDir k _) hunbid)

/-- A title that was not VALID in this extent, or whose BIDs, members and jobs are none. -/
theorem ends_of_failed_other (hcurrent : s.copy.current = some (b, .read k a x)) (hidle : s.storeIdle)
    (hu : s.storeFree.voidEntry k a = u) (hcopy : u.copy = s.storeFree.copy) (hmembers : ∀ p ∈ u.members, p.2.job.work ≠ k)
    (hjobs : ∀ j ∈ s.copy.queue, j.work ≠ k) :
    Ends (exec (.storeBlockReadEnd block false w) s) w
      { u with
        copy := { s.copy with current := none, buffers := s.drainedBuffers b }, bench := u.bench.raised (.titleVoid k) } := by
  have hz : s.storeFree.voidTitle k a = { u with bench := u.bench.raised (.titleVoid k) } := by
    rw [State.voidTitle_of_none hu hmembers (by rw [hcopy]; exact hjobs), State.raise_eq]
  have hends := ends_of_failed (block := block) (w := w) (c := s.storeFree.copy) hcurrent hidle hz hcopy rfl
  exact hends

/-- The failure of a loan ends the read. -/
theorem ends_of_failed_loan {q : State} (hcurrent : s.copy.current = some (b, .read k a x)) (hidle : s.storeIdle)
    (hz : s.storeFree.voidTitle k a = q.titleVoidFailure n) (hq : q.copyLoan n e)
    (hbuffers : q.copy.buffers = s.copy.buffers) :
    ∃ z, OwnReleased (({ q with copy := { q.copy with buffers := s.drainedBuffers b } } : State).dropLoan n) e .titleVoid z ∧
      Ends (exec (.storeBlockReadEnd block false w) s) w z := by
  have hr := State.titleVoidFailure_released hq
  exact ⟨_, hr.withCopy { q.copy with buffers := s.drainedBuffers b },
    ends_of_failed hcurrent hidle hz hr.copy_eq hbuffers⟩

/-- One job that waits goes with its loan's failure. -/
theorem ends_of_failed_job {pre post : List Job} {j : Job} (hcurrent : s.copy.current = some (b, .read k a x))
    (hidle : s.storeIdle) (hd : s.dir? k = some d) (hvalid : d.state = .valid) (ha : d.start = a)
    (hunbid : ∀ e ∈ s.book.entries, e.unbidFor k) (hmembers : ∀ p ∈ s.members, p.2.job.work ≠ k)
    (hqueue : s.copy.queue = pre ++ j :: post) (hj : j.work = k) (hothers : ∀ i ∈ pre ++ post, i.work ≠ k)
    (hloan : s.copyLoan j.loan e) :
    ∃ z, OwnReleased
        (({ s.voided k with
          copy := { (s.voided k).copy with queue := pre ++ post, buffers := s.drainedBuffers b } } : State).dropLoan j.loan)
        e .titleVoid z ∧
      Ends (exec (.storeBlockReadEnd block false w) s) w z := by
  have hz : s.storeFree.voidTitle k a =
      ({ s.voided k with copy := { (s.voided k).copy with queue := pre ++ post } } : State).titleVoidFailure j.loan :=
    State.voidTitle_of_job (s.storeFree_voidEntry_of_unbid hd hvalid ha hunbid) hmembers hqueue hj hothers
  have hends := ends_of_failed_loan (block := block) (w := w) hcurrent hidle hz (hloan.congr rfl rfl) rfl
  exact hends

/-- A BID that waits is voided, and nothing else waits for the title. -/
theorem State.storeFree_voidEntry_of_bid {p : Pledge} {pre post : List TxEntry} {y : TxEntry} (hd : s.dir? k = some d)
    (hvalid : d.state = .valid) (ha : d.start = a) (hbid : s.bidWaits e k p pre y post) :
    s.storeFree.voidEntry k a = (s.storeFree.modDir k fun d => { d with state := .void }).bidVoided e k p (pre ++ post) := by
  obtain ⟨he, hk, hq, hp, hothers, hone, htx, hpre, hpost, hsending, hpacing⟩ := hbid
  exact (State.voidEntry_valid (s := s.storeFree) hd hvalid ha).trans
    (State.titleVoid_one (s := s.storeFree.modDir k _) he hk hq hp hothers hone ⟨htx, hpre, hpost⟩ hsending hpacing)

section
variable {q : State} {i : Idx8} {m : Member}

/-- A member's loan alone fails. -/
theorem ends_of_failed_member (hcurrent : s.copy.current = some (b, .read k a x)) (hidle : s.storeIdle)
    (hz : s.storeFree.voidTitle k a = (q.titleVoidFailure m.job.loan).voidJobs k)
    (hbuffers : q.copy.buffers = (s.setBuffer b ⟨.free, [], none⟩).copy.buffers) (hloan : q.copyLoan m.job.loan e)
    (hjobs : ∀ j ∈ q.copy.queue, j.work ≠ k) :
    ∃ z, OwnReleased (q.dropLoan m.job.loan) e .titleVoid z ∧ Ends (exec (.storeBlockReadEnd block false w) s) w z := by
  have hr := State.titleVoidFailure_released hloan
  refine ⟨_, hr, ends_of_failed_freed hcurrent hidle ?_ ((congrArg CopyEngine.buffers hr.copy_eq).trans hbuffers)⟩
  rw [hz]
  exact State.voidJobs_none (by rw [hr.copy_eq]; exact hjobs)

/-- A member's loan fails, and then the loan of a job that waits. -/
theorem ends_of_failed_both {pre post : List Job} {j : Job} (hcurrent : s.copy.current = some (b, .read k a x))
    (hidle : s.storeIdle) (hz : s.storeFree.voidTitle k a = (q.titleVoidFailure m.job.loan).voidJobs k)
    (hbuffers : q.copy.buffers = (s.setBuffer b ⟨.free, [], none⟩).copy.buffers) (hloan : q.copyLoan m.job.loan e)
    (hqueue : q.copy.queue = pre ++ j :: post) (hj : j.work = k) (hothers : ∀ i ∈ pre ++ post, i.work ≠ k)
    (hloan' : q.copyLoan j.loan e') (hne : j.loan ≠ m.job.loan) (horder : e'.order ≠ e.order) :
    ∃ y z,
      OwnReleased (({ q with copy := { q.copy with queue := pre ++ post } } : State).dropLoan m.job.loan) e .titleVoid y ∧
        OwnReleased (y.dropLoan j.loan) e' .titleVoid z ∧ Ends (exec (.storeBlockReadEnd block false w) s) w z := by
  have hreleased := State.titleVoidFailure_released hloan
  have hr := hreleased.withCopy { q.copy with queue := pre ++ post }
  have hz' : s.storeFree.voidTitle k a =
      ({ q.titleVoidFailure m.job.loan with copy := { q.copy with queue := pre ++ post } } : State).titleVoidFailure
        j.loan := by
    rw [hz, State.voidJobs_one (by rw [hreleased.copy_eq]; exact hqueue) hj hothers, hreleased.copy_eq]
    rfl
  have hafter : ({ q.titleVoidFailure m.job.loan with copy := { q.copy with queue := pre ++ post } } : State).copyLoan
      j.loan e' := (hloan'.after hreleased hne horder).congr rfl rfl
  have hr' := State.titleVoidFailure_released hafter
  refine ⟨_, _, hr, hr', ends_of_failed_freed hcurrent hidle hz' ?_⟩
  exact (congrArg CopyEngine.buffers hr'.copy_eq).trans hbuffers

end

end

end

/-- Settles O52: the grant, and each end by its request and by who holds the buffer. -/
theorem storeBlockEnds : Obligations.StoreBlockEnds := by
  intro s w b idle buffers drained
  refine ⟨fun h => State.grant_of_idle h, fun x hcurrent hx hfirst => State.grant_of_first hcurrent hx hfirst,
    fun block good h => exec_storeBlockReadEnd_none h, fun written h => exec_storeBlockWriteEnd_none h,
    fun k a x block hcurrent hidle => ⟨fun id g howner hg => ⟨fun h => ends_of_none_waiting hcurrent hidle howner hg h,
      fun n m v hone hw hclean hb hv hk hindex hcapacity => ?_, fun hb hindex hview hfinishing => ?_⟩,
      fun howner => ends_of_drained_read hcurrent hidle howner⟩, fun k a x block hcurrent hidle hmembers hjobs hentries => ?_,
    ?_,
    fun x n i d v hcurrent hidle howner hstate hb hd hv => ⟨fun hlt hcapacity => ?_, fun hlast hcheck => ?_,
      fun hlast hcheck => ?_, ?_⟩, fun x written hcurrent hidle howner => ends_of_drained_write hcurrent hidle howner⟩
  · have hends := ends_of_one_waiting (block := block) (w := w) hcurrent hidle howner hg hone hw hb hv hk hindex hcapacity
    rw [Socket.works, Member.firstWork, hclean] at hends
    exact hends
  · refine ⟨_, fun q => ?_, ends_of_waiting hcurrent hidle howner hg hb hindex hview⟩
    split
    next m hm => exact socketsAfter_copying _ hm
    next hno => exact socketsAfter_not_copying _ hno fun m hm => hfinishing q m hm
  · have hunbid : ∀ e ∈ s.book.entries, e.unbidFor k := fun e he hk => absurd hk (hentries e he)
    intro r free
    refine ⟨fun d hd hvalid ha => ?_, fun hother => ?_⟩
    · intro void
      rw [State.raise_eq]
      have hends := ends_of_failed_other (block := block) (w := w) hcurrent hidle
        (s.storeFree_voidEntry_of_unbid hd hvalid ha hunbid) rfl hmembers hjobs
      exact hends
    · rw [State.raise_eq]
      have hends := ends_of_failed_other (block := block) (w := w) hcurrent hidle
        (State.voidEntry_other (s := s.storeFree) hother) rfl hmembers hjobs
      exact hends
  · intro k a x block d hcurrent hidle hd hvalid ha r void unbid released releases bidWaits withdrawn
    have hvoid : void = s.voided k := State.raise_eq _ _
    have hreleases {loan : LoanNo} {st : CartStatus} {e : Entry} (hst : st = .queued ∨ st = .copying)
        (h : releases loan st e) : s.copyLoan loan e := by
      obtain ⟨⟨l, t, hl, hclaimed, hbraille, hc⟩, hbook⟩ := h
      exact ⟨⟨l, st, t, hl, hclaimed, hbraille, hc, hst⟩, hbook⟩
    clear_value void
    subst hvoid
    refine ⟨fun pre j post e hunbid hmembers hqueue hj hothers hloan => ?_, fun e p pre y post hmembers hjobs hbid => ?_,
      fun n m g e hfilter hmembers hg hb howner hdone hop hloan => ⟨?_, ?_, ?_⟩⟩
    · exact ends_of_failed_job hcurrent hidle hd hvalid ha hunbid hmembers hqueue hj hothers (hreleases (.inl rfl) hloan)
    · have hends := ends_of_failed_other (block := block) (w := w) hcurrent hidle
        (State.storeFree_voidEntry_of_bid hd hvalid ha hbid) rfl hmembers hjobs
      exact hends
    · intro hunbid hjobs
      have hz := State.voidTitle_of_member (s.storeFree_voidEntry_of_unbid hd hvalid ha hunbid) hfilter hmembers hg hdone hb
        rfl hop
      have hends := ends_of_failed_member (w := w) (block := block) hcurrent hidle hz rfl
        ((hreleases (.inr rfl) hloan).congr rfl rfl) hjobs
      exact hends
    · intro pre j post e' hunbid hqueue hj hothers hloan' hne horder
      have hz := State.voidTitle_of_member (s.storeFree_voidEntry_of_unbid hd hvalid ha hunbid) hfilter hmembers hg hdone hb
        rfl hop
      have hends := ends_of_failed_both (w := w) (block := block) hcurrent hidle hz rfl
        ((hreleases (.inr rfl) hloan).congr rfl rfl) hqueue hj hothers
        ((hreleases (.inl rfl) hloan').congr rfl rfl) hne horder
      exact hends
    · intro e' p pre y post hjobs hbid horder
      have hz := State.voidTitle_of_member (State.storeFree_voidEntry_of_bid hd hvalid ha hbid) hfilter hmembers hg hdone hb
        rfl hop
      have hends := ends_of_failed_member (w := w) (block := block) hcurrent hidle hz rfl
        (((hreleases (.inr rfl) hloan).bidVoided (k := k) (p := p) (tx := pre ++ post) (Ne.symm horder)).congr rfl rfl) hjobs
      exact hends
  · exact ends_of_ingest hcurrent howner hstate (State.ingestWritten_next hd hlt hv hcapacity) hidle (howner ▸ nofun)
  · exact ends_of_ingest_whole hcurrent hidle howner hstate hb hd hv hlast hcheck
  · exact ends_of_ingest_failed hcurrent hidle howner hstate hb hv (State.ingestWritten_bad hd hlast hcheck)
  · exact ends_of_ingest_failed hcurrent hidle howner hstate hb hv State.ingestWritten_failed

end Sys2Proof.Machine
end

section
/-! PROOFS. The classification of an identified cartridge (R88, R89, R113, R120, R121, R136, R137, R141): O46. -/

namespace Sys2Proof.Machine

variable {s t u : State} {n : Idx8} {v : View} {slot : Nat} {loan : LoanNo} {l : Loan}

/-! ### The slots of a view (R77) -/

theorem View.mem_slotsWhere {p : List Byte → Bool} :
    slot ∈ v.slotsWhere p ↔ 1 ≤ slot ∧ slot ≤ v.slots.length ∧ p (v.slot slot) = true := by
  rw [View.slotsWhere, List.mem_filter, List.mem_map]
  constructor
  · rintro ⟨⟨i, hi, rfl⟩, hp⟩
    rw [List.mem_range] at hi
    exact ⟨by omega, by omega, hp⟩
  · rintro ⟨h1, hle, hp⟩
    exact ⟨⟨slot - 1, List.mem_range.mpr (by omega), by omega⟩, hp⟩

theorem View.slotsWhere_pairwise (p : List Byte → Bool) : (v.slotsWhere p).Pairwise (· < ·) :=
  (List.pairwise_map.mpr (List.pairwise_lt_range.imp fun h => Nat.succ_lt_succ h)).filter _

/-- The last of an ascending list is its greatest. -/
theorem getLast?_of_greatest {ns : List Nat} {a : Nat} (hns : ns.Pairwise (· < ·)) (ha : a ∈ ns) (hmax : ∀ q ∈ ns, q ≤ a) :
    ns.getLast? = some a := by
  obtain ⟨ys, x, rfl⟩ := List.eq_nil_or_concat ns |>.resolve_left (List.ne_nil_of_mem ha)
  rw [List.concat_eq_append] at *
  rw [List.getLast?_append_of_ne_nil _ (by simp)]
  rw [List.pairwise_append] at hns
  rcases List.mem_append.mp ha with hy | hx
  · have hlt := hns.2.2 a hy x List.mem_cons_self
    have hle := hmax x (by simp)
    omega
  · rw [List.mem_singleton.mp hx]
    rfl

theorem guardOk_tagWrite (hk : v.kind = .stock) (hlen : v.slots.length = 64) (hfree : v.nextFree = some slot) (day : Day)
    (x : Station) : guardOk v (tagWrite slot loan x day) = true := by
  obtain ⟨-, hle, -⟩ := View.mem_slotsWhere.mp (List.mem_of_mem_head? hfree)
  obtain ⟨hmod, hend⟩ := slotPage_of_le (k := slot) (by omega)
  have hpos := v.capacity.blocks_pos
  rw [tagWrite, guardOk_page_iff]
  exact ⟨CartKind.eq_stock_iff.mp hk, hmod, by omega, .inr ⟨rfl, hfree⟩⟩

theorem Capacity.one_lt_blocks (c : Capacity) : 1 < c.blocks := by
  cases c <;> decide

/-! ### The tests that come first (R88, steps 1 and 2) -/

theorem State.seatedElsewhere_iff {x : Serial} :
    s.seatedElsewhere n x = true ↔ ∃ q, q ≠ n ∧ ∃ u, (s.socket q).view = some u ∧ u.serial = x := by
  rw [State.seatedElsewhere, List.any_eq_true]
  constructor
  · rintro ⟨q, -, hq⟩
    rw [Bool.and_eq_true, bne_iff_ne] at hq
    obtain ⟨hne, hx⟩ := hq
    cases hv : (s.socket q).view with
    | none => rw [hv] at hx; cases hx
    | some u =>
      rw [hv] at hx
      exact ⟨q, hne, u, hv, beq_iff_eq.mp hx⟩
  · rintro ⟨q, hne, u, hv, hx⟩
    refine ⟨q, List.mem_finRange q, ?_⟩
    rw [Bool.and_eq_true, bne_iff_ne, hv]
    exact ⟨hne, beq_iff_eq.mpr hx⟩

theorem State.classify_elsewhere (h : s.seatedElsewhere n v.serial = true) : s.classify n v = s.rejectSocket n .foreign :=
  if_pos h

theorem State.classify_quarantined (h : ¬ s.seatedElsewhere n v.serial = true) (hq : v.serial ∈ s.quarantine) :
    s.classify n v = s.rejectSocket n .quarantined := by
  rw [State.classify, if_neg h, if_pos (by simpa using hq)]

section
variable (h : ¬ s.seatedElsewhere n v.serial = true) (hq : v.serial ∉ s.quarantine)
include h hq

theorem State.classify_refused {why : RejectReason} (hk : v.kind = .master) (hwanted : s.ingestWanted v = .error why) :
    s.classify n v = s.rejectSocket n why := by
  rw [State.classify, if_neg h, if_neg (by simpa using hq), if_pos hk, hwanted]

theorem State.classify_wanted {start : Nat} (hk : v.kind = .master) (hwanted : s.ingestWanted v = .ok start) :
    s.classify n v = s.startIngest n v start := by
  rw [State.classify, if_neg h, if_neg (by simpa using hq), if_pos hk, hwanted]

theorem State.classify_issuing {x : StockRec} (hk : v.kind = .stock) (hx : s.stock? v.serial = some x)
    (hissuing : x.state = .issuing loan) : s.classify n v = s.enterTagging n v loan := by
  obtain ⟨serial, work, used, state, shelf⟩ := x
  obtain rfl : state = .issuing loan := hissuing
  rw [State.classify, if_neg h, if_neg (by simpa using hq), if_neg (by rw [hk]; decide), hx]

theorem State.classify_rest (hk : v.kind = .stock)
    (hno : ∀ x loan, s.stock? v.serial = some x → x.state ≠ .issuing loan) :
    s.classify n v = s.classifyRest n v (s.stock? v.serial) := by
  rw [State.classify, if_neg h, if_neg (by simpa using hq), if_neg (by rw [hk]; decide)]
  split
  next loan _ hx => exact absurd rfl (hno _ loan hx)
  next => rfl

end

/-! ### A master (R120, R121) -/

section
variable {d : DirEntry}

theorem State.ingestWanted_bad (h : v.contentPresent = false) : s.ingestWanted v = .error .badMaster := if_pos h

theorem State.ingestWanted_known (h : v.contentPresent = true) (hd : s.dir? v.work = some d) (hs : d.state ≠ .void) :
    s.ingestWanted v = .error .masterNotNeeded := by
  rw [State.ingestWanted, if_neg (by simp [h]), hd]
  exact if_pos hs

theorem State.ingestWanted_inUse (h : v.contentPresent = true) (hd : s.dir? v.work = some d) (hs : d.state = .void)
    (hu : 0 < s.users v.work) : s.ingestWanted v = .error .titleInUse := by
  rw [State.ingestWanted, if_neg (by simp [h]), hd]
  dsimp only
  rw [if_neg (by simp [hs]), if_pos hu]

theorem State.ingestWanted_inPlace (h : v.contentPresent = true) (hd : s.dir? v.work = some d) (hs : d.state = .void)
    (hu : s.users v.work = 0) (hle : v.len ≤ d.len) : s.ingestWanted v = .ok d.start := by
  rw [State.ingestWanted, if_neg (by simp [h]), hd]
  dsimp only
  rw [if_neg (by simp [hs]), if_neg (by omega), if_pos hle]

/-- What first-fit gives an ingest: its start, or no room in the store. -/
def placed : Option Nat → Except RejectReason Nat
  | some b => .ok b
  | none => .error .storeFull

theorem State.ingestWanted_moved (h : v.contentPresent = true) (hd : s.dir? v.work = some d) (hs : d.state = .void)
    (hu : s.users v.work = 0) (hlt : d.len < v.len) :
    s.ingestWanted v = placed (firstFit (s.tables.directory.filter fun y => y.work != v.work) s.start.storeSize v.len) := by
  rw [State.ingestWanted, if_neg (by simp [h]), hd]
  dsimp only
  rw [if_neg (by simp [hs]), if_neg (by omega), if_neg (by omega)]
  rfl

theorem State.ingestWanted_full (h : v.contentPresent = true) (hd : s.dir? v.work = none)
    (hfull : 512 ≤ s.tables.directory.length) : s.ingestWanted v = .error .directoryFull := by
  rw [State.ingestWanted, if_neg (by simp [h]), hd]
  exact if_pos hfull

theorem State.ingestWanted_new (h : v.contentPresent = true) (hd : s.dir? v.work = none)
    (hroom : s.tables.directory.length < 512) :
    s.ingestWanted v = placed (firstFit s.tables.directory s.start.storeSize v.len) := by
  rw [State.ingestWanted, if_neg (by simp [h]), hd]
  dsimp only
  rw [if_neg (by omega)]
  rfl

/-- The station with another directory. -/
def State.withDirectory (s : State) (ds : List DirEntry) : State :=
  { s with tables := { s.tables with directory := ds } }

theorem State.loadEntry_new {start : Nat} (hd : s.dir? v.work = none) :
    s.loadEntry v start = s.withDirectory (s.tables.directory ++ [⟨v.work, start, v.len, v.check, .loading⟩]) := by
  rw [State.loadEntry, hd]
  rfl

theorem State.loadEntry_known {start : Nat} (hd : s.dir? v.work = some d) :
    s.loadEntry v start =
      s.withDirectory (s.tables.directory.map fun y =>
        if y.work = v.work then ⟨v.work, start, v.len, v.check, .loading⟩ else y) := by
  rw [State.loadEntry, hd]
  rfl

/-- An ingest that waits for a buffer. -/
theorem State.startIngest_waits {start : Nat} (hload : s.loadEntry v start = t) (hsockets : t.sockets = s.sockets)
    (hcopy : t.copy = s.copy) (hfree : ∀ b, (s.buffer b).owner ≠ .free) :
    s.startIngest n v start =
      { t.setSocket n { s.socket n with state := .ingesting ⟨v.work, none, 1, imagePreset⟩, op := none } with
        copy := { s.copy with ingestWait := s.copy.ingestWait ++ [n] } } := by
  have hnone (k : Socket) : (t.setSocket n k).freeBuffer? = none := State.freeBuffer?_eq_none.mpr fun b => by
    rw [State.buffer, State.setSocket_copy, hcopy]
    exact hfree b
  have hsocket : t.socket n = s.socket n := by rw [State.socket, hsockets]; rfl
  rw [State.startIngest, hload]
  dsimp only
  rw [State.modSocket, hnone, hsocket, State.setSocket_copy, hcopy]

/-- An ingest that takes the lowest free buffer reads its first block. -/
theorem State.startIngest_reads {start : Nat} {b : Fin 4} (hload : s.loadEntry v start = t)
    (hsockets : t.sockets = s.sockets) (hcopy : t.copy = s.copy) (hv : (s.socket n).view = some v)
    (hfree : (s.buffer b).owner = .free) (hlow : ∀ q < b, (s.buffer q).owner ≠ .free) :
    s.startIngest n v start =
      (t.setSocket n
        { s.socket n with
          state := .ingesting ⟨v.work, some b, 1, imagePreset⟩, op := some (.read 65536 65536), hold := none }).setBuffer b
        ⟨.ingest n, [], none⟩ := by
  have hsome (k : Socket) : (t.setSocket n k).freeBuffer? = some b := by
    have hbuffer (q : Fin 4) : (t.setSocket n k).buffer q = s.buffer q := by
      rw [State.buffer, State.setSocket_copy, hcopy]
      rfl
    exact State.freeBuffer?_eq_some (by rw [hbuffer]; exact hfree) fun q hq => by rw [hbuffer]; exact hlow q hq
  have hsocket : t.socket n = s.socket n := by rw [State.socket, hsockets]; rfl
  rw [State.startIngest, hload]
  dsimp only
  rw [State.modSocket, hsome, hsocket]
  dsimp only
  rw [State.ingestTakes_eq (v := v) (by rw [State.socket_setSocket_self]; exact hv) v.capacity.one_lt_blocks,
    State.socket_setSocket_self, Socket.ingestReads, Nat.one_mul]
  exact congrArg (fun x : State => x.setBuffer b ⟨.ingest n, [], none⟩) (State.setSocket_setSocket _ _)

end

/-! ### Reissue tagging (R113) -/

theorem State.cartReport_withLoans (path : CartPath) (before after : CartStatus) :
    s.cartReport loan path before after = s.withLoans fun l =>
      if l.number = loan ∧ l.cart.any (fun c => c.path == path && c.status == before) then
        { l with cart := l.cart.map fun c => { c with status := after } }
      else l := by
  rw [State.cartReport_eq, State.modLoan, State.withLoans]
  refine congrArg (fun f : Loan → Loan => ({ s with tables := { s.tables with loans := s.tables.loans.map f } } : State))
    (funext fun l => ?_)
  by_cases hn : l.number = loan
  · rw [if_pos hn]
    exact if_congr (by simp [hn]) rfl rfl
  · rw [if_neg hn, if_neg fun h => hn h.1]

theorem State.enterTagging_writes (hv : (s.socket n).view = some v) (hk : v.kind = .stock) (hlen : v.slots.length = 64)
    (htagged : v.alreadyTagged loan = false) (hfree : v.nextFree = some slot) :
    s.enterTagging n v loan =
      (s.cartReport loan .reissue .queued .copying).setSocket n
        { s.socket n with
          state := .tagging loan false
          op := some (.guarded (tagWrite slot loan s.station s.tables.day) (.beforeCommand (some (s.socket n).link)))
          hold := none, link := (s.socket n).link.unlock } := by
  have hview : ((s.putSock n (.tagging loan false)).socket n).view = some v := by
    rw [State.putSock, State.modSocket, State.socket_setSocket_self]
    exact hv
  rw [State.enterTagging]
  dsimp only
  rw [if_neg (by simp [htagged]), State.startTag,
    show ((s.putSock n (.tagging loan false)).cartReport loan .reissue .queued .copying).socket n =
      (s.putSock n (.tagging loan false)).socket n from rfl, hview, Option.bind_some, hfree]
  exact State.startGuarded_putSock (s := s.cartReport loan .reissue .queued .copying) _ hv
    (guardOk_tagWrite hk hlen hfree _ _)

/-- A loan's record after a report of its cartridge part (R57). -/
def Loan.reported (l : Loan) (path : CartPath) (before after : CartStatus) : Loan :=
  if l.cart.any (fun c => c.path == path && c.status == before) then
    { l with cart := l.cart.map fun c => { c with status := after } }
  else l

theorem Loan.reported_number {path : CartPath} {before after : CartStatus} :
    (l.reported path before after).number = l.number := by
  unfold Loan.reported
  split <;> rfl

theorem State.cartReport_reported (path : CartPath) (before after : CartStatus) :
    s.cartReport loan path before after = s.modLoan loan (·.reported path before after) :=
  State.cartReport_eq s loan path before after

/-- A loan's record after the readiness test (R58). -/
def Loan.tested (l : Loan) : Loan := if l.state = .claimed ∧ l.allReady = true then { l with state := .ready } else l

theorem State.modLoan_congr {f g : Loan → Loan} (h : ∀ l ∈ s.tables.loans, l.number = loan → f l = g l) :
    s.modLoan loan f = s.modLoan loan g := by
  have hmap : (s.tables.loans.map fun l => if l.number = loan then f l else l) =
      s.tables.loans.map fun l => if l.number = loan then g l else l := List.map_congr_left fun l hl => by
    by_cases hn : l.number = loan
    · rw [if_pos hn, if_pos hn, h l hl hn]
    · rw [if_neg hn, if_neg hn]
  rw [State.modLoan, hmap]
  rfl

/-- The three reports on a reissued loan, one after another, make it READY with the serial. -/
def Loan.reissued (l : Loan) (x : Serial) : Loan :=
  { l with state := .ready, cart := l.cart.map fun c => { c with status := .ready x } }

theorem Loan.reissued_eq {a : Nat} {x : Serial} (hs : l.state = .claimed) (hb : l.braille = none)
    (hc : l.cart = some ⟨.reissue, .queued, a⟩) :
    (((l.reported .reissue .queued .copying).reported .reissue .copying (.ready x)).tested) = l.reissued x := by
  have hcopying : l.reported .reissue .queued .copying = { l with cart := some ⟨.reissue, .copying, a⟩ } := by
    rw [Loan.reported, hc]
    rfl
  rw [hcopying]
  have hready : ({ l with cart := some ⟨.reissue, .copying, a⟩ } : Loan).reported .reissue .copying (.ready x) =
      { l with cart := some ⟨.reissue, .ready x, a⟩ } := rfl
  rw [hready, Loan.tested, Loan.allReady, Loan.reissued, hc, hb]
  exact if_pos ⟨hs, rfl⟩

/-- A cartridge tagged before a reset completes its reissue (R88, R113). -/
theorem State.enterTagging_done (hv : (s.socket n).view = some v) (htagged : v.alreadyTagged loan = true)
    (hloans : ∀ l ∈ s.tables.loans, l.number = loan →
      l.state = .claimed ∧ l.braille = none ∧ ∃ a, l.cart = some ⟨.reissue, .queued, a⟩) :
    s.enterTagging n v loan =
      State.raise
        { s.setSocket n { s.socket n with state := .done loan, op := none } with
          tables :=
            { s.tables with
              stock := s.tables.stock.filter fun y => y.serial != v.serial
              loans := s.tables.loans.map fun l =>
                if l.number = loan then
                  { l with state := .ready, cart := l.cart.map fun c => { c with status := .ready v.serial } }
                else l } }
        (.copyReady n loan v.serial) := by
  have hserial : ((s.putSock n (.tagging loan false)).cartReport loan .reissue .queued .copying).serialAt n = v.serial := by
    rw [State.serialAt_eq,
      show ((s.putSock n (.tagging loan false)).cartReport loan .reissue .queued .copying).socket n =
        (s.putSock n (.tagging loan false)).socket n from rfl,
      State.putSock, State.modSocket, State.socket_setSocket_self]
    exact congrArg (fun x : Option View => (x.map (·.serial)).getD 0) hv
  rw [State.enterTagging]
  dsimp only
  rw [if_pos htagged, State.reissueDone, hserial]
  simp only [State.cartReport_reported]
  have hloan : ((((s.putSock n (.tagging loan false)).dropStock v.serial).modLoan loan
        (·.reported .reissue .queued .copying)).modLoan loan (·.reported .reissue .copying (.ready v.serial))).modLoan loan
        Loan.tested =
      ((s.putSock n (.tagging loan false)).dropStock v.serial).modLoan loan (·.reissued v.serial) := by
    rw [State.modLoan_modLoan (fun _ => Loan.reported_number), 
      State.modLoan_modLoan fun _ => Loan.reported_number]
    refine State.modLoan_congr fun l hl hn => ?_
    obtain ⟨hs, hb, a, hc⟩ := hloans l hl hn
    exact Loan.reissued_eq hs hb hc
  refine congrArg (fun x : State =>
    (x.modSocket n fun k => { k with state := .done loan, op := none }).raise (.copyReady n loan v.serial)) hloan |>.trans ?_
  refine congrArg (State.raise · _) ?_
  exact State.modSocket_setSocket (s := (s.dropStock v.serial).modLoan loan (·.reissued v.serial)) _ _

/-! ### An open slot (R71, R89, R136, R137) -/

/-- A socket's record as the close of a slot begins its check. -/
def Socket.closes (k : Socket) (c : Check) (slot : Nat) (day : Day) (x : Station) : Socket :=
  { k with
    state := .checking c, op := some (.guarded (closeWrite slot day x) (.beforeCommand (some k.link))), hold := none
    link := k.link.unlock }

section
variable (hv : (s.socket n).view = some v) (hk : v.kind = .stock) (hlen : v.slots.length = 64)
  (ho : v.openSlot = some slot)
include hv hk hlen ho

theorem State.startClose_eq (c : Check) :
    (s.putSock n (.checking c)).startGuarded n (closeWrite slot s.tables.day s.station) =
      s.setSocket n ((s.socket n).closes c slot s.tables.day s.station) :=
  State.startGuarded_putSock _ hv (guardOk_closeWrite hk hlen ho _ _)

theorem State.enterReturn_own :
    s.enterReturn n slot loan true =
      s.setSocket n ((s.socket n).closes ⟨.ownReturn, some slot, some loan, .closing⟩ slot s.tables.day s.station) := by
  rw [State.enterReturn, if_pos rfl, State.sendBackMark]
  exact State.startClose_eq hv hk hlen ho _

theorem State.enterReturn_foreign (hroom : s.returns.outbox.length < 16) (hno : ∀ e ∈ s.returns.outbox, e.loan ≠ loan) :
    s.enterReturn n slot loan false =
      { s.setSocket n ((s.socket n).closes ⟨.foreignReturn, some slot, some loan, .closing⟩ slot s.tables.day s.station) with
        returns :=
          { s.returns with outbox := s.returns.outbox ++ [⟨loan, v.serial, s.tables.day, none, false, some n⟩] } } := by
  have hout : s.outboxRoom loan = true := by
    rw [State.outboxRoom, Bool.and_eq_true, decide_eq_true_iff, List.all_eq_true]
    exact ⟨hroom, fun e he => bne_iff_ne.mpr (hno e he)⟩
  have hclose := State.startClose_eq hv hk hlen ho ⟨.foreignReturn, some slot, some loan, .closing⟩
  have hserial : (s.setSocket n ((s.socket n).closes ⟨.foreignReturn, some slot, some loan, .closing⟩ slot s.tables.day
      s.station)).serialAt n = v.serial := by
    rw [State.serialAt_eq, State.socket_setSocket_self]
    exact congrArg (fun x : Option View => (x.map (·.serial)).getD 0) hv
  rw [State.enterReturn, if_neg (by decide)]
  dsimp only
  rw [if_pos hout, State.sendBackMark]
  dsimp only
  rw [show (s.putSock n (.checking ⟨.foreignReturn, some slot, some loan, .closing⟩)).startGuarded n
    (closeWrite slot (s.putSock n (.checking ⟨.foreignReturn, some slot, some loan, .closing⟩)).tables.day
      (s.putSock n (.checking ⟨.foreignReturn, some slot, some loan, .closing⟩)).station) = _ from hclose, hserial]
  rfl

/-- A stale tag is closed in no-loan mode, whatever the report of it has changed in the tables and the book. -/
theorem State.closeFirst_after (hsockets : t.sockets = s.sockets) (hday : t.tables.day = s.tables.day)
    (hstart : t.start = s.start) :
    t.closeFirst n slot =
      t.setSocket n
        ((s.socket n).closes ⟨.noLoan, some slot, some (slotLoan (v.slot slot)), .closing⟩ slot s.tables.day s.station) := by
  have hsocket : t.socket n = s.socket n := by rw [State.socket, hsockets]; rfl
  have hstation : t.station = s.station := by rw [State.station, hstart]; rfl
  rw [State.closeFirst_eq (s := t) (by rw [hsocket]; exact hv) hk hlen ho, hsocket, hday, hstation]
  rfl

end

theorem State.enterReturn_waits
    (hfull : 16 ≤ s.returns.outbox.length ∨ ∃ e ∈ s.returns.outbox, e.loan = loan) :
    s.enterReturn n slot loan false =
      { s.setSocket n
          { s.socket n with state := .checking ⟨.foreignReturn, some slot, some loan, .waitRoom⟩, op := none } with
        returns := { s.returns with wait := s.returns.wait ++ [n] } } := by
  have hout : ¬ s.outboxRoom loan = true := by
    rw [State.outboxRoom, Bool.and_eq_true, decide_eq_true_iff, List.all_eq_true]
    rintro ⟨hroom, hall⟩
    rcases hfull with h | ⟨e, he, h⟩
    · omega
    · exact bne_iff_ne.mp (hall e he) h
  rw [State.enterReturn, if_neg (by decide)]
  exact if_neg hout

/-- A tray row changes the notices, and of the tables the loans, the trays and the dispatch line. -/
theorem TrayRow.frame (h : TrayRow s l u) :
    u = { s with
      bench := u.bench
      tables :=
        { s.tables with loans := u.tables.loans, trays := u.tables.trays, dispatchLine := u.tables.dispatchLine } } := by
  rcases h with ⟨-, rfl⟩ | ⟨-, q, x, -, -, -, rfl⟩
  · rfl
  · rw [State.raise_eq]

/-- Through a tray row a loan keeps all but its tray. -/
theorem TrayRow.loan? (h : TrayRow s l u) (hl : s.loan? l.number = some l) :
    ∃ y, u.loan? l.number = some y ∧ y.number = l.number ∧ y.work = l.work ∧ y.braille = l.braille := by
  rcases h with ⟨-, rfl⟩ | ⟨-, q, x, -, -, -, rfl⟩
  · exact ⟨l, hl, rfl, rfl, rfl⟩
  · refine ⟨{ l with tray := none }, ?_, rfl, rfl, rfl⟩
    rw [State.loan?, State.raise_tables]
    exact State.loan?_modLoan (f := fun y => { y with tray := none }) hl fun _ => rfl

/-- A braille row is of the sets and the book, and so goes the same way past a change of a loan's record. -/
theorem BrailleRow.modLoan {b : State} {l' : Loan} {f : Loan → Loan} (h : BrailleRow s l b) (hb : l'.braille = l.braille) :
    BrailleRow (s.modLoan loan f) l' (b.modLoan loan f) := by
  rw [BrailleRow] at h ⊢
  rw [hb]
  cases hl : l.braille with
  | none =>
    rw [hl] at h
    rw [h]
  | some x =>
    rw [hl] at h
    obtain ⟨k, st⟩ := x
    cases st with
    | picked =>
      subst h
      simp only [State.raise_eq]
      rfl
    | _ =>
      subst h
      rfl

theorem BrailleRow.sockets {b : State} (h : BrailleRow s l b) : b.sockets = s.sockets := by
  rw [BrailleRow] at h
  split at h
  all_goals rw [h]
  rw [State.brailleGain_sockets, State.raise_sockets]

theorem BrailleRow.day {b : State} (h : BrailleRow s l b) : b.tables.day = s.tables.day := by
  rw [BrailleRow] at h
  split at h
  all_goals rw [h]
  rw [State.brailleGain_tables, State.raise_tables]

theorem BrailleRow.start {b : State} (h : BrailleRow s l b) : b.start = s.start := by
  rw [BrailleRow] at h
  split at h
  all_goals rw [h]
  rw [State.brailleGain_start, State.raise_start]

theorem OwnReleased.sockets_eq {e : Entry} {why : Reason} (h : OwnReleased s e why u) : u.sockets = s.sockets := by
  rcases h with ⟨-, rfl⟩ | ⟨-, -, rfl⟩ | ⟨-, -, rfl⟩ <;> rfl

theorem OwnReleased.start_eq {e : Entry} {why : Reason} (h : OwnReleased s e why u) : u.start = s.start := by
  rcases h with ⟨-, rfl⟩ | ⟨-, -, rfl⟩ | ⟨-, -, rfl⟩ <;> rfl

/-! ### A stale tag (R69, R71) -/

/-- A loan back in CLAIMED, whose cartridge part is to be served again. -/
def Loan.reclaimed (l : Loan) (p : CartPath) (a : Nat) : Loan := { l with state := .claimed, cart := some ⟨p, .queued, a⟩ }

theorem State.cartridgeLost_ignored {x : Serial} (h : ∀ l, s.loan? loan = some l → l.state = .claimed ∨
    ((l.state = .ready ∨ l.state = .packed) ∧ ∀ p a, l.cart ≠ some ⟨p, .ready x, a⟩)) : s.cartridgeLost loan x = s := by
  unfold State.cartridgeLost
  cases hl : s.loan? loan with
  | none => rfl
  | some l =>
    dsimp only
    split
    next p y a hc =>
      refine if_neg ?_
      rintro ⟨rfl, hs⟩
      rcases h l hl with hclaimed | ⟨-, hno⟩
      · rw [hclaimed] at hs
        rcases hs with hs | hs <;> cases hs
      · exact hno p a hc
    next => rfl

theorem State.cartridgeLost_taken {p : CartPath} {a : Nat} {x : Serial} (hl : s.loan? loan = some l)
    (hs : l.state = .ready ∨ l.state = .packed) (hc : l.cart = some ⟨p, .ready x, a⟩) (hu : TrayRow s l u) :
    ∃ y : Loan, (u.modLoan loan (·.reclaimed p a)).loan? loan = some (y.reclaimed p a) ∧ y.number = loan ∧ y.work = l.work ∧
      y.braille = l.braille ∧ s.cartridgeLost loan x = (u.modLoan loan (·.reclaimed p a)).fallback (y.reclaimed p a) := by
  have hn := State.loan?_number hl
  subst hn
  obtain ⟨y, hy, hyn, hyw, hyb⟩ := hu.loan? hl
  have hmod : (u.modLoan l.number (·.reclaimed p a)).loan? l.number = some (y.reclaimed p a) :=
    State.loan?_modLoan (f := (·.reclaimed p a)) hy fun _ => rfl
  refine ⟨y, hmod, hyn, hyw, hyb, ?_⟩
  rw [State.cartridgeLost, hl]
  dsimp only
  rw [hc]
  dsimp only
  rw [if_pos ⟨rfl, hs⟩, hu.removeFromTray]
  rw [show (u.modLoan l.number fun y => { y with state := .claimed, cart := some ⟨p, .queued, a⟩ }).loan? l.number =
    some (y.reclaimed p a) from hmod]
  rfl

theorem TrayRow.copy (h : TrayRow s l u) : u.copy = s.copy := by rw [h.frame]

theorem TrayRow.cfg (h : TrayRow s l u) : u.cfg = s.cfg := by rw [h.frame]

theorem TrayRow.directory (h : TrayRow s l u) : u.tables.directory = s.tables.directory := by rw [h.frame]

theorem TrayRow.day (h : TrayRow s l u) : u.tables.day = s.tables.day := by rw [h.frame]

theorem TrayRow.sockets (h : TrayRow s l u) : u.sockets = s.sockets := by rw [h.frame]

theorem TrayRow.start (h : TrayRow s l u) : u.start = s.start := by rw [h.frame]

theorem TrayRow.copyLoad (h : TrayRow s l u) : u.copyLoad = s.copyLoad := by
  rw [State.copyLoad, State.pendingCopy, h.copy, h.book]
  rfl

section
variable {p : CartPath} {a : Nat} {x : Serial} {d : DirEntry}

/-- The stale tag's loan gets a copy job, where the title is VALID and the copy work allows it. -/
theorem State.cartridgeLost_job (hl : s.loan? loan = some l) (hs : l.state = .ready ∨ l.state = .packed)
    (hc : l.cart = some ⟨p, .ready x, a⟩) (hu : TrayRow s l u) (hd : s.dir? l.work = some d) (hvalid : d.state = .valid)
    (hload : s.copyLoad ≤ 23) :
    s.cartridgeLost loan x =
      { u.modLoan loan (·.reclaimed .copy a) with
        copy :=
          { s.copy with
            queue := s.copy.queue ++
              [⟨loan, l.work, d.start, d.len, s.cfg.program + s.cfg.erase,
                (d.len * (s.cfg.program + s.cfg.erase) + 999) / 1000, false⟩] } } := by
  obtain ⟨y, -, hyn, hyw, -, heq⟩ := State.cartridgeLost_taken hl hs hc hu
  have hdir : (u.modLoan loan (·.reclaimed p a)).dir? (y.reclaimed p a).work = some d := by
    rw [State.dir?, show (u.modLoan loan (·.reclaimed p a)).tables.directory = s.tables.directory from hu.directory,
      show (y.reclaimed p a).work = l.work from hyw]
    exact hd
  have hjob : (u.modLoan loan (·.reclaimed p a)).copyLoad ≤ 23 := hu.copyLoad ▸ hload
  rw [heq, State.fallback_job hdir hvalid hjob, show (y.reclaimed p a).number = loan from hyn,
    show (y.reclaimed p a).work = l.work from hyw, State.modLoan_modLoan (f := (·.reclaimed p a)) fun _ => rfl,
    show (u.modLoan loan (·.reclaimed p a)).copy = s.copy from hu.copy,
    show (u.modLoan loan (·.reclaimed p a)).cfg = s.cfg from hu.cfg]
  rfl

/-- Without a job to make, the stale tag's loan is released. -/
theorem State.cartridgeLost_release {b : State} {e : Entry} (hl : s.loan? loan = some l)
    (hs : l.state = .ready ∨ l.state = .packed) (hc : l.cart = some ⟨p, .ready x, a⟩) (hu : TrayRow s l u)
    (hno : ∀ d, s.dir? l.work = some d → d.state = .valid → 23 < s.copyLoad) (hb : BrailleRow u l b)
    (he : s.BookHolds loan e) : OwnReleased (b.dropLoan loan) e .stockMissing (s.cartridgeLost loan x) := by
  obtain ⟨y, hy, hyn, hyw, hyb, heq⟩ := State.cartridgeLost_taken hl hs hc hu
  have hdir (d : DirEntry) (hd : (u.modLoan loan (·.reclaimed p a)).dir? (y.reclaimed p a).work = some d)
      (hvalid : d.state = .valid) : 23 < (u.modLoan loan (·.reclaimed p a)).copyLoad := by
    rw [State.dir?, show (u.modLoan loan (·.reclaimed p a)).tables.directory = s.tables.directory from hu.directory,
      show (y.reclaimed p a).work = l.work from hyw] at hd
    rw [show (u.modLoan loan (·.reclaimed p a)).copyLoad = s.copyLoad from hu.copyLoad]
    exact hno d hd hvalid
  have hreleased := State.release_braille .stockMissing hy rfl (hb.modLoan (loan := loan) (f := (·.reclaimed p a)) hyb)
    ((he.congr hu.book).congr rfl)
  rw [State.modLoan_dropLoan (f := (·.reclaimed p a)) fun _ => rfl] at hreleased
  rw [heq, State.fallback_release hdir, show (y.reclaimed p a).number = loan from hyn]
  exact hreleased

end

/-! ### No open slot (R88, R147) -/

theorem State.lateSlot_eq_none_iff (hlen : v.slots.length = 64) : s.lateSlot v = none ↔
    ∀ slot, 1 ≤ slot → slot ≤ 64 →
      ¬ (slotClass (v.slot slot) = .closed ∧ ∃ x, s.start.own = some x ∧ x.toNat = slotIssuer (v.slot slot)) := by
  rw [State.lateSlot, List.getLast?_eq_none_iff, List.eq_nil_iff_forall_not_mem]
  simp only [View.mem_slotsWhere, hlen, Bool.and_eq_true, beq_iff_eq, State.isOwnByte_iff, not_and]

theorem State.lateSlot_eq_some (hlen : v.slots.length = 64) (h1 : 1 ≤ slot) (hle : slot ≤ 64)
    (hclosed : slotClass (v.slot slot) = .closed ∧ ∃ x, s.start.own = some x ∧ x.toNat = slotIssuer (v.slot slot))
    (hlast : ∀ q, slot < q → q ≤ 64 →
      ¬ (slotClass (v.slot q) = .closed ∧ ∃ x, s.start.own = some x ∧ x.toNat = slotIssuer (v.slot q))) :
    s.lateSlot v = some slot := by
  have hmem (q : Nat) : q ∈ v.slotsWhere (fun b => slotClass b == .closed && s.isOwnByte (slotIssuer b)) ↔
      1 ≤ q ∧ q ≤ 64 ∧ slotClass (v.slot q) = .closed ∧ ∃ x, s.start.own = some x ∧ x.toNat = slotIssuer (v.slot q) := by
    rw [View.mem_slotsWhere, hlen, Bool.and_eq_true, beq_iff_eq, State.isOwnByte_iff]
  refine getLast?_of_greatest (View.slotsWhere_pairwise _) ((hmem slot).mpr ⟨h1, hle, hclosed⟩) fun q hq => ?_
  obtain ⟨-, hq64, hqclosed⟩ := (hmem q).mp hq
  exact Nat.not_lt.mp fun hlt => hlast q hlt hq64 hqclosed

/-- A socket's record as it reads the cartridge's image from block 1 (R141). -/
def Socket.verifies (k : Socket) : Socket :=
  { k with
    state := .checking ⟨.noLoan, none, none, .verify 1 imagePreset⟩, op := some (.read 65536 65536), hold := none }

/-- A socket's record in no-loan mode before its disposition. -/
def Socket.loanless (k : Socket) : Socket := { k with state := .checking ⟨.noLoan, none, none, .closing⟩, op := none }

theorem State.enterNoLoan_eq (hv : (s.socket n).view = some v) (hworn : v.worn = false) (hc : v.contentPresent = true)
    (ht : (s.setSocket n (s.socket n).loanless).lateClose v = t.setSocket n (s.socket n).loanless) :
    s.enterNoLoan n v = t.setSocket n (s.socket n).verifies := by
  have hread : Socket.startRead { (s.socket n).loanless with state := (s.socket n).verifies.state } (1 * 65536) 65536 =
      (s.socket n).verifies := by
    have hblocks := v.capacity.one_lt_blocks
    refine (Socket.startRead_of_ok (k := { (s.socket n).loanless with state := (s.socket n).verifies.state }) (a := 1 * 65536)
      (c := 65536) hv (by omega)).trans ?_
    rw [Nat.one_mul]
    rfl
  have hdispose : (t.setSocket n (s.socket n).loanless).dispose n ⟨.noLoan, none, none, .closing⟩ =
      (t.setSocket n (s.socket n).loanless).startVerify n ⟨.noLoan, none, none, .closing⟩ 1 imagePreset := by
    rw [State.dispose, State.socket_setSocket_self, show (s.socket n).loanless.view = some v from hv]
    dsimp only
    rw [if_neg (by simp [hworn]), if_pos hc]
  rw [State.enterNoLoan]
  refine (congrArg (State.dispose · n _) ht).trans (hdispose.trans ?_)
  rw [State.startVerify, State.putSock_setSocket, State.startBlockRead, State.modSocket_setSocket]
  exact congrArg _ hread

/-- The return of a loan that is not LOST, and owes no RECOVERED. -/
theorem State.cartReturn_unlost {x : Serial} (hl : s.loan? loan = some l) (ha : l.awaits x) (hs : l.state ≠ .lost) :
    s.cartReturn loan x = (s.modLoan loan Loan.cartBack).closeTest loan := by
  rw [State.cartReturn, hl]
  dsimp only
  rw [if_pos (Loan.awaits_iff.mpr ha), State.recoveryNotice, if_neg fun h => hs h.1]
  rfl

theorem State.cartReturn_unlost_closes {x : Serial} (hl : s.loan? loan = some l) (ha : l.awaits x) (hs : l.state ≠ .lost)
    (hr : l.recovery ≠ .owed) (hb : ∀ b, l.braille = some b → b.status = .back) :
    s.cartReturn loan x = s.dropLoan loan := by
  have hcloses : (Loan.cartBack l).closes = true := by
    obtain ⟨-, p, a, hc⟩ := ha
    cases hbr : l.braille with
    | none => simp [Loan.closes, Loan.cartBack, hc, hbr, hr]
    | some b => simp [Loan.closes, Loan.cartBack, hc, hbr, hr, hb b hbr]
  rw [State.cartReturn_unlost hl ha hs,
    State.closeTest_of_closes (State.loan?_modLoan (f := Loan.cartBack) hl fun _ => rfl) hcloses,
    State.modLoan_dropLoan (f := Loan.cartBack) fun _ => rfl]

theorem State.cartReturn_unlost_stays {x : Serial} (hl : s.loan? loan = some l) (ha : l.awaits x) (hs : l.state ≠ .lost)
    (hb : ∃ b, l.braille = some b ∧ b.status ≠ .back) : s.cartReturn loan x = s.modLoan loan Loan.cartBack := by
  obtain ⟨b, hb, hne⟩ := hb
  rw [State.cartReturn_unlost hl ha hs,
    State.closeTest_of_open (State.loan?_modLoan (f := Loan.cartBack) hl fun _ => rfl) (by
      simp [Loan.closes, Loan.cartBack, hb, hne])]

/-! ### The ten cases -/

section
variable (hv : (s.socket n).view = some v) (hk : v.kind = .stock) (hlen : v.slots.length = 64)
include hv hk hlen

theorem State.classifyRest_own {r : Option StockRec} (ho : v.openSlot = some slot)
    (hown : s.isOwnByte (slotIssuer (v.slot slot)) = true) (hout : s.loanOut (slotLoan (v.slot slot)) = true) :
    s.classifyRest n v r =
      s.setSocket n
        ((s.socket n).closes ⟨.ownReturn, some slot, some (slotLoan (v.slot slot)), .closing⟩ slot s.tables.day s.station) := by
  rw [State.classifyRest, ho]
  dsimp only
  rw [State.classifyOpen, if_pos hown, if_pos hout]
  exact State.enterReturn_own hv hk hlen ho

/-- A stale own tag: its report, then the close of its slot. -/
theorem State.classifyRest_stale {r : Option StockRec} (ho : v.openSlot = some slot)
    (hown : s.isOwnByte (slotIssuer (v.slot slot)) = true) (hout : s.loanOut (slotLoan (v.slot slot)) = false)
    (ht : s.cartridgeLost (slotLoan (v.slot slot)) v.serial = t) (hsockets : t.sockets = s.sockets)
    (hday : t.tables.day = s.tables.day) (hstart : t.start = s.start) :
    s.classifyRest n v r =
      t.setSocket n
        ((s.socket n).closes ⟨.noLoan, some slot, some (slotLoan (v.slot slot)), .closing⟩ slot s.tables.day s.station) := by
  rw [State.classifyRest, ho]
  dsimp only
  rw [State.classifyOpen, if_pos hown, if_neg (by simp [hout]), ht]
  exact State.closeFirst_after hv hk hlen ho hsockets hday hstart

omit hv hk hlen in
theorem State.classifyRest_foreign {r : Option StockRec} (ho : v.openSlot = some slot)
    (hown : s.isOwnByte (slotIssuer (v.slot slot)) = false) :
    s.classifyRest n v r = s.enterReturn n slot (slotLoan (v.slot slot)) false := by
  rw [State.classifyRest, ho]
  dsimp only
  rw [State.classifyOpen, if_neg (by simp [hown])]

omit hk hlen in
/-- Content present: the check begins, whatever the late close has changed. -/
theorem State.classifyRest_content (ho : v.openSlot = none) (hworn : v.worn = false) (hc : v.contentPresent = true)
    (ht : (s.setSocket n (s.socket n).loanless).lateClose v = t.setSocket n (s.socket n).loanless) :
    s.classifyRest n v none = t.setSocket n (s.socket n).verifies := by
  rw [State.classifyRest, ho]
  dsimp only
  rw [if_neg (by decide), if_neg (by simp [hworn]), if_pos hc]
  exact State.enterNoLoan_eq hv hworn hc ht

end

theorem State.loanOut_iff : s.loanOut loan = true ↔
    ∃ l, s.loan? loan = some l ∧ (l.state = .shipped ∨ l.state = .overdue ∨ l.state = .lost) := by
  unfold State.loanOut
  cases s.loan? loan with
  | none => simp
  | some l => simp [Loan.out_iff]

end Sys2Proof.Machine
end

section
/-! PROOFS. The first of the ten cases of R88: O46. -/

namespace Sys2Proof.Machine

/-- Settles O46: the tests in R88's order, and what each case begins. -/
theorem classificationTakesFirstCase : Obligations.ClassificationTakesFirstCase := by
  intro s n v hv hlen k r own rejected closingOn closing loads elsewhere
  have helsewhere : s.seatedElsewhere n v.serial = true ↔ elsewhere := State.seatedElsewhere_iff
  have hreject (why : RejectReason) : s.rejectSocket n why = rejected why := State.rejectSocket_eq why rfl hv
  refine ⟨fun h => (State.classify_elsewhere (helsewhere.mpr h)).trans (hreject _),
    fun h hq => (State.classify_quarantined (helsewhere.not.mpr h) hq).trans (hreject _), fun h hq hk => ?_,
    fun h hq hk => ⟨fun x loan hx hissuing => ?_, fun hno => ?_⟩⟩
  · have hseated := helsewhere.not.mpr h
    have hrefused {why : RejectReason} (hw : s.ingestWanted v = .error why) : r = rejected why :=
      (State.classify_refused hseated hq hk hw).trans (hreject why)
    have hloads {start : Nat} {ds : List DirEntry} (hw : s.ingestWanted v = .ok start)
        (hload : s.loadEntry v start = s.withDirectory ds) : loads ds := by
      have hr := State.classify_wanted hseated hq hk hw
      exact ⟨fun hfree => hr.trans (State.startIngest_waits hload rfl rfl hfree),
        fun b hfree hlow => hr.trans (State.startIngest_reads hload rfl rfl hv hfree hlow)⟩
    refine ⟨fun hc => hrefused (State.ingestWanted_bad hc), fun hc => ⟨fun d hd hs =>
      hrefused (State.ingestWanted_known hc hd hs), fun d hd hs hu => hrefused (State.ingestWanted_inUse hc hd hs hu),
      fun hd hfull => hrefused (State.ingestWanted_full hc hd hfull), fun hd hroom => ?_, fun d hd hs hu => ?_⟩⟩
    · have hw := State.ingestWanted_new hc hd hroom
      exact ⟨fun hfit => hrefused (hw.trans (congrArg placed hfit)),
        fun start hfit => hloads (hw.trans (congrArg placed hfit)) (State.loadEntry_new hd)⟩
    · exact ⟨fun hle => hloads (State.ingestWanted_inPlace hc hd hs hu hle) (State.loadEntry_known hd),
        fun hlt hfit => hrefused ((State.ingestWanted_moved hc hd hs hu hlt).trans (congrArg placed hfit)),
        fun start hlt hfit =>
          hloads ((State.ingestWanted_moved hc hd hs hu hlt).trans (congrArg placed hfit)) (State.loadEntry_known hd)⟩
  · have hr := State.classify_issuing (helsewhere.not.mpr h) hq hk hx hissuing
    refine ⟨fun slot htagged hfree => hr.trans ?_, fun htagged hloans =>
      hr.trans (State.enterTagging_done hv htagged hloans)⟩
    rw [State.enterTagging_writes hv hk hlen htagged hfree, State.cartReport_withLoans]
    rfl
  · have hr : r = s.classifyRest n v (s.stock? v.serial) := State.classify_rest (helsewhere.not.mpr h) hq hk hno
    refine ⟨fun slot ho => ?_, fun ho => ?_⟩
    · intro loan issued out
      have howned : s.isOwnByte (slotIssuer (v.slot slot)) = true ↔ issued := State.isOwnByte_iff
      have hin {l : Loan} (hl : s.loan? loan = some l) (hs : l.state = .claimed ∨ l.state = .ready ∨ l.state = .packed) :
          s.loanOut loan = false := by
        rw [← Bool.not_eq_true, State.loanOut_iff]
        rintro ⟨l', hl', hout⟩
        obtain rfl := Option.some.inj (hl.symm.trans hl')
        rcases hs with hs | hs | hs <;> rw [hs] at hout <;> simp at hout
      refine ⟨fun hi hout => hr.trans (State.classifyRest_own hv hk hlen ho (howned.mpr hi) (State.loanOut_iff.mpr hout)),
        fun hi hl => ?_, fun l hi hl => ?_, fun hi hroom hnone => ?_, fun hi hfull => ?_⟩
      · have hout : s.loanOut loan = false := by
          rw [← Bool.not_eq_true, State.loanOut_iff]
          rintro ⟨l, hl', -⟩
          rw [hl] at hl'
          cases hl'
        exact hr.trans (State.classifyRest_stale hv hk hlen ho (howned.mpr hi) hout
          (State.cartridgeLost_ignored fun l hl' => absurd (hl.symm.trans hl') (by simp)) rfl rfl rfl)
      · intro stale
        refine ⟨fun hs => ?_, fun p a u hs hc hu => ⟨fun d hd hvalid hload => ?_, fun e b hjob hb hloan horder => ?_⟩⟩
        · have hstate : l.state = .claimed ∨ l.state = .ready ∨ l.state = .packed := hs.imp_right And.left
          exact hr.trans (State.classifyRest_stale hv hk hlen ho (howned.mpr hi) (hin hl hstate)
            (State.cartridgeLost_ignored fun l' hl' => by
              obtain rfl := Option.some.inj (hl.symm.trans hl')
              exact hs) rfl rfl rfl)
        · exact hr.trans (State.classifyRest_stale hv hk hlen ho (howned.mpr hi) (hin hl (.inr hs))
            (State.cartridgeLost_job hl hs hc hu hd hvalid hload) hu.sockets hu.day hu.start)
        · have hreleased := State.cartridgeLost_release hl hs hc hu hjob hb ⟨hloan, horder⟩
          refine ⟨_, hreleased, hr.trans (State.classifyRest_stale hv hk hlen ho (howned.mpr hi) (hin hl (.inr hs)) rfl
            ?_ ?_ ?_)⟩
          · exact hreleased.sockets_eq.trans (hb.sockets.trans hu.sockets)
          · exact (congrArg (fun t => t.day) hreleased.tables_eq).trans (hb.day.trans hu.day)
          · exact hreleased.start_eq.trans (hb.start.trans hu.start)
      · have hforeign : s.isOwnByte (slotIssuer (v.slot slot)) = false := by rwa [← Bool.not_eq_true, howned]
        exact hr.trans ((State.classifyRest_foreign ho hforeign).trans
          (State.enterReturn_foreign hv hk hlen ho hroom hnone))
      · have hforeign : s.isOwnByte (slotIssuer (v.slot slot)) = false := by rwa [← Bool.not_eq_true, howned]
        exact hr.trans ((State.classifyRest_foreign ho hforeign).trans (State.enterReturn_waits hfull))
    · refine ⟨fun hx => ?_, fun hx hworn => ?_, fun hx hworn hc => ?_, fun hx hworn hc => ?_⟩
      · rw [hr, State.classifyRest, ho]
        exact if_pos hx
      · rw [hr, State.classifyRest, ho, hx]
        dsimp only
        rw [if_neg (by decide), if_pos hworn]
        exact hreject _
      · intro verifying closedOwn
        have hcontent {t : State}
            (ht : (s.setSocket n (s.socket n).loanless).lateClose v = t.setSocket n (s.socket n).loanless) :
            r = verifying t := by
          rw [hr, hx]
          exact State.classifyRest_content hv ho hworn hc ht
        refine ⟨fun hlate => hcontent ?_, State.lateSlot_eq_none_iff hlen, fun slot h1 hle hclosed hlast => ?_⟩
        · rw [State.lateClose, show (s.setSocket n (s.socket n).loanless).lateSlot v = none from hlate]
        · intro late returns
          have hlate := State.lateSlot_eq_some (s := s) hlen h1 hle hclosed hlast
          have hclose : (s.setSocket n (s.socket n).loanless).lateClose v =
              (s.setSocket n (s.socket n).loanless).cartReturn late v.serial := by
            rw [State.lateClose, show (s.setSocket n (s.socket n).loanless).lateSlot v = some slot from hlate]
          refine ⟨fun hno => hcontent (hclose.trans (State.cartReturn_ignored hno)), fun l hl hreturns hs hrec =>
            ⟨fun hb => hcontent (t := s.dropLoan late) (hclose.trans ?_),
              fun hb => hcontent (t := s.modLoan late Loan.cartBack) (hclose.trans ?_)⟩⟩
          · exact State.cartReturn_unlost_closes hl hreturns hs hrec hb
          · exact State.cartReturn_unlost_stays hl hreturns hs hb
      · have hclean : v.clean = decide (v.marker = .set) := by
          rw [View.clean, hc]
          rfl
        rw [hr, State.classifyRest, ho, hx]
        dsimp only
        rw [if_neg (by decide), if_neg (by simp [hworn]), if_neg (by simp [hc]), hclean]
        rfl

end Sys2Proof.Machine
end

section
/-! PROOFS. The steps of a guarded operation (R82, R86), and what each owner makes of a success (R103, R104, R108, R109,
R111, R113, R115, R138 to R145). -/

namespace Sys2Proof.Machine

variable {s t u : State} {n : Idx8} {v : View} {loan : LoanNo} {l : Loan}

/-! ### The answers to STATE (R82) -/

/-- The STATE of an operation in progress is answered: the link shows the answer, and the operation goes on by it. -/
theorem exec_stateCompletion {op : Op} {a : StateAnswer} {e : OpEnd} (hop : (s.socket n).op = some op)
    (hhold : (s.socket n).hold = none) (hawaits : op.awaitsState = true) :
    exec (.stateCompletion n a e) s =
      .next (finish e.write
        ((s.setSocket n { s.socket n with link := CartLink.answer a }).answered n op a e.lockHeld)) := by
  change execStateCompletion n a e s = _
  rw [execStateCompletion, hop, hhold]
  dsimp only
  rw [if_pos hawaits]
  rfl

theorem CartLink.lock_answer (a : StateAnswer) : (CartLink.answer a).lock = ⟨a.busy, a.busy && a.latch, a.fault⟩ := by
  obtain ⟨busy, latch, fault⟩ := a
  cases busy <;> rfl

section
variable {a : StateAnswer} {g : Guarded}

/-- The failure of a guarded operation with no hold in the LOCK that follows: the owner takes it. -/
theorem State.lockFails_eq (k : Socket) :
    (s.setSocket n { k with link := CartLink.answer a }).sendLock n false true =
      (s.setSocket n
        { k with op := none, hold := none, link := ⟨a.busy, a.busy && a.latch, a.fault⟩ }).opFailed n := by
  rw [State.sendLock_false, State.locked_true, State.socket_setSocket_self, State.setSocket_setSocket, CartLink.lock_answer]

/-- A hold in that LOCK puts off what follows it. -/
theorem State.lockHeld_eq (k : Socket) (b : Bool) :
    (s.setSocket n { k with link := CartLink.answer a }).sendLock n true b =
      s.setSocket n { k with op := some (.locking b), hold := none, link := ⟨a.busy, a.latch, a.fault⟩ } := by
  rw [State.sendLock_true, State.modSocket_setSocket]
  rfl

theorem State.answered_early {p : Option CartLink} (held : Bool) (h : a.busy = true ∨ a.latch = false) :
    s.answered n (.guarded g (.beforeCommand p)) a held = s.sendLock n held true := by
  refine if_pos ?_
  rcases h with h | h <;> simp [h]

theorem State.answered_ready {p : Option CartLink} (held : Bool) (hbusy : a.busy = false) (hlatch : a.latch = true) :
    s.answered n (.guarded g (.beforeCommand p)) a held = s.sendCommand n g := by
  refine if_neg ?_
  simp [hbusy, hlatch]

/-- The stages after the command, which wait for its end (R82, step 4). -/
def GuardStage.awaitsEnd (st : GuardStage) (d : Millis) : Prop := st = .polling d ∨ ∃ p, st = .command d p

theorem State.answered_busy {st : GuardStage} {d : Millis} (held : Bool) (hst : st.awaitsEnd d) (h : a.busy = true) :
    s.answered n (.guarded g st) a held = s.modSocket n fun k => { k with op := some (.guarded g (.polling d)) } := by
  rcases hst with rfl | ⟨p, rfl⟩ <;> exact if_pos h

theorem State.answered_failed {st : GuardStage} {d : Millis} (held : Bool) (hst : st.awaitsEnd d) (h : a.busy = false)
    (hf : a.fault = true ∨ a.latch = true) : s.answered n (.guarded g st) a held = s.sendLock n held true := by
  have hor : (a.fault || a.latch) = true := by simpa using hf
  rcases hst with rfl | ⟨p, rfl⟩ <;> exact (if_neg (by simp [h])).trans (if_pos hor)

theorem State.answered_good {st : GuardStage} {d : Millis} (held : Bool) (hst : st.awaitsEnd d) (h : a.busy = false)
    (hf : a.fault = false) (hl : a.latch = false) : s.answered n (.guarded g st) a held = s.guardSucceeds n g := by
  rcases hst with rfl | ⟨p, rfl⟩ <;> exact (if_neg (by simp [h])).trans (if_neg (by simp [hf, hl]))

theorem GuardStage.awaitsState_of_awaitsEnd {st : GuardStage} {d : Millis} (hst : st.awaitsEnd d) :
    (Op.guarded g st).awaitsState = true := by
  rcases hst with rfl | ⟨p, rfl⟩ <;> rfl

end

/-! ### What an owner asks for next -/

section
variable (hv : (u.socket n).view = some v)
include hv

theorem State.startBlockRead_putSock (st : SockState) {b : Nat} (hb : b < v.capacity.blocks) :
    (u.putSock n st).startBlockRead n b =
      u.setSocket n { u.socket n with state := st, op := some (.read (b * 65536) 65536), hold := none } := by
  rw [State.putSock, State.modSocket, State.startBlockRead, State.modSocket_setSocket]
  exact congrArg _ (Socket.startRead_of_ok (k := { u.socket n with state := st }) hv (by omega))

theorem State.serialAt_of_view : u.serialAt n = v.serial := by
  rw [State.serialAt_eq, hv]
  rfl

/-! ### CLEANING and an erase (R111, R144, R145) -/

theorem State.startErase_step (hk : v.kind = .stock) (st : SockState) (e : EraseStep)
    (he : ∀ b, e = .block b → b ≠ 0 ∧ b < v.capacity.blocks) :
    (u.putSock n st).startGuarded n e.operation =
      u.setSocket n
        { u.socket n with
          state := st, op := some (.guarded e.operation (.beforeCommand (some (u.socket n).link))), hold := none
          link := (u.socket n).link.unlock } := by
  have hmaster : v.kind ≠ .master := CartKind.eq_stock_iff.mp hk
  have hblocks := v.capacity.one_lt_blocks
  refine State.startGuarded_putSock st hv ?_
  cases e with
  | sector => exact guardOk_sectorClear_iff.mpr ⟨hmaster, by decide, by omega⟩
  | block b => exact guardOk_blockClear_iff.mpr ⟨hmaster, he b rfl⟩
  | marker => exact guardOk_other_page hk _ (by decide) (by decide) (by decide)

/-- A step of CLEANING that has a next one. -/
theorem State.opSucceeded_cleaning (hk : v.kind = .stock) {e e' : EraseStep} (hs : (u.socket n).state = .cleaning e)
    (hnext : e.next (v.capacity.blocks - 1) = some e') (he : ∀ b, e' = .block b → b ≠ 0 ∧ b < v.capacity.blocks) :
    u.opSucceeded n =
      u.setSocket n
        { u.socket n with
          state := .cleaning e', op := some (.guarded e'.operation (.beforeCommand (some (u.socket n).link)))
          hold := none, link := (u.socket n).link.unlock } := by
  rw [State.opSucceeded, hs]
  dsimp only
  rw [State.lastBlock_eq hv, hnext]
  exact State.startErase_step hv hk _ e' he

/-- A step of an erase that has a next one. -/
theorem State.opSucceeded_erasing (hk : v.kind = .stock) {c : Check} {stop : Nat} {e e' : EraseStep}
    (hs : (u.socket n).state = .erasing c stop e) (hnext : e.next stop = some e')
    (he : ∀ b, e' = .block b → b ≠ 0 ∧ b < v.capacity.blocks) :
    u.opSucceeded n =
      u.setSocket n
        { u.socket n with
          state := .erasing c stop e', op := some (.guarded e'.operation (.beforeCommand (some (u.socket n).link)))
          hold := none, link := (u.socket n).link.unlock } := by
  rw [State.opSucceeded, hs]
  dsimp only
  rw [hnext]
  exact State.startErase_step hv hk _ e' he

omit hv in
theorem State.opSucceeded_cleaned (hs : (u.socket n).state = .cleaning .marker) :
    u.opSucceeded n = u.setSocket n { u.socket n with state := .blank true } := by
  rw [State.opSucceeded, hs]
  rfl

/-! ### A member (R103, R104, R108) -/

section
variable {m : Member} {g : Gang}

/-- Page `i` of a gang's block, as a member asks for it. -/
def State.gangPage (u : State) (g : Gang) (i : Nat) : Guarded :=
  .page (g.index * 65536 + 256 * i) (((u.gangData g).drop (256 * i)).take 256) .other

theorem State.startPage_eq (hk : v.kind = .stock) (hone : 1 ≤ g.index) (hindex : g.index < v.capacity.blocks) {i : Nat}
    (hi : i ≤ 255) (p : Progress) :
    (u.putProgress n m p).startPage n g.index (u.gangData g) i =
      u.setSocket n
        { u.socket n with
          state := .copying { m with progress := p }
          op := some (.guarded (u.gangPage g i) (.beforeCommand (some (u.socket n).link))), hold := none
          link := (u.socket n).link.unlock } := by
  refine State.startGuarded_putSock _ hv (guardOk_page_iff.mpr ⟨CartKind.eq_stock_iff.mp hk, ?_, ?_, .inl ?_⟩) <;> omega

theorem State.startClear_eq (hk : v.kind = .stock) (hone : 1 ≤ g.index) (hindex : g.index < v.capacity.blocks)
    (p : Progress) :
    (u.putProgress n m p).startGuarded n (.blockClear g.index) =
      u.setSocket n
        { u.socket n with
          state := .copying { m with progress := p }
          op := some (.guarded (.blockClear g.index) (.beforeCommand (some (u.socket n).link))), hold := none
          link := (u.socket n).link.unlock } :=
  State.startGuarded_putSock _ hv (guardOk_blockClear_iff.mpr ⟨CartKind.eq_stock_iff.mp hk, by omega, hindex⟩)

omit hv in
theorem State.opSucceeded_preparing (hs : (u.socket n).state = .copying m) (hp : m.progress = .preparing) :
    u.opSucceeded n = u.memberPrepared n m := by
  rw [State.opSucceeded, hs]
  dsimp only
  rw [hp]

omit hv in
theorem State.opSucceeded_working {step : WorkStep} {again : Bool} (hs : (u.socket n).state = .copying m)
    (hp : m.progress = .working step again) : u.opSucceeded n = u.workNext n m step again := by
  rw [State.opSucceeded, hs]
  dsimp only
  rw [hp]

omit hv in
theorem State.memberPrepared_waits (hg : u.gang? m.gang = some g) (hloaded : g.loaded = false) :
    u.memberPrepared n m = u.putProgress n m .waiting := by
  rw [State.memberPrepared, hg]
  exact if_neg (by simp [hloaded])

omit hv in
theorem State.memberPrepared_works (hg : u.gang? m.gang = some g) (hloaded : g.loaded = true) :
    u.memberPrepared n m =
      if m.job.cleanNeeded then (u.putProgress n m (.working .clearing false)).startGuarded n (.blockClear g.index)
      else (u.putProgress n m (.working (.page 0) false)).startPage n g.index (u.gangData g) 0 := by
  rw [State.memberPrepared, hg]
  dsimp only
  rw [if_pos hloaded, State.startWork, Bool.or_false]

omit hv in
theorem State.workNext_cleared {again : Bool} (hg : u.gang? m.gang = some g) :
    u.workNext n m .clearing again =
      (u.putProgress n m (.working (.page 0) again)).startPage n g.index (u.gangData g) 0 := by
  rw [State.workNext, hg]

omit hv in
theorem State.workNext_page {again : Bool} {i : Nat} (hg : u.gang? m.gang = some g) (hi : i < 255) :
    u.workNext n m (.page i) again =
      (u.putProgress n m (.working (.page (i + 1)) again)).startPage n g.index (u.gangData g) (i + 1) := by
  rw [State.workNext, hg]
  exact if_pos hi

omit hv in
theorem State.workNext_readBack {again : Bool} {i : Nat} (hg : u.gang? m.gang = some g) (hi : 255 ≤ i) :
    u.workNext n m (.page i) again = (u.putProgress n m (.working .reading again)).startBlockRead n g.index := by
  rw [State.workNext, hg]
  exact if_neg (by omega)

/-- The content record is written: the tag follows (R108). -/
theorem State.opSucceeded_contentWritten (hk : v.kind = .stock) (hlen : v.slots.length = 64) {slot : Nat}
    (hs : (u.socket n).state = .finishing m) (hp : m.progress = .finishing false) (hfree : v.nextFree = some slot) :
    u.opSucceeded n =
      u.setSocket n
        { u.socket n with
          state := .finishing { m with progress := .finishing true }
          op := some (.guarded (tagWrite slot m.job.loan u.station u.tables.day) (.beforeCommand (some (u.socket n).link)))
          hold := none, link := (u.socket n).link.unlock } := by
  have hview : ((u.putSock n (.finishing { m with progress := .finishing true })).socket n).view = some v := by
    rw [State.putSock, State.modSocket, State.socket_setSocket_self]
    exact hv
  rw [State.opSucceeded, hs]
  dsimp only
  rw [hp]
  dsimp only
  rw [State.finishingNext, if_neg (by decide), State.startTag, hview, Option.bind_some, hfree]
  exact State.startGuarded_putSock _ hv (guardOk_tagWrite hk hlen hfree _ _)

end

/-! ### A copy or a reissue completed (R58, R108, R113) -/

omit hv in
theorem GangLeft.tables {id : Nat} (h : GangLeft s id t) : t.tables = s.tables := by
  rcases h with ⟨-, g, -, hg⟩ | ⟨-, rfl⟩ | ⟨-, -, g, b, -, -, -, hg⟩
  · rcases hg with ⟨-, rfl⟩ | ⟨b, -, ⟨-, rfl⟩ | ⟨-, rfl⟩⟩ <;> rfl
  · rfl
  · rcases hg with ⟨-, ⟨-, -, rfl⟩ | ⟨-, rfl⟩⟩ | ⟨-, -, rfl⟩ <;> rfl

/-- A loan's record once its cartridge part is ready with a serial, and READY where its set is picked. -/
def Loan.served (l : Loan) (p : CartPath) (x : Serial) (a : Nat) : Loan :=
  { l with
    cart := some ⟨p, .ready x, a⟩
    state := if l.braille.all (fun b => b.status == .picked) then .ready else .claimed }

omit hv in
theorem Loan.served_eq {p : CartPath} {x : Serial} {a : Nat} (hs : l.state = .claimed)
    (hc : l.cart = some ⟨p, .copying, a⟩) : (l.reported p .copying (.ready x)).tested = l.served p x a := by
  have hreported : l.reported p .copying (.ready x) = { l with cart := some ⟨p, .ready x, a⟩ } := by
    rw [Loan.reported, hc]
    exact if_pos (by simp)
  have hready : ({ l with cart := some ⟨p, .ready x, a⟩ } : Loan).allReady =
      l.braille.all (fun b => b.status == .picked) := by
    unfold Loan.allReady
    cases l.braille <;> rfl
  rw [hreported, Loan.tested, hready, Loan.served]
  by_cases hb : l.braille.all (fun b => b.status == .picked) = true
  · rw [if_pos ⟨hs, hb⟩, if_pos hb]
  · rw [if_neg fun h => hb h.2, if_neg hb, ← hs]

omit hv in
/-- The report of a part served, and the readiness test that follows it (R57, R58). -/
theorem State.partServed_eq {p : CartPath} {x : Serial} {a : Nat} (hone : ∀ y ∈ s.tables.loans, y.number = loan → y = l)
    (hs : l.state = .claimed) (hc : l.cart = some ⟨p, .copying, a⟩) :
    (s.cartReport loan p .copying (.ready x)).readinessTest loan = s.modLoan loan (·.served p x a) := by
  rw [State.cartReport_reported]
  refine (State.modLoan_modLoan (g := Loan.tested) fun _ => Loan.reported_number).trans ?_
  refine State.modLoan_congr fun y hy hn => ?_
  rw [hone y hy hn]
  exact Loan.served_eq hs hc

/-- A copy's tag is written (R108). -/
theorem State.opSucceeded_tagged {m : Member} {a : Nat} (hs : (u.socket n).state = .finishing m)
    (hp : m.progress = .finishing true)
    (hleft : GangLeft (u.setSocket n { u.socket n with state := .done m.job.loan, op := none }) m.gang t)
    (hone : ∀ y ∈ u.tables.loans, y.number = m.job.loan → y = l) (hl : l.state = .claimed)
    (hc : l.cart = some ⟨.copy, .copying, a⟩) :
    u.opSucceeded n =
      (t.modLoan m.job.loan (·.served .copy v.serial a)).raise (.copyReady n m.job.loan v.serial) := by
  have hloans : ∀ y ∈ t.tables.loans, y.number = m.job.loan → y = l := by
    rw [hleft.tables]
    exact hone
  rw [State.opSucceeded, hs]
  dsimp only
  rw [hp]
  dsimp only
  rw [State.finishingNext, if_pos rfl, State.finishDone, State.serialAt_of_view hv,
    State.modSocket, hleft.leaveGang, State.partServed_eq hloans hl hc]

/-- A reissued cartridge's tag is written (R113). -/
theorem State.opSucceeded_reissued {a : Nat} (hs : (u.socket n).state = .tagging loan false)
    (hone : ∀ y ∈ u.tables.loans, y.number = loan → y = l) (hl : l.state = .claimed)
    (hc : l.cart = some ⟨.reissue, .copying, a⟩) :
    u.opSucceeded n =
      (((u.dropStock v.serial).modLoan loan (·.served .reissue v.serial a)).setSocket n
        { u.socket n with state := .done loan, op := none }).raise (.copyReady n loan v.serial) := by
  rw [State.opSucceeded, hs]
  dsimp only
  rw [State.tagWritten, if_neg (by decide), State.reissueDone, State.serialAt_of_view hv,
    State.partServed_eq (s := u.dropStock v.serial) hone hl hc]
  rfl

/-! ### The close of a slot (R89, R109, R115) -/

section
variable {slot : Nat} (hk : v.kind = .stock)
include hk

/-- The close of any open slot may begin a no-loan check. -/
theorem State.closeFirst_of_open (hle : slot ≤ 64) (hopen : slotClass (v.slot slot) = .open) :
    u.closeFirst n slot =
      u.setSocket n
        ((u.socket n).closes ⟨.noLoan, some slot, some (slotLoan (v.slot slot)), .closing⟩ slot u.tables.day u.station) := by
  obtain ⟨hmod, hend⟩ := slotPage_of_le hle
  have hblocks := v.capacity.one_lt_blocks
  rw [State.closeFirst, hv]
  exact State.startGuarded_putSock _ hv
    (guardOk_page_iff.mpr ⟨CartKind.eq_stock_iff.mp hk, hmod, by omega, .inr ⟨rfl, hopen⟩⟩)

/-- A withdrawal has reached a tagging: the slot just written is closed (R115). -/
theorem State.opSucceeded_withdrawn (hlen : v.slots.length = 64) (hs : (u.socket n).state = .tagging loan true)
    (hlatest : v.latestUsed = some slot) (hopen : slotClass (v.slot slot) = .open) :
    u.opSucceeded n =
      u.setSocket n
        ((u.socket n).closes ⟨.noLoan, some slot, some (slotLoan (v.slot slot)), .closing⟩ slot u.tables.day u.station) := by
  obtain ⟨-, hle, -⟩ := View.mem_slotsWhere.mp (List.mem_of_getLast? hlatest)
  rw [State.opSucceeded, hs]
  dsimp only
  rw [State.tagWritten, if_pos rfl, hv, Option.bind_some, hlatest]
  exact State.closeFirst_of_open hv hk (by omega) hopen

/-- A socket leaves ABORTING with the close of an open slot of this station's (R109). -/
theorem State.leaveAborting_closes (hlen : v.slots.length = 64) (ho : v.openSlot = some slot)
    (hown : u.isOwnByte (slotIssuer (v.slot slot)) = true) :
    u.leaveAborting n =
      u.setSocket n
        ((u.socket n).closes ⟨.noLoan, some slot, some (slotLoan (v.slot slot)), .closing⟩ slot u.tables.day u.station) := by
  obtain ⟨-, hle, hopen⟩ := View.openSlot_spec ho
  rw [State.leaveAborting, State.openSlotAt_eq, hv, Option.bind_some, ho]
  dsimp only
  rw [Option.map_some, Option.getD_some, if_pos hown]
  exact State.closeFirst_of_open hv hk (by omega) hopen

omit hk in
/-- With no open slot of this station's the cartridge is a dirty blank (R109). -/
theorem State.leaveAborting_blank (h : ∀ slot, v.openSlot = some slot → u.isOwnByte (slotIssuer (v.slot slot)) = false) :
    u.leaveAborting n = u.setSocket n { u.socket n with state := .blank false, op := none, hold := none } := by
  cases ho : v.openSlot with
  | none => exact State.leaveAborting_of_no_slot (by rw [State.openSlotAt_eq, hv]; exact ho)
  | some slot =>
    rw [State.leaveAborting, State.openSlotAt_eq, hv, Option.bind_some, ho]
    dsimp only
    rw [Option.map_some, Option.getD_some, if_neg (by simp [h slot ho])]
    rfl

end

/-! ### A check (R138 to R141, R144, R145) -/

section
variable {c : Check}

omit hv in
theorem State.opSucceeded_checking (hs : (u.socket n).state = .checking c) :
    u.opSucceeded n = (u.handOver n c).dispose n c := by
  rw [State.opSucceeded, hs]
  rfl

omit hv in
theorem State.opSucceeded_aborting (hs : (u.socket n).state = .aborting) : u.opSucceeded n = u.leaveAborting n := by
  rw [State.opSucceeded, hs]

/-- The disposition begins the read of the cartridge's image (R140, R141). -/
theorem State.dispose_reads (hworn : v.worn = false) (hc : v.contentPresent = true) :
    u.dispose n c =
      u.setSocket n
        { u.socket n with
          state := .checking { c with phase := .verify 1 imagePreset }, op := some (.read (1 * 65536) 65536)
          hold := none } := by
  rw [State.dispose, hv]
  dsimp only
  rw [if_neg (by simp [hworn]), if_pos hc]
  exact State.startBlockRead_putSock hv _ v.capacity.one_lt_blocks

theorem State.dispose_retires (hworn : v.worn = true) :
    u.dispose n c = (u.rejected n (u.socket n) v.serial .worn).condition c .retired false := by
  rw [State.dispose, hv]
  dsimp only
  rw [if_pos hworn, State.retire, State.rejectSocket_eq _ rfl hv]

/-- The erase of a check begins with sector 1 (R144). -/
theorem State.startErase_eq (hk : v.kind = .stock) (last : Nat) :
    u.startErase n c last =
      (u.setSocket n
        { u.socket n with
          state := .erasing c last .sector
          op := some (.guarded (.sectorClear 1) (.beforeCommand (some (u.socket n).link))), hold := none
          link := (u.socket n).link.unlock }).condition c .erased true := by
  rw [State.startErase]
  exact congrArg (State.condition · c .erased true) (State.startErase_step hv hk (.erasing c last .sector) .sector nofun)

theorem State.dispose_erases (hworn : v.worn = false) (hc : v.contentPresent = false) :
    u.dispose n c = u.startErase n c (v.capacity.blocks - 1) := by
  rw [State.dispose, hv]
  dsimp only
  rw [if_neg (by simp [hworn]), if_neg (by simp [hc]), State.lastBlock_eq hv]

/-- The erase has ended with its marker written (R145). -/
theorem State.opSucceeded_erased {stop : Nat} (hs : (u.socket n).state = .erasing c stop .marker) :
    u.opSucceeded n =
      ((u.setSocket n { u.socket n with state := .blank true, op := none }).raise (.erased n v.serial)).condition c .erased
        false := by
  have hserial : (u.setSocket n { u.socket n with state := .blank true, op := none }).serialAt n = v.serial :=
    State.serialAt_of_view (by rw [State.socket_setSocket_self]; exact hv)
  rw [State.opSucceeded, hs]
  dsimp only [EraseStep.next]
  rw [State.eraseDone, State.modSocket, hserial]

end

end

end Sys2Proof.Machine
end

section
/-! PROOFS. What each owner makes of an operation's failure (R68, R69, R93, R105, R114, R139, R145): O47. -/

namespace Sys2Proof.Machine

variable {s t u b : State} {n : Idx8} {v : View} {loan : LoanNo} {l : Loan} {m : Member} {c : Check}

/-- A socket in FAULT, with its notice (R90). -/
def State.faulted (u : State) (n : Idx8) : State :=
  { u.setSocket n { u.socket n with state := .fault, op := none, hold := none } with
    bench := u.bench.raised (.socketFault n (((u.socket n).view.map (·.serial)).getD 0)) }

theorem State.faultSocket_eq : u.faultSocket n = u.faulted n := by
  rw [State.faultSocket, State.serialAt_eq, State.raise_eq]
  rfl

/-- A serial joins the quarantine list (R93). -/
def State.quarantined (t : State) (x : Serial) : State :=
  { t with
    quarantine :=
      if x ∈ t.quarantine then t.quarantine
      else if t.quarantine.length < 32 then t.quarantine ++ [x]
      else t.quarantine.tail ++ [x] }

theorem State.quarantineSerial_eq (x : Serial) : t.quarantineSerial x = t.quarantined x := by
  rw [State.quarantineSerial, State.quarantined]
  by_cases hx : x ∈ t.quarantine
  · rw [if_pos (List.elem_eq_true_of_mem hx), if_pos hx]
  · rw [if_neg fun h => hx (List.mem_of_elem_eq_true h), if_neg hx]
    split <;> rfl

theorem State.opFailed_fault (h : (∃ z, (u.socket n).state = .identifying z) ∨ ∃ e, (u.socket n).state = .cleaning e) :
    u.opFailed n = u.faulted n := by
  rw [← State.faultSocket_eq]
  rcases h with ⟨z, h⟩ | ⟨e, h⟩ <;> rw [State.opFailed, h]

/-! ### A member's fault (R68, R105) -/

theorem State.opFailed_member (hs : (u.socket n).state = .copying m ∨ (u.socket n).state = .finishing m)
    (hleft : GangLeft (u.faulted n) m.gang t) :
    u.opFailed n = (t.quarantined (((u.socket n).view.map (·.serial)).getD 0)).cartFault m.job := by
  have hfault : u.memberFault n m = (t.quarantined (((u.socket n).view.map (·.serial)).getD 0)).cartFault m.job := by
    rw [State.memberFault, State.faultSocket_eq, hleft.leaveGang, State.quarantineSerial_eq, State.serialAt_eq]
  rw [← hfault]
  rcases hs with hs | hs <;> rw [State.opFailed, hs]

theorem State.cartFault_first {j : Job} (hl : s.loan? j.loan = some l) (hc : l.cart = some ⟨.copy, .copying, 0⟩) :
    s.cartFault j = (s.modLoan j.loan fun y => { y with cart := some ⟨.copy, .queued, 1⟩ }).requeueJob j := by
  rw [State.cartFault, hl]
  dsimp only
  rw [hc]
  dsimp only
  rw [if_pos rfl, State.loan?_number hl]

theorem State.cartFault_ignored {j : Job} (hl : s.loan? j.loan = some l)
    (hno : ∀ a, l.cart ≠ some ⟨.copy, .copying, a⟩) : s.cartFault j = s := by
  rw [State.cartFault, hl]
  dsimp only
  split
  next a hc => exact absurd hc (hno a)
  next => rfl

/-- The second fault of a loan's copy releases it. -/
theorem State.cartFault_second {j : Job} {a : Nat} {e : Entry} (hl : s.loan? j.loan = some l)
    (hc : l.cart = some ⟨.copy, .copying, a⟩) (ha : a ≠ 0) (hs : l.state = .claimed) (hb : BrailleRow s l b)
    (he : s.BookHolds j.loan e) : OwnReleased (b.dropLoan j.loan) e .copyFailed (s.cartFault j) := by
  have hrelease : s.cartFault j = s.release j.loan .copyFailed ⟨true, false⟩ := by
    rw [State.cartFault, hl]
    dsimp only
    rw [hc]
    dsimp only
    rw [if_neg ha, State.loan?_number hl]
  rw [hrelease]
  exact State.release_braille .copyFailed hl hs hb he

/-! ### A tagging fault (R69, R114) -/

theorem State.opFailed_tagging {withdrawn : Bool} (hs : (u.socket n).state = .tagging loan withdrawn) :
    u.opFailed n =
      (((u.faulted n).quarantined (((u.socket n).view.map (·.serial)).getD 0)).dropIssuing loan).taggingFault loan := by
  rw [State.opFailed, hs]
  dsimp only
  rw [State.tagFailed, State.faultSocket_eq, State.quarantineSerial_eq, State.serialAt_eq]

theorem State.taggingFault_none (hl : s.loan? loan = none) : s.taggingFault loan = s := by
  rw [State.taggingFault, hl]

theorem State.taggingFault_taken {a : Nat} (hl : s.loan? loan = some l) (hc : l.cart = some ⟨.reissue, .copying, a⟩) :
    s.taggingFault loan = s.fallback l := by
  rw [State.taggingFault, hl]
  dsimp only
  rw [hc]

theorem State.dropIssuing_none (h : s.issuing? loan = none) : s.dropIssuing loan = s := by
  rw [State.dropIssuing, h]

/-! ### A check or an erase that fails (R139, R141, R145) -/

theorem State.opFailed_closing (hs : (u.socket n).state = .checking c) (hphase : ∀ i acc, c.phase ≠ .verify i acc) :
    u.opFailed n =
      (((u.faulted n).handOver n c).quarantined (((u.socket n).view.map (·.serial)).getD 0)).condition c .quarantined
        false := by
  have hfailed : u.opFailed n = u.slotCloseFailed n c := by
    rw [State.opFailed, hs]
    dsimp only
    split
    next i acc h => exact absurd h (hphase i acc)
    next => rfl
  rw [hfailed, State.slotCloseFailed, State.faultSocket_eq, State.quarantineSerial_eq, State.serialAt_eq]

theorem State.opFailed_verify {i : Nat} {acc : BitVec 32} (hs : (u.socket n).state = .checking c)
    (hphase : c.phase = .verify i acc) : u.opFailed n = u.startErase n c (u.lastBlock n) := by
  rw [State.opFailed, hs]
  dsimp only
  rw [hphase]

theorem State.opFailed_erasing {stop : Nat} {e : EraseStep} (hs : (u.socket n).state = .erasing c stop e) :
    u.opFailed n =
      ((u.faulted n).quarantined (((u.socket n).view.map (·.serial)).getD 0)).condition c .quarantined false := by
  rw [State.opFailed, hs]
  dsimp only
  rw [State.eraseFailed, State.faultSocket_eq, State.quarantineSerial_eq, State.serialAt_eq]

theorem State.opFailed_aborting (hs : (u.socket n).state = .aborting) : u.opFailed n = u.leaveAborting n := by
  rw [State.opFailed, hs]

theorem State.serialAt_faulted : (u.faulted n).serialAt n = ((u.socket n).view.map (·.serial)).getD 0 := by
  have hsocket : (u.faulted n).socket n = { u.socket n with state := .fault, op := none, hold := none } :=
    State.socket_setSocket_self _ _ _
  rw [State.serialAt_eq, hsocket]

end Sys2Proof.Machine
end

section
/-! PROOFS. The steps of a guarded operation and what its owner makes of its end: O47. -/

namespace Sys2Proof.Machine

/-- Settles O47: the stage of R82 and the answer pick the step; the socket's state picks the owner and what it does. -/
theorem guardedOperationSteps : Obligations.GuardedOperationSteps := by
  refine ⟨?_, ?_⟩
  · intro s n w g a k r limit failed fails hhold
    have hexec {op : Op} (hop : k.op = some op) (hawaits : op.awaitsState = true) (e : OpEnd) :=
      exec_stateCompletion (s := s) (n := n) (a := a) (e := e) hop hhold hawaits
    have hends {op : Op} (hop : k.op = some op) (hawaits : op.awaitsState = true) {held : Bool} {t : State}
        (ht : (s.setSocket n { k with link := CartLink.answer a }).answered n op a held = t) : Ends (r held) w t :=
      .of_eq ((hexec hop hawaits ⟨held, w⟩).trans (by rw [← ht]))
    have hfails {op : Op} (hop : k.op = some op) (hawaits : op.awaitsState = true)
        (ht : ∀ held, (s.setSocket n { k with link := CartLink.answer a }).answered n op a held =
          (s.setSocket n { k with link := CartLink.answer a }).sendLock n held true) : fails :=
      ⟨hends hop hawaits ((ht false).trans (State.lockFails_eq k)),
        hends hop hawaits ((ht true).trans (State.lockHeld_eq k true))⟩
    refine ⟨fun p hop => ⟨fun hbusy hlatch held => hends hop rfl ?_, fun h => hfails hop rfl fun held =>
      State.answered_early held h⟩, fun d hst => ?_⟩
    · have hlink : CartLink.answer a = ⟨false, true, a.fault⟩ := by rw [CartLink.answer, hbusy, hlatch]
      rw [State.answered_ready held hbusy hlatch, State.sendCommand, State.modSocket_setSocket, hlink]
      cases g <;> rfl
    · obtain ⟨st, hop, hst⟩ : ∃ st : GuardStage, k.op = some (.guarded g st) ∧ st.awaitsEnd d := by
        rcases hst with hop | ⟨p, hop⟩
        · exact ⟨_, hop, .inl rfl⟩
        · exact ⟨_, hop, .inr ⟨p, rfl⟩⟩
      have hawaits := GuardStage.awaitsState_of_awaitsEnd (g := g) hst
      refine ⟨fun hbusy held => hends hop hawaits ?_, fun hbusy hf => hfails hop hawaits fun held =>
        State.answered_failed held hst hbusy hf, fun hbusy hf hl held => hends hop hawaits ?_⟩
      · have hlink : CartLink.answer a = ⟨true, a.latch, a.fault⟩ := by rw [CartLink.answer, hbusy]
        rw [State.answered_busy held hst hbusy, State.modSocket_setSocket, hlink]
      · have hlink : CartLink.answer a = ⟨false, false, false⟩ := by rw [CartLink.answer, hbusy, hf, hl]
        rw [State.answered_good held hst hbusy hf hl, State.guardSucceeds, State.modSocket_setSocket, hlink]
  · intro u n k own serial asks reads quarantined fault fills quietly
    have hfault : fault = u.faulted n := State.raise_eq _ _
    have hown {slot : Nat} {v : View} : u.isOwnByte (slotIssuer (v.slot slot)) = true ↔
        ∃ x, u.start.own = some x ∧ x.toNat = slotIssuer (v.slot slot) := State.isOwnByte_iff
    have hfills (c : Check) (t : State) (x : Condition) (h : c.mode ≠ .foreignReturn ∨ .returns ∈ t.line.pacing) :
        t.condition c x false = fills c t x := by
      simp only [fills]
      split
      next loan hm hl =>
        rw [State.condition_of_foreign x false hm hl, State.setCondition_of_no_offer loan x
          (.inr (h.resolve_left fun hne => hne hm))]
        rfl
      next hno =>
        rw [State.condition, Check.outboxLoan]
        split
        next loan hl =>
          split at hl
          next hm => exact absurd hl (hno loan hm)
          next => cases hl
        next => rfl
    clear_value fault
    subst hfault
    refine ⟨State.opFailed_fault, fun v hv hk => ?_, fun m l t hs hleft hl => ?_, fun loan x withdrawn hs => ?_,
      fun c hs hphase hq => ?_, fun c i acc v hs hphase hv hk hm => ?_, fun c stop e hs hq => ?_⟩
    · intro last
      have hnext (e : EraseStep) (b : Nat) (h : e = .block b) (hb : b ≠ 0 ∧ b < v.capacity.blocks) :
          ∀ q, e = .block q → q ≠ 0 ∧ q < v.capacity.blocks := fun q hq => by
        obtain rfl := EraseStep.block.inj (h.symm.trans hq)
        exact hb
      have hblocks := v.capacity.one_lt_blocks
      have hserial : serial = v.serial := by
        simp only [serial, k, hv]
        rfl
      refine ⟨fun hs => ?_, fun b hs hb => ?_, fun b hs hb => ?_, fun hs => State.opSucceeded_cleaned hs,
        fun m g hs hg hone hindex => ?_, fun m slot hs hp hlen hfree => ?_, fun m l a t hs hp hleft hone hl hc => ?_,
        fun loan l a hs hone hl hc => ?_, fun loan slot hs hlen hlatest hopen => ?_, fun c hs hm => ⟨fun hworn hq => ?_,
          fun hworn hc => ?_⟩, fun c hs hm hworn hc => ?_, fun c loan hs hm hl hworn hc => ⟨?_, fun hno => ?_⟩,
        fun c stop hs hstop => ?_, fun c stop b hs => ⟨fun hb hcap => ?_, fun hb => ?_⟩, fun c stop hs hq => ?_, fun hs => ?_⟩
      · exact State.opSucceeded_cleaning hv hk hs (e' := .block 1) (if_pos (by omega))
          (hnext _ 1 rfl ⟨by omega, hblocks⟩)
      · exact State.opSucceeded_cleaning hv hk hs (e' := .block (b + 1)) (if_pos hb)
          (hnext _ (b + 1) rfl ⟨by omega, by omega⟩)
      · exact State.opSucceeded_cleaning hv hk hs (e' := .marker) (if_neg (by omega)) nofun
      · refine ⟨fun hp => ⟨fun hloaded => ?_, fun hloaded hclean => ?_, fun hloaded hclean => ?_⟩, fun again hp => ?_,
          fun again i hp => ⟨fun hi => ?_, fun hi => ?_⟩⟩
        · exact (State.opSucceeded_preparing hs hp).trans (State.memberPrepared_waits hg hloaded)
        · rw [State.opSucceeded_preparing hs hp, State.memberPrepared_works hg hloaded, if_neg (by simp [hclean])]
          exact State.startPage_eq hv hk hone hindex (by omega) _
        · rw [State.opSucceeded_preparing hs hp, State.memberPrepared_works hg hloaded, if_pos hclean]
          exact State.startClear_eq hv hk hone hindex _
        · rw [State.opSucceeded_working hs hp, State.workNext_cleared hg]
          exact State.startPage_eq hv hk hone hindex (by omega) _
        · rw [State.opSucceeded_working hs hp, State.workNext_page hg hi]
          exact State.startPage_eq hv hk hone hindex (by omega) _
        · rw [State.opSucceeded_working hs hp, State.workNext_readBack hg hi]
          exact State.startBlockRead_putSock hv _ hindex
      · exact State.opSucceeded_contentWritten hv hk hlen hs hp hfree
      · exact State.opSucceeded_tagged hv hs hp hleft hone hl hc
      · exact State.opSucceeded_reissued hv hs hone hl hc
      · exact State.opSucceeded_withdrawn hv hk hlen hs hlatest hopen
      · rw [State.opSucceeded_checking hs, State.handOver_of_not_own hm, State.dispose_retires hv hworn]
        refine hfills c (u.rejected n (u.socket n) v.serial .worn) .retired ?_
        rw [State.rejected, State.raise_line]
        exact hq
      · rw [State.opSucceeded_checking hs, State.handOver_of_not_own hm]
        exact State.dispose_reads hv hworn hc
      · have hnot : c.mode ≠ .ownReturn := by rw [hm]; decide
        rw [State.opSucceeded_checking hs, State.handOver_of_not_own hnot, State.dispose_erases hv hworn hc,
          State.startErase_eq hv hk, State.condition_of_not_foreign _ _ (by rw [hm]; decide)]
      · have hsocket : (u.cartReturn loan v.serial).socket n = k := by
          rw [State.socket, State.cartReturn_sockets]
          rfl
        rw [State.opSucceeded_checking hs, State.handOver_of_own hm hl, State.serialAt_of_view hv,
          State.dispose_reads (u := u.cartReturn loan v.serial) (by rw [hsocket]; exact hv) hworn hc, hsocket]
      · exact State.cartReturn_ignored hno
      · exact State.opSucceeded_erasing hv hk hs (e' := .block 1) (if_pos hstop) (hnext _ 1 rfl ⟨by omega, hblocks⟩)
      · exact State.opSucceeded_erasing hv hk hs (e' := .block (b + 1)) (if_pos hb) (hnext _ (b + 1) rfl ⟨by omega, hcap⟩)
      · exact State.opSucceeded_erasing hv hk hs (e' := .marker) (if_neg (by omega)) nofun
      · rw [State.opSucceeded_erased hv hs]
        refine hfills c _ .erased ?_
        rw [State.raise_line]
        exact hq
      · intro leaves
        have hleaves {t : State} (h : u.leaveAborting n = t) : leaves t :=
          ⟨(State.opSucceeded_aborting hs).trans h, (State.opFailed_aborting hs).trans h⟩
        refine ⟨fun hno => hleaves (State.leaveAborting_blank hv fun slot ho => ?_), fun slot x hlen ho hx hissuer =>
          hleaves (State.leaveAborting_closes hv hk hlen ho (hown.mpr ⟨x, hx, hissuer⟩))⟩
        rw [← Bool.not_eq_true, hown]
        rintro ⟨x, hx, hissuer⟩
        exact hno slot ho x hx hissuer
    · have hl' : (t.quarantined serial).loan? m.job.loan = some l := by
        rw [State.loan?, show (t.quarantined serial).tables = u.tables from hleft.tables]
        exact hl
      have hfail := State.opFailed_member hs hleft
      refine ⟨fun hc => ?_, fun hno => hfail.trans (State.cartFault_ignored hl' hno),
        fun a e b hc ha hclaimed hb hloan horder => ?_⟩
      · rw [hfail, State.cartFault_first hl' hc]
        rfl
      · rw [hfail]
        exact State.cartFault_second hl' hc ha hclaimed hb (State.BookHolds.congr ⟨hloan, horder⟩ hleft.book)
    · have hfail := State.opFailed_tagging hs
      refine ⟨fun hx hl => ?_, fun l a d hx hl hc hd hvalid hload => ?_⟩
      · rw [hfail, State.dropIssuing_none (s := (u.faulted n).quarantined _) hx,
          State.taggingFault_none (s := (u.faulted n).quarantined _) hl]
        rfl
      · intro m
        rw [hfail, State.dropIssuing_eq (s := (u.faulted n).quarantined _) hx,
          State.taggingFault_taken (s := ((u.faulted n).quarantined _).dropStock _) hl hc,
          State.fallback_job (s := ((u.faulted n).quarantined _).dropStock _) hd hvalid hload, State.loan?_number hl]
        rfl
    · have hfail := State.opFailed_closing hs hphase
      refine ⟨fun hm => ?_, fun loan hm hl => ?_⟩
      · rw [hfail, State.handOver_of_not_own hm]
        exact hfills c ((u.faulted n).quarantined serial) .quarantined hq
      · rw [hfail, State.handOver_of_own hm hl, State.serialAt_faulted,
          State.condition_of_not_foreign _ _ (by rw [hm]; decide)]
        rfl
    · rw [State.opFailed_verify hs hphase, State.lastBlock_eq hv, State.startErase_eq hv hk,
        State.condition_of_not_foreign _ _ (by rw [hm]; decide)]
    · rw [State.opFailed_erasing hs]
      exact hfills c ((u.faulted n).quarantined serial) .quarantined hq

end Sys2Proof.Machine
end

section
/-! PROOFS. The ends of a READ: identification, a member's compare, an ingest and a check (R76, R80, R87, R102, R104, R122,
R141 to R144): O45. -/

namespace Sys2Proof.Machine

variable {s t u : State} {n : Idx8} {v : View} {bytes : List Byte} {w : RecordWrite}

/-! ### The identity record (R76, R182) -/

theorem capacityOf_eq_some {c : Byte} {x : Capacity} : capacityOf c.toNat = some x ↔
    x = .small ∧ c = 1 ∨ x = .medium ∧ c = 2 ∨ x = .large ∧ c = 3 := by
  have h1 : c.toNat = 1 ↔ c = 1 := ⟨fun h => BitVec.eq_of_toNat_eq h, fun h => by rw [h]; rfl⟩
  have h2 : c.toNat = 2 ↔ c = 2 := ⟨fun h => BitVec.eq_of_toNat_eq h, fun h => by rw [h]; rfl⟩
  have h3 : c.toNat = 3 ↔ c = 3 := ⟨fun h => BitVec.eq_of_toNat_eq h, fun h => by rw [h]; rfl⟩
  unfold capacityOf
  simp only [h1, h2, h3]
  split
  next h => subst h; cases x <;> decide
  next =>
    split
    next h => subst h; cases x <;> decide
    next =>
      split
      next h => subst h; cases x <;> decide
      next n1 n2 n3 => simp only [n1, n2, n3, and_false, or_self, reduceCtorEq]

theorem cartKindOf_eq_some {c : Byte} {x : CartKind} : cartKindOf c.toNat = some x ↔
    x = .stock ∧ c = 1 ∨ x = .master ∧ c = 2 := by
  have h1 : c.toNat = 1 ↔ c = 1 := ⟨fun h => BitVec.eq_of_toNat_eq h, fun h => by rw [h]; rfl⟩
  have h2 : c.toNat = 2 ↔ c = 2 := ⟨fun h => BitVec.eq_of_toNat_eq h, fun h => by rw [h]; rfl⟩
  unfold cartKindOf
  simp only [h1, h2]
  split
  next h => subst h; cases x <;> decide
  next =>
    split
    next h => subst h; cases x <;> decide
    next n1 n2 => simp only [n1, n2, and_false, or_self, reduceCtorEq]

/-- The byte of a record that a one-byte field reads. -/
theorem numAt_one_iff {b : List Byte} {a : Nat} (ha : a < b.length) (p : Nat → Prop) :
    p (numAt b a 1) ↔ ∃ c, b[a]? = some c ∧ p c.toNat := by
  rw [numAt_one ha, List.getElem?_eq_getElem ha, List.getD_eq_getElem _ _ ha]
  simp

theorem parseIdentity_eq_some {b : List Byte} {id : Serial × Capacity × CartKind} : parseIdentity b = some id ↔
    slice b 0 4 = ascii "TBKC" ∧ numAt b 4 4 ≠ 0 ∧ slice b 12 2 = bytesOf 2 (crc16Bytes (slice b 0 12)).toNat ∧
      capacityOf (numAt b 8 1) = some id.2.1 ∧ cartKindOf (numAt b 9 1) = some id.2.2 ∧
      id.1 = BitVec.ofNat 32 (numAt b 4 4) := by
  obtain ⟨x, c, k⟩ := id
  unfold parseIdentity
  split
  next h =>
    obtain ⟨hsig, hserial, hcheck⟩ := h
    cases hc : capacityOf (numAt b 8 1) with
    | none => simp
    | some c' =>
      cases hk : cartKindOf (numAt b 9 1) with
      | none => simp
      | some k' =>
        simp only [Option.some.injEq, Prod.mk.injEq]
        exact ⟨fun ⟨hx, hc, hk⟩ => ⟨hsig, hserial, hcheck, hc, hk, hx.symm⟩,
          fun ⟨_, _, _, hc, hk, hx⟩ => ⟨hx.symm, hc, hk⟩⟩
  next h => exact ⟨nofun, fun ⟨hsig, hserial, hcheck, _⟩ => absurd ⟨hsig, hserial, hcheck⟩ h⟩

/-- A serial stands in the four bytes that hold it. -/
theorem serial_eq_iff {b : List Byte} {x : Serial} :
    numAt b 4 4 ≠ 0 ∧ x = BitVec.ofNat 32 (numAt b 4 4) ↔ x.toNat = numAt b 4 4 ∧ x ≠ 0 := by
  have hnat : (BitVec.ofNat 32 (numAt b 4 4)).toNat = numAt b 4 4 := toNat_ofNat_numAt b 4 4 (by decide)
  constructor
  · rintro ⟨hne, rfl⟩
    exact ⟨hnat, fun h => hne (by rw [← hnat, h]; rfl)⟩
  · rintro ⟨hx, hne⟩
    exact ⟨fun h => hne (BitVec.eq_of_toNat_eq (hx.trans h)), BitVec.eq_of_toNat_eq (hx.trans hnat.symm)⟩

/-- The identity record, byte by byte. -/
theorem parseIdentity_iff {b : List Byte} (hlen : b.length = 4096) (id : Serial × Capacity × CartKind) :
    parseIdentity b = some id ↔
      b.take 4 = [84, 66, 75, 67] ∧ id.1.toNat = numOfBytes ((b.drop 4).take 4) ∧ id.1 ≠ 0 ∧
      (∃ c, b[8]? = some c ∧ (id.2.1 = .small ∧ c = 1 ∨ id.2.1 = .medium ∧ c = 2 ∨ id.2.1 = .large ∧ c = 3)) ∧
      (∃ c, b[9]? = some c ∧ (id.2.2 = .stock ∧ c = 1 ∨ id.2.2 = .master ∧ c = 2)) ∧
      (b.drop 12).take 2 = [(crc16Bytes (b.take 12)).extractLsb' 8 8, (crc16Bytes (b.take 12)).extractLsb' 0 8] := by
  have hserial := serial_eq_iff (b := b) (x := id.1)
  rw [parseIdentity_eq_some, numAt_one_iff (by omega) (fun c => capacityOf c = some id.2.1),
    numAt_one_iff (by omega) (fun c => cartKindOf c = some id.2.2)]
  simp only [capacityOf_eq_some, cartKindOf_eq_some, bytesOf_two, slice, List.drop_zero]
  rw [show ascii "TBKC" = [84, 66, 75, 67] from rfl]
  constructor
  · rintro ⟨hsig, hne, hcheck, hc, hk, hx⟩
    obtain ⟨hnat, hx0⟩ := hserial.mp ⟨hne, hx⟩
    exact ⟨hsig, hnat, hx0, hc, hk, hcheck⟩
  · rintro ⟨hsig, hnat, hx0, hc, hk, hcheck⟩
    obtain ⟨hne, hx⟩ := hserial.mpr ⟨hnat, hx0⟩
    exact ⟨hsig, hne, hcheck, hc, hk, hx⟩

/-! ### The end of a READ (R80) -/

/-- A READ ends with its bytes while the ready line is not held: its owner takes them. -/
theorem exec_readCompletion {a c : Nat} (hop : (s.socket n).op = some (.read a c)) (hhold : (s.socket n).hold = none)
    (hlen : bytes.length = c) :
    exec (.readCompletion n bytes w) s =
      .next (finish w ((s.setSocket n { s.socket n with op := none }).readEnded n bytes)) := by
  have hclear : s.clearOp n = s.setSocket n { s.socket n with op := none } := by
    rw [State.clearOp, State.modSocket, ← hhold]
  change execReadCompletion n bytes w s = _
  rw [execReadCompletion, hop, hhold]
  dsimp only
  rw [if_pos hlen, hclear]

theorem exec_readCompletion_none
    (h : (s.socket n).hold ≠ none ∨ ∀ a c, (s.socket n).op = some (.read a c) → bytes.length ≠ c) :
    exec (.readCompletion n bytes w) s = .next s := by
  change execReadCompletion n bytes w s = _
  unfold execReadCompletion
  split
  next a c hop hhold => rw [if_neg (h.resolve_left (fun hne => hne hhold) a c hop)]
  next => rfl

/-! ### A member's compare (R102, R104) -/

section
variable {m : Member} {g : Gang} {b : Fin 4} {again : Bool}

theorem State.readEnded_compare (hs : (u.socket n).state = .copying m) (hp : m.progress = .working .reading again)
    (hg : u.gang? m.gang = some g) (hb : g.buffer = some b) :
    u.readEnded n bytes =
      if bytes = (u.buffer b).data then u.memberFinished n m
      else if again then u.memberFault n m
      else u.startWork n m g true := by
  have hdata : u.gangData g = (u.buffer b).data := by rw [State.gangData, hb]
  rw [State.readEnded, hs]
  dsimp only
  rw [hp, hg]
  dsimp only
  rw [hdata]

/-- The work on the block repeated once (R104). -/
theorem State.startWork_again (hv : (u.socket n).view = some v) (hk : v.kind = .stock) (hone : 1 ≤ g.index)
    (hindex : g.index < v.capacity.blocks) :
    u.startWork n m g true =
      u.setSocket n
        { u.socket n with
          state := .copying { m with progress := .working .clearing true }
          op := some (.guarded (.blockClear g.index) (.beforeCommand (some (u.socket n).link))), hold := none
          link := (u.socket n).link.unlock } := by
  rw [State.startWork, Bool.or_true, if_pos rfl]
  exact State.startClear_eq hv hk hone hindex _

/-- The only member of a gang stays its only member. -/
theorem State.membersOf_only {k : Socket} {m' : Member} {id : Nat} (h : s.membersOf id = [(n, m)])
    (hk : k.state.member = some m') (hg : m'.gang = id) : (s.setSocket n k).membersOf id = [(n, m')] := by
  have hmem : ∀ p, p ∈ (s.setSocket n k).membersOf id ↔ p = (n, m') := by
    rintro ⟨q, y⟩
    rw [State.mem_membersOf, State.socket_setSocket]
    by_cases hq : q = n
    · rw [if_pos hq, hk, hq]
      simp only [Option.some.injEq, Prod.mk.injEq, true_and]
      exact ⟨fun h => h.1.symm, fun h => ⟨h.symm, by rw [h]; exact hg⟩⟩
    · rw [if_neg hq, ← State.mem_membersOf, h, List.mem_singleton, Prod.mk.injEq, Prod.mk.injEq]
      exact ⟨fun h => absurd h.1 hq, fun h => absurd h.1 hq⟩
  have hpair := (s.setSocket n k).membersOf_pairwise (id := id)
  cases hl : (s.setSocket n k).membersOf id with
  | nil => exact absurd ((hmem _).mpr rfl) (by rw [hl]; exact List.not_mem_nil)
  | cons p ps =>
    rw [hl] at hmem hpair
    obtain rfl := (hmem p).mp List.mem_cons_self
    cases ps with
    | nil => rfl
    | cons q ps =>
      obtain rfl := (hmem q).mp (by simp)
      exact absurd rfl ((List.pairwise_cons.mp hpair).1 _ List.mem_cons_self)

theorem socketsAfter_only (f : Socket → Member → Socket) :
    socketsAfter u [(n, m)] f = (u.setSocket n (f (u.socket n) m)).sockets :=
  congrArg State.sockets (foldl_setSocket f [(n, m)] u (List.pairwise_singleton _ _)).symm

/-- A gang's only member finishes a block that is not the last: the next is read at once where the store is at rest. -/
theorem State.memberFinished_next (hone : u.membersOf m.gang = [(n, m)]) (hg : u.gang? m.gang = some g)
    (hb : g.buffer = some b) (hloaded : g.loaded = true) (hcurrent : u.copy.current = none)
    (hidle : ∀ q, (u.buffer q).request = none) (hindex : g.index < g.len) :
    u.memberFinished n m =
      { u.setSocket n { u.socket n with state := .copying { m with progress := .waiting } } with
        copy :=
          { u.copy with
            gangs := u.copy.gangs.map fun y =>
              if y.id = m.gang then { g with index := g.index + 1, loaded := false, done := g.index } else y
            current := some (b, .read g.work g.start (g.start + g.index)), pointer := b } } := by
  obtain ⟨t, ht⟩ : ∃ t, t = u.putProgress n m .finished := ⟨_, rfl⟩
  have hmembers : t.membersOf m.gang = [(n, { m with progress := .finished })] := by
    rw [ht]
    exact State.membersOf_only hone rfl rfl
  have hgang : t.gang? m.gang = some g := by
    rw [ht]
    exact hg
  have hsocket : t.socket n = { u.socket n with state := .copying { m with progress := .finished } } := by
    rw [ht]
    exact State.socket_setSocket_self _ _ _
  have hset (k : Socket) : t.setSocket n k = u.setSocket n k := by
    rw [ht]
    exact State.setSocket_setSocket _ _
  rw [State.memberFinished, ← ht, State.gangAdvance_next hgang hb hloaded (by
    rw [hmembers]
    exact fun p hp => by rw [List.mem_singleton.mp hp]) hindex, hmembers, socketsAfter_only, hset, hsocket,
    State.requestBlock_of_free]
  · rw [ht]
    rfl
  · rw [ht]
    exact hcurrent
  · rw [ht]
    exact hidle

/-- A gang's only member finishes the last block: it goes on to its content record, and the buffer is free. -/
theorem State.memberFinished_last (hone : u.membersOf m.gang = [(n, m)]) (hg : u.gang? m.gang = some g)
    (hb : g.buffer = some b) (hloaded : g.loaded = true) (hcurrent : u.copy.current = none) (hindex : g.len ≤ g.index)
    (hv : (u.socket n).view = some v) (hk : v.kind = .stock) :
    u.memberFinished n m =
      { u.setSocket n ((u.socket n).finishes u m) with
        copy :=
          { u.copy with
            gangs := u.copy.gangs.map fun y => if y.id = m.gang then { y with done := y.len, buffer := none } else y
            buffers := (u.setBuffer b ⟨.free, [], none⟩).copy.buffers } } := by
  obtain ⟨t, ht⟩ : ∃ t, t = u.putProgress n m .finished := ⟨_, rfl⟩
  have hmembers : t.membersOf m.gang = [(n, { m with progress := .finished })] := by
    rw [ht]
    exact State.membersOf_only hone rfl rfl
  have hgang : t.gang? m.gang = some g := by
    rw [ht]
    exact hg
  have hsocket : t.socket n = { u.socket n with state := .copying { m with progress := .finished } } := by
    rw [ht]
    exact State.socket_setSocket_self _ _ _
  have hset (k : Socket) : t.setSocket n k = u.setSocket n k := by
    rw [ht]
    exact State.setSocket_setSocket _ _
  have hfree : ∀ q, t.copy.current = some q → q.1 ≠ b := fun q hq => by
    rw [ht, show (u.putProgress n m .finished).copy = u.copy from rfl, hcurrent] at hq
    cases hq
  rw [State.memberFinished, ← ht, State.gangAdvance_last hgang hb hloaded (by
    rw [hmembers]
    exact fun p hp => by rw [List.mem_singleton.mp hp]) hindex (by
    rw [hmembers]
    exact fun p hp => ⟨v, by rw [List.mem_singleton.mp hp, hsocket]; exact hv, hk⟩), hmembers, socketsAfter_only, hset,
    hsocket, State.freeBuffer_of_not_current]
  · rw [ht]
    rfl
  · exact hfree

end

end Sys2Proof.Machine
end

section
/-! PROOFS. The reads of an ingest and of a check (R122, R141 to R144), and the ends of a READ: O45. -/

namespace Sys2Proof.Machine

variable {s t u : State} {n : Idx8} {v : View} {bytes : List Byte} {w : RecordWrite} {c : Check}

/-! ### The end of an identification (R87, R88) -/

section
variable {sector0 : List Byte} (hs : (u.socket n).state = .identifying (some sector0))
include hs

theorem State.readEnded_foreign (hid : parseIdentity sector0 = none) (hv : (u.socket n).view = none) :
    u.readEnded n bytes =
      (u.setSocket n { u.socket n with state := .rejected .foreign, op := none, hold := none }).raise
        (.rejected n 0 .foreign) := by
  have hserial : u.serialAt n = 0 := by
    rw [State.serialAt_eq, hv]
    rfl
  rw [State.readEnded, hs]
  dsimp only
  rw [State.identified, hid]
  dsimp only
  rw [State.rejectSocket, hserial]
  rfl

theorem State.readEnded_identified {id : Serial × Capacity × CartKind} (hid : parseIdentity sector0 = some id) :
    u.readEnded n bytes =
      (u.setSocket n { u.socket n with view := some (View.build id sector0 bytes), op := none }).classify n
        (View.build id sector0 bytes) := by
  rw [State.readEnded, hs]
  dsimp only
  rw [State.identified, hid]
  rfl

end

/-! ### An ingest's read (R122) -/

section
variable {i : Ingest} {b : Fin 4} {d : DirEntry}

theorem State.readEnded_ingest (hs : (u.socket n).state = .ingesting i) (hb : i.buffer = some b)
    (hd : u.dir? i.work = some d) :
    u.readEnded n bytes =
      ((u.setSocket n { u.socket n with state := .ingesting { i with acc := imageAdd i.acc bytes } }).setBuffer b
        { u.buffer b with data := bytes }).requestBlock b (.write (d.start + i.index - 1)) := by
  rw [State.readEnded, hs]
  dsimp only
  rw [State.ingestRead, hb, hd]
  rfl

/-- With the store at rest the block's write begins at once. -/
theorem State.readEnded_ingest_free (hs : (u.socket n).state = .ingesting i) (hb : i.buffer = some b)
    (hd : u.dir? i.work = some d) (hcurrent : u.copy.current = none) (hidle : ∀ q, (u.buffer q).request = none) :
    u.readEnded n bytes =
      { u.setSocket n { u.socket n with state := .ingesting { i with acc := imageAdd i.acc bytes } } with
        copy :=
          { u.copy with
            buffers := (u.setBuffer b ⟨(u.buffer b).owner, bytes, none⟩).copy.buffers
            current := some (b, .write (d.start + i.index - 1)), pointer := b } } := by
  have hbuffer : ({ u.buffer b with data := bytes } : Buffer) = ⟨(u.buffer b).owner, bytes, none⟩ := by
    rw [← hidle b]
  have hfilled : (u.setBuffer b ⟨(u.buffer b).owner, bytes, none⟩).storeIdle := State.storeIdle.setBuffer hidle rfl
  rw [State.readEnded_ingest hs hb hd, hbuffer, State.requestBlock_of_free]
  · rfl
  · exact hcurrent
  · exact hfilled.congr rfl

/-- With the store busy the write waits at the buffer. -/
theorem State.readEnded_ingest_busy (hs : (u.socket n).state = .ingesting i) (hb : i.buffer = some b)
    (hd : u.dir? i.work = some d) (hcurrent : u.copy.current ≠ none) :
    u.readEnded n bytes =
      (u.setSocket n { u.socket n with state := .ingesting { i with acc := imageAdd i.acc bytes } }).setBuffer b
        ⟨(u.buffer b).owner, bytes, some (.write (d.start + i.index - 1))⟩ := by
  rw [State.readEnded_ingest hs hb hd, State.requestBlock_of_busy, State.setBuffer_setBuffer,
    State.buffer_setBuffer_self]
  exact hcurrent

end

/-! ### A check's read (R141 to R144) -/

/-- The keep condition (R142). -/
theorem State.keepWanted_iff {k : Work} : s.keepWanted k = true ↔
    s.tables.stock.length < 256 ∧
      ((s.tables.stock.countP fun y => y.work == k) < s.cfg.keepLimit ∨
        ∃ e ∈ s.book.entries, e.work = k ∧ e.format ≠ .braille ∧ ((∃ d, e.state = .window d) ∨ e.state = .unbid)) := by
  have hcartridge (f : Format) : f.hasCartridge = true ↔ f ≠ .braille := by cases f <;> decide
  rw [State.keepWanted, Bool.and_eq_true, decide_eq_true_iff, Bool.or_eq_true, decide_eq_true_iff, List.any_eq_true,
    List.countP_eq_length_filter]
  refine and_congr Iff.rfl (or_congr Iff.rfl (exists_congr fun e => and_congr Iff.rfl ?_))
  rw [Bool.and_eq_true, Bool.and_eq_true, beq_iff_eq, hcartridge, and_assoc]
  cases e.state <;> simp

section
variable {i : Nat} {acc : BitVec 32}

theorem State.readEnded_verify (hs : (u.socket n).state = .checking c) (hphase : c.phase = .verify i acc)
    (hv : (u.socket n).view = some v) :
    u.readEnded n bytes =
      if i < v.len then u.startVerify n c (i + 1) (imageAdd acc bytes) else u.verifyEnd n c v (imageAdd acc bytes) := by
  rw [State.readEnded, hs]
  dsimp only
  rw [hphase]
  dsimp only
  rw [State.verifyRead, hv]

theorem State.verifyEnd_kept {sum : BitVec 32} (hmatch : ~~~sum = v.check) (hwanted : u.keepWanted v.work = true) :
    u.verifyEnd n c v sum = u.keep n c v := by
  rw [State.verifyEnd, imageFinish, if_pos hmatch, if_pos hwanted]

theorem State.verifyEnd_unwanted {sum : BitVec 32} (hmatch : ~~~sum = v.check) (hno : ¬ u.keepWanted v.work = true) :
    u.verifyEnd n c v sum = u.startErase n c v.shortRange := by
  rw [State.verifyEnd, imageFinish, if_pos hmatch, if_neg hno]

theorem State.verifyEnd_bad {sum : BitVec 32} (hbad : ¬ ~~~sum = v.check) :
    u.verifyEnd n c v sum = u.startErase n c (v.capacity.blocks - 1) := by
  rw [State.verifyEnd, imageFinish, if_neg hbad]

/-- The stock table once a cartridge's record is kept. -/
theorem State.keepRecord_new (h : u.stock? v.serial = none) :
    u.keepRecord v =
      { u with tables := { u.tables with stock := u.tables.stock ++ [⟨v.serial, v.work, v.used, .free, none⟩] } } := by
  rw [State.keepRecord, h]
  rfl

theorem State.keepRecord_known (h : (u.stock? v.serial).isSome) :
    u.keepRecord v =
      { u with
        tables :=
          { u.tables with
            stock := u.tables.stock.map fun y =>
              if y.serial = v.serial then { y with work := v.work, used := v.used } else y } } := if_pos h

/-- A keep, whatever the stock table then holds (R143). -/
theorem State.keep_eq {stock : List StockRec}
    (h : (u.setSocket n { u.socket n with state := .kept c, op := none }).keepRecord v =
      { u.setSocket n { u.socket n with state := .kept c, op := none } with
        tables := { u.tables with stock := stock } }) :
    u.keep n c v =
      ((State.cartridgeGain
        { u.setSocket n { u.socket n with state := .kept c, op := none } with
          tables := { u.tables with stock := stock } } v.work).raise (.kept n v.serial v.work v.used)).condition c .kept
        false := by
  rw [← h]
  rfl

end

/-- A check of no foreign return with a loan has no outbox entry to fill. -/
theorem State.condition_of_no_loan (x : Condition) (held : Bool)
    (hno : ∀ l, c.mode = .foreignReturn → c.loan = some l → False) : t.condition c x held = t := by
  rw [State.condition, Check.outboxLoan]
  split
  next loan hl =>
    split at hl
    next hm => exact (hno loan hm hl).elim
    next => cases hl
  next => rfl

/-- Settles O45: the operation, the socket's state and the bytes pick the end. -/
theorem identificationReadsRecords : Obligations.IdentificationReadsRecords := by
  intro s n w k
  have hread {bytes : List Byte} {a c : Nat} {t : State} (hop : k.op = some (.read a c)) (hhold : k.hold = none)
      (hlen : bytes.length = c) (ht : (s.setSocket n { k with op := none }).readEnded n bytes = t) :
      Ends (exec (.readCompletion n bytes w) s) w t :=
    .of_eq ((exec_readCompletion (s := s) hop hhold hlen).trans (by rw [← ht]))
  have hself (a : Socket) : (s.setSocket n a).socket n = a := State.socket_setSocket_self _ _ _
  refine ⟨fun limit a hop hhold => ?_, fun bytes hop hhold hs hlen => hread hop hhold hlen ?_,
    fun sector0 sector1 hop hhold hs hlen => ⟨fun hid hview => hread hop hhold hlen ?_, fun id hid =>
      hread hop hhold hlen ?_⟩, fun bytes h => exec_readCompletion_none h, fun b hlen id => parseIdentity_iff hlen id,
    fun bytes a c hop hhold hlen => ?_⟩
  · have hends {held : Bool} {t : State}
        (ht : (s.setSocket n { k with link := CartLink.answer a }).answered n (.awaitReady limit) a held = t) :
        Ends (exec (.stateCompletion n a ⟨held, w⟩) s) w t :=
      .of_eq ((exec_stateCompletion (s := s) hop hhold rfl).trans (by rw [← ht]))
    refine ⟨fun hbusy held => hends ?_, fun hbusy => ⟨hends ?_, hends ?_⟩⟩
    · rw [State.answered, if_pos hbusy, CartLink.answer, hbusy]
    · rw [State.answered, if_neg (by simp [hbusy]), State.sendLock_false, State.locked_false, hself,
        State.setSocket_setSocket, CartLink.lock_answer, hbusy, hhold]
      rfl
    · rw [State.answered, if_neg (by simp [hbusy]), State.lockHeld_eq, hbusy]
  · rw [State.readEnded, hself, hs]
    dsimp only
    exact State.modSocket_setSocket _ _
  · rw [State.readEnded_foreign (by rw [hself]; exact hs) hid (by rw [hself]; exact hview), hself,
      State.setSocket_setSocket, hhold]
  · rw [State.readEnded_identified (by rw [hself]; exact hs) hid, hself, State.setSocket_setSocket]
  · intro r u
    have hends {t : State} (ht : u.readEnded n bytes = t) : Ends r w t := hread hop hhold hlen ht
    have hsocket : u.socket n = { k with op := none } := hself _
    have hset (x : Socket) : u.setSocket n x = s.setSocket n x := State.setSocket_setSocket _ _
    have hstate {st : SockState} (hs : k.state = st) : (u.socket n).state = st := by
      rw [hsocket]
      exact hs
    have hview {v : View} (hv : k.view = some v) : (u.socket n).view = some v := by
      rw [hsocket]
      exact hv
    refine ⟨fun m again g b hs hp hg hb => ?_, fun i b d hs hb hd => ?_, fun check i acc v hs hphase hv => ?_⟩
    · intro done
      have hcompare := State.readEnded_compare (u := u) (bytes := bytes) (hstate hs) hp hg hb
      refine ⟨fun hequal => ?_, fun hdiffer => ?_⟩
      · rw [if_pos (show bytes = (u.buffer b).data from hequal)] at hcompare
        refine ⟨fun hmore => hends (hcompare.trans ?_), fun hone hloaded hcurrent hidle => ?_⟩
        · obtain ⟨p, hpm, hpn, hunfinished⟩ := hmore
          have hput : u.putProgress n m .finished = s.setSocket n { k with state := .copying done, op := none } :=
            State.putSock_setSocket _ _
          rw [State.memberFinished, hput]
          refine State.gangAdvance_of_unfinished ⟨p, ?_, hunfinished⟩
          obtain ⟨hmember, hgang⟩ := State.mem_membersOf.mp hpm
          refine State.mem_membersOf.mpr ⟨?_, hgang⟩
          rw [State.socket_setSocket, if_neg hpn]
          exact hmember
        · have hmember : ({ k with op := none } : Socket).state.member = some m := by
            rw [show ({ k with op := none } : Socket).state = .copying m from hs]
            rfl
          have honly : u.membersOf m.gang = [(n, m)] := State.membersOf_only hone hmember rfl
          refine ⟨fun hindex => hends (hcompare.trans ?_), fun v hindex hv hk => hends (hcompare.trans ?_)⟩
          · rw [State.memberFinished_next honly hg hb hloaded hcurrent hidle hindex, hset, hsocket]
            rfl
          · rw [State.memberFinished_last honly hg hb hloaded hcurrent hindex (hview hv) hk, hset, hsocket]
            rfl
      · rw [if_neg (show ¬ bytes = (u.buffer b).data from hdiffer)] at hcompare
        refine ⟨fun v hagain hv hk hone hindex => hends (hcompare.trans ?_), fun hagain => hends (hcompare.trans ?_)⟩
        · rw [hagain, if_neg (by decide), State.startWork_again (hview hv) hk hone hindex, hset, hsocket]
        · rw [hagain, if_pos rfl, State.opFailed, hstate hs]
    · intro added write
      refine ⟨fun hcurrent hidle => hends ?_, fun hcurrent => hends ?_⟩
      · rw [State.readEnded_ingest_free (hstate hs) hb hd hcurrent hidle, hset, hsocket]
        rfl
      · rw [State.readEnded_ingest_busy (hstate hs) hb hd hcurrent, hset, hsocket]
        rfl
    · intro sum matched wanted fills erases kept
      have hverify := State.readEnded_verify (bytes := bytes) (hstate hs) hphase (hview hv)
      have hwanted : u.keepWanted v.work = true ↔ wanted := State.keepWanted_iff (s := u)
      have hfills (t : State) (x : Condition) (held : Bool)
          (h : held = true ∨ check.mode ≠ .foreignReturn ∨ .returns ∈ t.line.pacing) :
          t.condition check x held = fills t x held := by
        simp only [fills]
        split
        next loan hm hl =>
          rw [State.condition_of_foreign x held hm hl, State.setCondition_of_no_offer loan x
            (h.imp_right fun h => h.resolve_left fun hne => hne hm)]
          rfl
        next hno => exact State.condition_of_no_loan x held hno
      refine ⟨fun hlt hcap => hends ?_, fun hle => ⟨fun hmatch hwant hquiet => ?_, fun hk => ⟨fun hmatch hno => hends ?_,
        fun hbad => hends ?_⟩⟩⟩
      · rw [hverify, if_pos hlt, State.startVerify, State.startBlockRead_putSock (hview hv) _ (by omega), hset, hsocket]
      · have hkept {stock : List StockRec}
            (h : (u.setSocket n { u.socket n with state := .kept check, op := none }).keepRecord v =
              { u.setSocket n { u.socket n with state := .kept check, op := none } with
                tables := { u.tables with stock := stock } }) : u.readEnded n bytes = kept stock := by
          rw [hverify, if_neg (by omega), State.verifyEnd_kept hmatch (hwanted.mpr hwant), State.keep_eq h, hset, hsocket]
          refine hfills _ .kept false (.inr ?_)
          rw [State.raise_line]
          exact hquiet
        exact ⟨fun hnew => hends (hkept (State.keepRecord_new hnew)),
          fun hknown => hends (hkept (State.keepRecord_known hknown))⟩
      · rw [hverify, if_neg (by omega), State.verifyEnd_unwanted hmatch (hwanted.not.mpr hno),
          State.startErase_eq (hview hv) hk, hset, hsocket]
        exact hfills _ .erased true (.inl rfl)
      · rw [hverify, if_neg (by omega), State.verifyEnd_bad hbad, State.startErase_eq (hview hv) hk, hset, hsocket]
        exact hfills _ .erased true (.inl rfl)

end Sys2Proof.Machine
end
